-- ==== Sys2Proof/Word.lean ====
section
/-! DEFINITION. The word types of the CB820: what the manual adds, masks or shifts as bits. -/

namespace Sys2Proof

/-- A byte of a frame or of a fragment. -/
abbrev Byte := BitVec 8

/-- A word of table space: 4 bytes, bit 31 the most significant (spec/11). -/
abbrev Word := BitVec 32

/-- A group sequence number, 0..16383, arithmetic modulo 16384 (R1). -/
abbrev Gsn := BitVec 14

/-- A pair transmit number, 0..127, arithmetic modulo 128 (R1). -/
abbrev Txn := BitVec 7

/-- A pair (pair port), numbered 0..7. -/
abbrev PairIx := Fin 8

/-- A traffic class, 0..3. -/
abbrev ClassIx := Fin 4

end Sys2Proof
end

