-- ==== Sys2Proof/Syntax.lean ====
section
/-! DEFINITION. The commands of the CB820, one constructor per row of spec/opcode_table.json.

A command is an event at the part: a report of a transceiver, a byte from the farm, the passing of a deadline, a
control request. Its first operand `t` is the moment it is taken, in µs of the local time base (DESIGN CHOICE, unsafe; log entry 1); the
reset pin has none, since the time base counts from the end of the reset. -/

namespace Sys2Proof

/-- The side a control request comes from (R143). -/
inductive Origin where
  | farm
  | line
deriving DecidableEq, Repr

/-- The commands. -/
inductive Instr where
  /-- POWER_UP_RESET (R6): the reset pin; `straps` are strap pins 0..4 as they stand. -/
  | powerUpReset (straps : BitVec 5)
  /-- TRAIN_START (R7). -/
  | trainStart (t : Nat) (p : PairIx)
  /-- UP (R7): reported upstream and downstream rates in kbit/s. -/
  | up (t : Nat) (p : PairIx) (upRate downRate : Nat)
  /-- RATE (R10). -/
  | rate (t : Nat) (p : PairIx) (upRate downRate : Nat)
  /-- DOWN (R11). -/
  | down (t : Nat) (p : PairIx)
  /-- READY (R27). -/
  | ready (t : Nat) (p : PairIx)
  /-- RECEIVED (R26): the bytes of one fragment. -/
  | received (t : Nat) (p : PairIx) (bytes : List Byte)
  /-- PROBATION_TIME_EXPIRY (R9). -/
  | probationTimeExpiry (t : Nat) (p : PairIx)
  /-- SILENCE (R42). -/
  | silence (t : Nat) (p : PairIx)
  /-- REPLAY_TIMEOUT (R32). -/
  | replayTimeout (t : Nat) (p : PairIx)
  /-- DRAIN_LIMIT (R13). -/
  | drainLimit (t : Nat) (p : PairIx)
  /-- GUARD_WINDOW_OPEN (R48). -/
  | guardWindowOpen (t : Nat) (p : PairIx)
  /-- GUARD_WINDOW_END (R50). -/
  | guardWindowEnd (t : Nat) (p : PairIx)
  /-- FARM_BYTE_ARRIVAL (R63): one byte of a farm frame. -/
  | farmByteArrival (t : Nat) (byte : Byte)
  /-- FARM_FRAME_END (R56). -/
  | farmFrameEnd (t : Nat)
  /-- PAUSE_END (R57). -/
  | pauseEnd (t : Nat)
  /-- FARM_TRANSMIT_START (R59). -/
  | farmTransmitStart (t : Nat)
  /-- FARM_TRANSMIT_END (R59). -/
  | farmTransmitEnd (t : Nat)
  /-- REROUTE_AGE_LIMIT (R83). -/
  | rerouteAgeLimit (t : Nat)
  /-- HOLD_DEADLINE (R111). -/
  | holdDeadline (t : Nat)
  /-- RESYNC_DEADLINE (R100). -/
  | resyncDeadline (t : Nat)
  /-- SUSPENSION_END (R113). -/
  | suspensionEnd (t : Nat)
  /-- COMMIT_APPLY (R133). -/
  | commitApply (t : Nat)
  /-- DIGEST_DONE (R140). -/
  | digestDone (t : Nat)
  /-- CONTROL_FRAME_EXECUTE (R145). -/
  | controlFrameExecute (t : Nat)
  /-- READ (R150): origin, tag, word address, data length in bytes. -/
  | read (t : Nat) (o : Origin) (tag : Byte) (addr : Word) (len : Nat)
  /-- WRITE (R151): origin, tag, word address, data bytes. -/
  | write (t : Nat) (o : Origin) (tag : Byte) (addr : Word) (data : List Byte)
  /-- WRITE_POSTED (R153). -/
  | writePosted (t : Nat) (o : Origin) (tag : Byte) (addr : Word) (data : List Byte)
  /-- MASK_WRITE (R152). -/
  | maskWrite (t : Nat) (o : Origin) (tag : Byte) (addr : Word) (data : List Byte)
  /-- MASK_WRITE_POSTED (R153). -/
  | maskWritePosted (t : Nat) (o : Origin) (tag : Byte) (addr : Word) (data : List Byte)
  /-- SWAP_IF (R152). -/
  | swapIf (t : Nat) (o : Origin) (tag : Byte) (addr : Word) (data : List Byte)
  /-- ADD_SAT (R152). -/
  | addSat (t : Nat) (o : Origin) (tag : Byte) (addr : Word) (data : List Byte)
  /-- ADD_SAT_POSTED (R153). -/
  | addSatPosted (t : Nat) (o : Origin) (tag : Byte) (addr : Word) (data : List Byte)
  /-- COMMIT (R131). -/
  | commit (t : Nat) (o : Origin) (tag : Byte) (addr : Word) (data : List Byte)
  /-- DIGEST (R139). -/
  | digest (t : Nat) (o : Origin) (tag : Byte) (addr : Word) (data : List Byte)
  /-- EVENT_NEXT (R160). -/
  | eventNext (t : Nat) (o : Origin) (tag : Byte) (addr : Word) (data : List Byte)
  /-- EVENT_CLEAR (R160). -/
  | eventClear (t : Nat) (o : Origin) (tag : Byte) (addr : Word) (data : List Byte)
  /-- PAIR_RESTART (R20). -/
  | pairRestart (t : Nat) (o : Origin) (tag : Byte) (addr : Word) (data : List Byte)
  /-- GROUP_RESTART (R155). -/
  | groupRestart (t : Nat) (o : Origin) (tag : Byte) (addr : Word) (data : List Byte)
  /-- PART_RESET (R155). -/
  | partReset (t : Nat) (o : Origin) (tag : Byte) (addr : Word) (data : List Byte)
  /-- BOX_POST (R156). -/
  | boxPost (t : Nat) (o : Origin) (tag : Byte) (addr : Word) (data : List Byte)
  /-- BOX_TAKE (R156). -/
  | boxTake (t : Nat) (o : Origin) (tag : Byte) (addr : Word) (data : List Byte)
  /-- BOX_RELEASE (R156). -/
  | boxRelease (t : Nat) (o : Origin) (tag : Byte) (addr : Word) (data : List Byte)
  /-- SHADOW_TABLE_WRITE (R130): one word stored into a shadow copy, past the gate. -/
  | shadowTableWrite (t : Nat) (addr : Word) (value : Word)
  /-- GATE_RECORD_WRITE (R141): a LINE write into the gate record. -/
  | gateRecordWrite (t : Nat) (value : Word)
  /-- ECC_STATUS_WRITE (R138): `second` names which of the two words is written; `value` is any. -/
  | eccStatusWrite (t : Nat) (second : Bool) (value : Word)
  /-- EVENT_ENABLE_WRITE (R159). -/
  | eventEnableWrite (t : Nat) (value : Word)
  /-- KEEP_FLAG_WRITE (R156): the keep flag word of mailbox `box`. -/
  | keepFlagWrite (t : Nat) (box : Fin 2) (value : Word)
  /-- COUNTER_WRITE (R151): a write into a counter word, or into any word without a row of its own. -/
  | counterWrite (t : Nat) (addr : Word) (value : Word)
  /-- GROUP_RESTART_EFFECT (R125). -/
  | groupRestartEffect (t : Nat)
  /-- PART_RESET_EFFECT (R127): the straps are read again. -/
  | partResetEffect (t : Nat) (straps : BitVec 5)
  /-- NOTICE_INTERVAL_END (R161). -/
  | noticeIntervalEnd (t : Nat)
  /-- TABLE_MEMORY_ERROR (R135): a word of table memory takes one wrong bit, or two (`two`). -/
  | tableMemoryError (t : Nat) (addr : Word) (two : Bool)
deriving DecidableEq, Repr

end Sys2Proof
end

