-- ==== Sys2Proof/Decode.lean ====
section
/-! DEFINITION. The command that a word spells by the table's bits: none, since no row of spec/opcode_table.json gives
its command any bits (a command of this block is an event at a pin, a channel or a deadline). -/

/-- The command an instruction word of `nbits` bits spells: none of the rows has bits. -/
def Sys2Proof.decodeTableWord (_nbits _w : Nat) : Option Sys2Proof.Instr := none
end

