-- ==== Sys2Proof/Config.lean ====
section
/-! DEFINITION. What the part fixes (sizes the manual states) and the free values: quantities the manual leaves
open after a step that goes on. A free value has no body: a claim about it holds whatever it is. -/

namespace Sys2Proof.Config

/-- Slots of the upstream fragment store (R74). -/
def fragmentSlots : Nat := 256
/-- Blocks of upstream queue memory (R63). -/
def queueBlocks : Nat := 512
/-- Blocks of downstream memory (R96). -/
def downstreamBlocks : Nat := 1024
/-- Bytes of a block (R63, R96). -/
def blockBytes : Nat := 128
/-- Places of the control frame queue (R143). -/
def controlQueuePlaces : Nat := 4

/-- FREE VALUE (DESIGN CHOICE, safe; log entry 4): the result a digest records when a write has changed a word of its range.
The manual does not say whether that word had been read before the write (R140). Applied to the state's counter of free
values. -/
opaque freeDigest : Nat → Word

/-- FREE VALUE (DESIGN CHOICE, safe; log entry 4): whether a running digest has already read a word with wrong bits that a
write is about to replace (R140). -/
opaque freeRead : Nat → Bool

/-- FREE VALUE (DESIGN CHOICE, safe; log entry 5): the probe due time of a pair that becomes ACTIVE when it has handed out no PROBE since
the last power-up or part reset: R9 measures it from the last PROBE hand-off, and there is none. In µs. -/
opaque freeProbeDue : Nat → Nat

end Sys2Proof.Config
end

