-- ==== Sys2Proof/Machine/Flags.lean ====
section
/-! DEFINITION. Comparisons and checks: sequence arithmetic (R1), clamping (R2), saturating counters (R21), the
fragment check (R24) and the farm FCS (R55). -/

namespace Sys2Proof.Machine

/-- A GSN `a` is ahead of `b` by 1..8191 (R1). -/
def gsnAhead (a b : Gsn) : Bool := decide (1 ≤ (a - b).toNat) && decide ((a - b).toNat ≤ 8191)

/-- A TXN `a` is ahead of `b` by 1..63 (R1). -/
def txnAhead (a b : Txn) : Bool := decide (1 ≤ (a - b).toNat) && decide ((a - b).toNat ≤ 63)

/-- A TXN `a` is behind `b`, by 1..64 (R1). -/
def txnBehind (a b : Txn) : Bool := decide (1 ≤ (b - a).toNat) && decide ((b - a).toNat ≤ 64)

/-- A value brought to the nearest end of its range (R2). -/
def clampTo (lo hi v : Nat) : Nat := max lo (min hi v)

/-- A value rounded down to a multiple of its field's step (R116). -/
def stepDown (k v : Nat) : Nat := v / k * k

/-- A division rounded up. -/
def ceilDiv (a b : Nat) : Nat := (a + b - 1) / b

/-- A 32-bit counter raised by 1; it stays at 4,294,967,295 (spec/00, Counters). -/
def satInc32 (w : Word) : Word := if w = BitVec.allOnes 32 then w else w + 1

/-- A 16-bit counter raised by 1, stopping at 65535 (R131, R135). -/
def satInc16 (w : BitVec 16) : BitVec 16 := if w = BitVec.allOnes 16 then w else w + 1

/-- An occurrence count raised by 1, stopping at 255 (R158). -/
def satInc8 (w : BitVec 8) : BitVec 8 := if w = BitVec.allOnes 8 then w else w + 1

/-- One bit through the CRC of R24: polynomial 0x1021, most significant bit first. -/
def crc16Bit (c : Nat) : Nat :=
  if c.testBit 15 then Nat.xor (c * 2 % 65536) 0x1021 else c * 2 % 65536

/-- One byte through the CRC of R24. -/
def crc16Byte (c : Nat) (b : Byte) : Nat :=
  Nat.rec (Nat.xor c (b.toNat * 256)) (fun _ x => crc16Bit x) 8

/-- The check of R24 over a span of bytes: initial 0xFFFF, no reflection, no final inversion. -/
def crc16 (bs : List Byte) : BitVec 16 := BitVec.ofNat 16 (bs.foldl crc16Byte 0xFFFF)

/-- One bit through the CRC of R55: the reflected form of polynomial 0x04C11DB7. -/
def crc32Bit (c : Nat) : Nat :=
  if c.testBit 0 then Nat.xor (c / 2) 0xEDB88320 else c / 2

/-- One byte through the CRC of R55, least significant bit first. -/
def crc32Byte (c : Nat) (b : Byte) : Nat :=
  Nat.rec (Nat.xor c b.toNat) (fun _ x => crc32Bit x) 8

/-- The register of the CRC of R55 before its first byte. -/
def crc32Init : Nat := 0xFFFFFFFF

/-- The CRC of R55 read out of its register (final XOR). -/
def crc32Out (c : Nat) : Word := BitVec.ofNat 32 (Nat.xor c 0xFFFFFFFF)

/-- The CRC-32 of R55 and R140 over a span of bytes. -/
def crc32 (bs : List Byte) : Word := crc32Out (bs.foldl crc32Byte crc32Init)

end Sys2Proof.Machine
end

