-- ==== Sys2Proof/Machine/Operands.lean ====
section
/-! DEFINITION. The operand forms: bit fields and byte order (spec/11), the fragment layout (R164), Ethernet frames
(R55..R58), control frames (R144, R165) and the table space map (R166). -/

namespace Sys2Proof.Machine

/-! ### Bits and bytes -/

/-- The `n`-bit field of a word whose lowest bit is bit `lo`. -/
def fieldAt (w : Word) (lo n : Nat) : Nat := w.toNat / 2 ^ lo % 2 ^ n

/-- Bit `i` of a word. -/
def bitAt (w : Word) (i : Nat) : Bool := w.toNat.testBit i

/-- A word made of right-justified fields, each given as (lowest bit, value). -/
def pack (fs : List (Nat × Nat)) : Word := BitVec.ofNat 32 (fs.foldl (fun a f => a + f.2 * 2 ^ f.1) 0)

/-- A truth value as a bit. -/
def bit (b : Bool) : Nat := if b then 1 else 0

/-- A word of four byte fields, byte 0 the most significant (spec/11). -/
def byteFields (b0 b1 b2 b3 : Nat) : Word := pack [(24, b0 % 256), (16, b1 % 256), (8, b2 % 256), (0, b3 % 256)]

/-- A number as one byte. -/
def byteOf (n : Nat) : Byte := BitVec.ofNat 8 n

/-- Byte `i` of a span; 0 past its end. -/
def byteNat (bs : List Byte) (i : Nat) : Nat := (bs.getD i 0).toNat

/-- The two bytes at `i`, most significant first. -/
def be16 (bs : List Byte) (i : Nat) : Nat := byteNat bs i * 256 + byteNat bs (i + 1)

/-- The four bytes at `i`, most significant first. -/
def be32 (bs : List Byte) (i : Nat) : Word := BitVec.ofNat 32 (be16 bs i * 65536 + be16 bs (i + 2))

/-- A 16-bit number as two bytes, most significant first. -/
def bytes16 (n : Nat) : List Byte := [byteOf (n / 256), byteOf n]

/-- A word as four bytes, most significant first. -/
def wordBytes (w : Word) : List Byte :=
  [byteOf (w.toNat / 16777216), byteOf (w.toNat / 65536), byteOf (w.toNat / 256), byteOf w.toNat]

/-- Words laid one after another as bytes. -/
def wordsBytes (ws : List Word) : List Byte := ws.flatMap wordBytes

/-- The words of a span whose length is a multiple of 4. -/
def bytesWords : List Byte → List Word
  | a :: b :: c :: d :: rest => be32 [a, b, c, d] 0 :: bytesWords rest
  | _ => []

/-- A span padded with zero bytes to at least `n` bytes. -/
def padTo (n : Nat) (bs : List Byte) : List Byte := bs ++ List.replicate (n - bs.length) 0

/-! ### Fragments on the pair -/

/-- The four kinds of fragment (R23). -/
inductive FragKind where
  | data
  | filler
  | probe
  | echo
deriving DecidableEq, Repr

/-- The code of a kind in the header (spec/11). -/
def FragKind.code : FragKind → Nat
  | .data => 0
  | .filler => 1
  | .probe => 2
  | .echo => 3

/-- The kind a header's code names. -/
def FragKind.ofCode (n : Nat) : FragKind :=
  match n with
  | 0 => .data
  | 1 => .filler
  | 2 => .probe
  | _ => .echo

/-- The header fields of a fragment, with its payload (R23). `num` is the 16-bit field of bytes 1 and 2: the GSN
shifted left by two, or the STAMP. -/
structure FragFields where
  kind : FragKind
  b : Bool
  e : Bool
  cls : Nat
  rrt : Bool
  rrq : Bool
  num : Nat
  txn : Txn
  ackn : Txn
  len : Nat
  gid : Nat
  payload : List Byte
deriving DecidableEq, Repr

/-- The 8 header bytes of a fragment (R164). -/
def FragFields.header (f : FragFields) : List Byte :=
  [byteOf (f.kind.code * 64 + bit f.b * 32 + bit f.e * 16 + f.cls % 4 * 4 + bit f.rrt * 2 + bit f.rrq)]
    ++ bytes16 f.num ++ [byteOf (f.txn.toNat * 2), byteOf (f.ackn.toNat * 2)]
    ++ bytes16 (f.len % 1024 * 64) ++ [byteOf f.gid]

/-- The bytes of a fragment as handed to the transceiver, its check complemented if it is void (R24). -/
def FragFields.bytes (f : FragFields) (void : Bool) : List Byte :=
  let body := f.header ++ f.payload
  let c := crc16 body
  body ++ bytes16 (if void then ~~~c else c).toNat

/-- The fields read from the bytes of a received fragment of 10 bytes or more (R164). -/
def FragFields.parse (bs : List Byte) : FragFields :=
  let b0 := byteNat bs 0
  { kind := FragKind.ofCode (b0 / 64)
    b := b0.testBit 5
    e := b0.testBit 4
    cls := b0 / 4 % 4
    rrt := b0.testBit 1
    rrq := b0.testBit 0
    num := be16 bs 1
    txn := BitVec.ofNat 7 (byteNat bs 3 / 2)
    ackn := BitVec.ofNat 7 (byteNat bs 4 / 2)
    len := be16 bs 5 / 64
    gid := byteNat bs 7
    payload := (bs.take (bs.length - 2)).drop 8 }

/-- The GSN of a DATA fragment's header: bits 15..2 of bytes 1 and 2. -/
def FragFields.gsn (f : FragFields) : Gsn := BitVec.ofNat 14 (f.num / 4)

/-- The STAMP of a PROBE or ECHO header. -/
def FragFields.stamp (f : FragFields) : BitVec 16 := BitVec.ofNat 16 f.num

/-- The three classes of a received fragment (R25). -/
inductive FragClass where
  | good
  | void
  | bad
deriving DecidableEq, Repr

/-- The class of the bytes of one RECEIVED report (R25): length tests first, then the check. -/
def classify (bs : List Byte) : FragClass :=
  if bs.length < 10 then .bad
  else
    let f := FragFields.parse bs
    if f.len ≠ bs.length - 10 then .bad
    else if f.kind = .data ∧ (f.len = 0 ∨ 512 < f.len) then .bad
    else if f.kind ≠ .data ∧ f.len ≠ 0 then .bad
    else
      let computed := crc16 (bs.take (bs.length - 2))
      let got := BitVec.ofNat 16 (be16 bs (bs.length - 2))
      if got = computed then .good
      else if got = ~~~computed ∧ f.kind = .data then .void
      else .bad

/-! ### Ethernet frames, without their FCS -/

/-- An Ethernet address or any 48-bit value, as a number. -/
def addressOf (hi16 : Nat) (lo32 : Nat) : Nat := hi16 * 4294967296 + lo32

/-- The six bytes of an address. -/
def addressBytes (a : Nat) : List Byte := bytes16 (a / 4294967296) ++ wordBytes (BitVec.ofNat 32 a)

/-- The destination address, bytes 1..6 of a frame. -/
def destOf (bs : List Byte) : Nat := addressOf (be16 bs 0) (be32 bs 2).toNat

/-- The source address, bytes 7..12 of a frame. -/
def sourceOf (bs : List Byte) : Nat := addressOf (be16 bs 6) (be32 bs 8).toNat

/-- A VLAN tag stands after the source address (R60). -/
def tagged (bs : List Byte) : Bool := be16 bs 12 == 0x8100

/-- The frame type, after any VLAN tag (R58, R60). -/
def frameType (bs : List Byte) : Nat := if tagged bs then be16 bs 16 else be16 bs 12

/-- Where the data of a frame begins, past its type. -/
def dataStart (bs : List Byte) : Nat := if tagged bs then 18 else 14

/-- The VLAN priority of a tagged frame: the top three bits of byte 15 (R60). -/
def vlanPriority (bs : List Byte) : Nat := byteNat bs 14 / 32

/-- The Sarzego frame type of control frames. -/
def controlType : Nat := 0xA6C4

/-- The all-parts group address 03:5A:00:00:00:00. -/
def allParts : Nat := 0x035A00000000

/-- The frame is long enough for the tests of R58 and R107. -/
def longEnough (bs : List Byte) : Bool := decide (dataStart bs ≤ bs.length)

/-- The frame is a control frame for a part whose station address is `station` (R58, R107). -/
def isControlFrame (station : Nat) (bs : List Byte) : Bool :=
  longEnough bs && frameType bs == controlType && (destOf bs == station || destOf bs == allParts)

/-! ### Control frames -/

/-- The statuses of a response record (R145). -/
inductive Status where
  | ok
  | compareFail
  | denied
  | vacant
  | readOnly
  | malformed
  | busy
  | boxFull
  | boxEmpty
  | damaged
deriving DecidableEq, Repr

/-- The value of a status in a response record (spec/11). -/
def Status.code : Status → Nat
  | .ok => 0
  | .compareFail => 1
  | .denied => 2
  | .vacant => 3
  | .readOnly => 4
  | .malformed => 5
  | .busy => 6
  | .boxFull => 7
  | .boxEmpty => 8
  | .damaged => 9

/-- The kinds of request (spec/11). -/
inductive ReqKind where
  | read
  | write
  | writePosted
  | maskWrite
  | maskWritePosted
  | swapIf
  | addSat
  | addSatPosted
  | commit
  | digest
  | eventNext
  | eventClear
  | pairRestart
  | groupRestart
  | partReset
  | boxPost
  | boxTake
  | boxRelease
deriving DecidableEq, Repr

/-- The request code of a kind (spec/11). -/
def ReqKind.code : ReqKind → Nat
  | .read => 0x01
  | .write => 0x02
  | .writePosted => 0x03
  | .maskWrite => 0x04
  | .maskWritePosted => 0x05
  | .swapIf => 0x06
  | .addSat => 0x07
  | .addSatPosted => 0x08
  | .commit => 0x10
  | .digest => 0x11
  | .eventNext => 0x20
  | .eventClear => 0x21
  | .pairRestart => 0x30
  | .groupRestart => 0x31
  | .partReset => 0x32
  | .boxPost => 0x40
  | .boxTake => 0x41
  | .boxRelease => 0x42

/-- The kind a request code names, if it names one (R145). -/
def ReqKind.ofCode (n : Nat) : Option ReqKind :=
  match n with
  | 0x01 => some .read
  | 0x02 => some .write
  | 0x03 => some .writePosted
  | 0x04 => some .maskWrite
  | 0x05 => some .maskWritePosted
  | 0x06 => some .swapIf
  | 0x07 => some .addSat
  | 0x08 => some .addSatPosted
  | 0x10 => some .commit
  | 0x11 => some .digest
  | 0x20 => some .eventNext
  | 0x21 => some .eventClear
  | 0x30 => some .pairRestart
  | 0x31 => some .groupRestart
  | 0x32 => some .partReset
  | 0x40 => some .boxPost
  | 0x41 => some .boxTake
  | 0x42 => some .boxRelease
  | _ => none

/-- A posted request gives no response record (R153). -/
def ReqKind.posted : ReqKind → Bool
  | .writePosted => true
  | .maskWritePosted => true
  | .addSatPosted => true
  | _ => false

/-- One request of a control frame (R165). `len` is its data length field; a READ carries no data bytes. -/
structure Request where
  code : Nat
  tag : Byte
  len : Nat
  addr : Word
  data : List Byte
deriving DecidableEq, Repr

/-- One response record (R145). -/
structure Record where
  code : Nat
  tag : Byte
  status : Status
  data : List Byte
deriving DecidableEq, Repr

/-- The bytes of a response record (spec/11). -/
def Record.bytes (r : Record) : List Byte :=
  [byteOf r.code, r.tag, byteOf r.status.code, byteOf r.data.length] ++ r.data

/-- The data bytes a request carries in the frame: none for READ (R165). -/
def carriedLen (code len : Nat) : Nat := if code = ReqKind.read.code then 0 else len

/-- The requests laid end to end in `bs`, `n` of them; none where one has a data length above 64 or they run past the
end (R144, R165). -/
def parseRequests : Nat → List Byte → Option (List Request)
  | 0, _ => some []
  | n + 1, bs =>
    let code := byteNat bs 0
    let len := byteNat bs 2
    let size := 8 + carriedLen code len
    if bs.length < 8 ∨ 64 < len ∨ bs.length < size then none
    else
      match parseRequests n (bs.drop size) with
      | none => none
      | some rs =>
        some ({ code := code, tag := bs.getD 1 0, len := len, addr := be32 bs 4,
                data := (bs.take size).drop 8 } :: rs)

/-- The requests of a control frame, or none where the frame is malformed (R144). -/
def parseControl (bs : List Byte) : Option (List Request) :=
  let body := bs.drop (dataStart bs)
  let count := byteNat body 1
  if body.length < 2 ∨ byteNat body 0 ≠ 1 ∨ count = 0 ∨ 16 < count then none
  else parseRequests count (body.drop 2)

/-! ### The table space -/

/-- The two copies of a table (R129). -/
inductive Copy where
  | shadow
  | active
deriving DecidableEq, Repr

/-- A word of table memory: the assigned words of the three tables in both copies, and the gate record (R135). -/
inductive TRef where
  | group (c : Copy) (i : Fin 19)
  | pair (c : Copy) (p : PairIx) (j : Fin 2)
  | cls (c : Copy) (i : Fin 64) (j : Fin 2)
  | gate
deriving DecidableEq, Repr

/-- The word address of a word of table memory (spec/11, table space map). -/
def TRef.addr : TRef → Nat
  | .group .shadow i => 0x0100 + i.val
  | .group .active i => 0x0180 + i.val
  | .pair .shadow p j => 0x0200 + 4 * p.val + j.val
  | .pair .active p j => 0x0280 + 4 * p.val + j.val
  | .cls .shadow i j => 0x0400 + 4 * i.val + j.val
  | .cls .active i j => 0x0500 + 4 * i.val + j.val
  | .gate => 0x0E00

/-- What stands at a word address of the table space (spec/11). -/
inductive Place where
  /-- An address in no region (R148). -/
  | vacant
  /-- A word of a region whose place is not assigned: reads as zero, read-only (R166). -/
  | unassigned
  | identity (i : Fin 4)
  | table (r : TRef)
  | pairStatus (p : PairIx) (off : Fin 9)
  | pairCounter (p : PairIx) (i : Fin 10)
  | groupStatus (off : Fin 6)
  | groupCounter (i : Fin 43)
  | eventEnable
  | eventPending
  | eventCounts (i : Fin 4)
  | noticeStatus
  | noticeTime
  | eventDetail (k : Fin 15) (j : Fin 3)
  | boxState (b : Fin 2)
  | boxKeep (b : Fin 2)
  | boxMessage (b : Fin 2) (i : Fin 16)
  | commitState
  | eccCounts
  | eccAddresses
  | digestState
  | digestRange
  | digestResult
deriving DecidableEq, Repr

/-- The regions of the table space: first and last word address (spec/11). -/
def regions : List (Nat × Nat) :=
  [(0x0000, 0x0003), (0x0100, 0x011F), (0x0180, 0x019F), (0x0200, 0x021F), (0x0280, 0x029F), (0x0400, 0x04FF),
   (0x0500, 0x05FF), (0x0800, 0x08FF), (0x0A00, 0x0A3F), (0x0C00, 0x0C3F), (0x0D00, 0x0D27), (0x0E00, 0x0E0F)]

/-- The region an address lies in. -/
def regionOf (a : Nat) : Option (Nat × Nat) := regions.find? fun r => decide (r.1 ≤ a) && decide (a ≤ r.2)

/-- `Fin` index of a number, 0 where it is too large (used only where the caller has bounded it). -/
def finOf (n : Nat) [NeZero n] (k : Nat) : Fin n := Fin.ofNat n k

/-- The place in a group record region at offset `k`. -/
def groupPlace (c : Copy) (k : Nat) : Place := if k < 19 then .table (.group c (finOf 19 k)) else .unassigned

/-- The place in a pair table region at offset `k`. -/
def pairPlace (c : Copy) (k : Nat) : Place :=
  if k % 4 < 2 then .table (.pair c (finOf 8 (k / 4)) (finOf 2 (k % 4))) else .unassigned

/-- The place in a class table region at offset `k`. -/
def clsPlace (c : Copy) (k : Nat) : Place :=
  if k % 4 < 2 then .table (.cls c (finOf 64 (k / 4)) (finOf 2 (k % 4))) else .unassigned

/-- The place in the pair status region at offset `k`. -/
def statusPlace (k : Nat) : Place :=
  if k % 32 < 9 then .pairStatus (finOf 8 (k / 32)) (finOf 9 (k % 32))
  else if 16 ≤ k % 32 ∧ k % 32 < 26 then .pairCounter (finOf 8 (k / 32)) (finOf 10 (k % 32 - 16))
  else .unassigned

/-- The place in the group status region at offset `k`. -/
def groupStatusPlace (k : Nat) : Place :=
  if k < 6 then .groupStatus (finOf 6 k)
  else if 0x10 ≤ k ∧ k < 0x3B then .groupCounter (finOf 43 (k - 0x10))
  else .unassigned

/-- The place in the event area at offset `k`. -/
def eventPlace (k : Nat) : Place :=
  match k with
  | 0 => .eventEnable
  | 1 => .eventPending
  | 6 => .noticeStatus
  | 7 => .noticeTime
  | _ =>
    if 2 ≤ k ∧ k < 6 then .eventCounts (finOf 4 (k - 2))
    else if 0x10 ≤ k ∧ k < 0x3D then .eventDetail (finOf 15 ((k - 0x10) / 3)) (finOf 3 ((k - 0x10) % 3))
    else .unassigned

/-- The place in the mailbox region at offset `k`. -/
def boxPlace (k : Nat) : Place :=
  let b := finOf 2 (k / 20)
  if k % 20 = 0 then .boxState b
  else if k % 20 = 1 then .boxKeep b
  else if k % 20 < 18 then .boxMessage b (finOf 16 (k % 20 - 2))
  else .unassigned

/-- The place in the gate, commit, ECC and digest region at offset `k`. -/
def managementPlace (k : Nat) : Place :=
  match k with
  | 0 => .table .gate
  | 1 => .commitState
  | 2 => .eccCounts
  | 3 => .eccAddresses
  | 4 => .digestState
  | 5 => .digestRange
  | 6 => .digestResult
  | _ => .unassigned

/-- The place at a word address 0x0000..0xFFFF (R147, R166). -/
def placeAt (a : Nat) : Place :=
  if a ≤ 0x0003 then .identity (finOf 4 a)
  else if 0x0100 ≤ a ∧ a ≤ 0x011F then groupPlace .shadow (a - 0x0100)
  else if 0x0180 ≤ a ∧ a ≤ 0x019F then groupPlace .active (a - 0x0180)
  else if 0x0200 ≤ a ∧ a ≤ 0x021F then pairPlace .shadow (a - 0x0200)
  else if 0x0280 ≤ a ∧ a ≤ 0x029F then pairPlace .active (a - 0x0280)
  else if 0x0400 ≤ a ∧ a ≤ 0x04FF then clsPlace .shadow (a - 0x0400)
  else if 0x0500 ≤ a ∧ a ≤ 0x05FF then clsPlace .active (a - 0x0500)
  else if 0x0800 ≤ a ∧ a ≤ 0x08FF then statusPlace (a - 0x0800)
  else if 0x0A00 ≤ a ∧ a ≤ 0x0A3F then groupStatusPlace (a - 0x0A00)
  else if 0x0C00 ≤ a ∧ a ≤ 0x0C3F then eventPlace (a - 0x0C00)
  else if 0x0D00 ≤ a ∧ a ≤ 0x0D27 then boxPlace (a - 0x0D00)
  else if 0x0E00 ≤ a ∧ a ≤ 0x0E0F then managementPlace (a - 0x0E00)
  else .vacant

/-- The addresses a block of `n` words from `a` covers, wrapping in its region (R147). -/
def blockAddrs (a n : Nat) : List Nat :=
  match regionOf a with
  | none => []
  | some r => (List.range n).map fun i => r.1 + (a - r.1 + i) % (r.2 - r.1 + 1)

/-- The vacant pattern (R148). -/
def vacantPattern : Word := 0x5A0F5A0F

/-- A word address lies in a shadow region (R139). -/
def inShadowRegion (a : Nat) : Bool :=
  (decide (0x0100 ≤ a) && decide (a ≤ 0x011F)) || (decide (0x0200 ≤ a) && decide (a ≤ 0x021F))
    || (decide (0x0400 ≤ a) && decide (a ≤ 0x04FF))

/-- An end address clamped down to the last shadow word at or before it; `start` lies in a shadow region and is at or
before it (R139). -/
def clampEnd (e : Nat) : Nat :=
  if 0x04FF ≤ e then 0x04FF
  else if 0x0400 ≤ e then e
  else if 0x021F ≤ e then 0x021F
  else if 0x0200 ≤ e then e
  else if 0x011F ≤ e then 0x011F
  else e

/-- The shadow word addresses of a range, in order (R139). -/
def shadowRange (start e : Nat) : List Nat :=
  ((List.range (e + 1 - start)).map (start + ·)).filter inShadowRegion

/-! ### The gate (R149) -/

/-- What a FARM write at a word needs. -/
inductive Authority where
  | free
  | flag (bit : Nat)
  | lineOnly
deriving DecidableEq, Repr

/-- The authority a FARM write at a word address needs (R149); the flags are numbered by their bit in the gate record
(spec/11). -/
def writeAuthority (a : Nat) : Authority :=
  if 0x0100 ≤ a ∧ a ≤ 0x011F then .flag 0
  else if 0x0200 ≤ a ∧ a ≤ 0x021F then .flag 1
  else if 0x0400 ≤ a ∧ a ≤ 0x04FF then .flag 2
  else
    match placeAt a with
    | .pairCounter _ _ => .flag 3
    | .groupCounter _ => .flag 3
    | .commitState => .flag 3
    | .eccCounts => .flag 3
    | .eccAddresses => .flag 3
    | .table .gate => .lineOnly
    | _ => .free

end Sys2Proof.Machine
end

