-- ==== Sys2Proof/Machine/Layout.lean ====
section
/-! DEFINITION. The words of the tables: their fields (spec/11), their defaults (R116, R118, R129, R141) and the
clamping of a stored word (R130). -/

namespace Sys2Proof.Machine

/-- The default of word `i` of the group record, with station-address digit `digit` (R116). -/
def groupDefault (digit : BitVec 4) (i : Fin 19) : Word :=
  match i.val with
  | 0x00 => pack [(0, 1)]
  | 0x01 => pack [(0, 512)]
  | 0x02 => pack [(0, 1), (8, 0)]
  | 0x03 => pack [(0, 20), (16, 40)]
  | 0x04 => pack [(0, 4), (16, 30)]
  | 0x05 => pack [(0, 500), (16, 10)]
  | 0x06 => pack [(0, 256)]
  | 0x07 => pack [(0, 60), (16, 2)]
  | 0x08 => pack [(0, 1), (4, 3), (8, 5), (16, 15)]
  | 0x09 => pack [(0, 512), (16, 0), (24, 32)]
  | 0x0A => pack [(0, 256), (16, 0), (24, 16)]
  | 0x0B => pack [(0, 256), (16, 0), (24, 8)]
  | 0x0C => pack [(0, 128), (16, 1), (24, 8)]
  | 0x0D => pack [(0, 64)]
  | 0x0E => pack [(0, 0x025A)]
  | 0x0F => pack [(0, digit.toNat)]
  | 0x10 => pack [(0, 0x035A)]
  | 0x11 => pack [(0, 1)]
  | _ => pack [(0, 10), (8, 0)]

/-- The default of word `j` of a pair entry (R118). -/
def pairDefault (j : Fin 2) : Word := if j.val = 0 then pack [(0, 1)] else pack [(0, 2000)]

/-- The default of a class entry word: VALID clear (R129). That VALUE, CLASS, ACTION and MATCH are 0 beside it is the model's
choice (DESIGN CHOICE, unsafe; log entry 38). -/
def clsDefault : Word := 0

/-- The default of the gate record (R141). -/
def gateDefault : Word := 0x0000001C

/-- The default of a word of table memory. -/
def tableDefault (digit : BitVec 4) : TRef → Word
  | .group _ i => groupDefault digit i
  | .pair _ _ j => pairDefault j
  | .cls _ _ _ => clsDefault
  | .gate => gateDefault

/-- A fragment size brought into its range: a multiple of 32 in 64..512 (R62). -/
def clampF (v : Nat) : Nat := clampTo 64 512 (stepDown 32 v)

/-- Word `i` of the group record as stored when `v` is written: each field clamped, reserved bits zero (R116, R130). -/
def clampGroup (i : Fin 19) (v : Word) : Word :=
  match i.val with
  | 0x00 => pack [(0, clampTo 1 255 (fieldAt v 0 8))]
  | 0x01 => pack [(0, clampTo 64 1024 (stepDown 64 (fieldAt v 0 11)))]
  | 0x02 => pack [(0, clampTo 1 8 (fieldAt v 0 4)), (8, fieldAt v 8 2)]
  | 0x03 => pack [(0, clampTo 1 100 (fieldAt v 0 7)), (16, clampTo 1 100 (fieldAt v 16 7))]
  | 0x04 => pack [(0, fieldAt v 0 3), (16, clampTo 5 500 (fieldAt v 16 9))]
  | 0x05 => pack [(0, clampTo 100 2550 (stepDown 10 (fieldAt v 0 12))), (16, clampTo 1 60 (fieldAt v 16 6))]
  | 0x06 => pack [(0, clampTo 64 10000 (fieldAt v 0 14))]
  | 0x07 => pack [(0, clampTo 10 200 (fieldAt v 0 8)), (16, clampTo 1 10 (fieldAt v 16 4))]
  | 0x08 => pack [(0, fieldAt v 0 1), (4, clampTo 2 7 (fieldAt v 4 3)), (8, clampTo 0 20 (fieldAt v 8 5)),
                  (16, clampTo 1 50 (fieldAt v 16 6))]
  | 0x09 => pack [(0, clampF (fieldAt v 0 10)), (16, fieldAt v 16 1), (24, clampTo 2 64 (fieldAt v 24 7))]
  | 0x0A => pack [(0, clampF (fieldAt v 0 10)), (16, fieldAt v 16 1), (24, clampTo 2 64 (fieldAt v 24 7))]
  | 0x0B => pack [(0, clampF (fieldAt v 0 10)), (16, fieldAt v 16 1), (24, clampTo 2 64 (fieldAt v 24 7))]
  | 0x0C => pack [(0, clampF (fieldAt v 0 10)), (16, fieldAt v 16 1), (24, clampTo 2 64 (fieldAt v 24 7))]
  | 0x0D => pack [(0, clampTo 0 256 (fieldAt v 0 9))]
  | 0x0E => pack [(0, fieldAt v 0 8), (9, fieldAt v 9 7)]
  | 0x0F => v
  | 0x10 => pack [(0, fieldAt v 0 16)]
  | 0x11 => v
  | _ => pack [(0, clampTo 1 60 (fieldAt v 0 6)), (8, fieldAt v 8 2)]

/-- Word `j` of a pair entry as stored when `v` is written (R118, R130). -/
def clampPair (j : Fin 2) (v : Word) : Word :=
  if j.val = 0 then pack [(0, fieldAt v 0 1), (8, fieldAt v 8 1), (16, fieldAt v 16 1)]
  else pack [(0, clampTo 0 20000 (fieldAt v 0 15))]

/-- Word `j` of a class entry as stored when `v` is written (R61, R130). -/
def clampCls (j : Fin 2) (v : Word) : Word :=
  if j.val = 0 then
    pack [(0, fieldAt v 0 16), (16, fieldAt v 16 2), (20, fieldAt v 20 1), (24, fieldAt v 24 2), (31, fieldAt v 31 1)]
  else v

/-- The gate record as stored when `v` is written: its eight flags, reserved bits zero (R141, R166). -/
def clampGate (v : Word) : Word := pack [(0, fieldAt v 0 7), (16, fieldAt v 16 1)]

/-- A word of table memory as stored when `v` is written. -/
def clampTable : TRef → Word → Word
  | .group _ i, v => clampGroup i v
  | .pair _ _ j, v => clampPair j v
  | .cls _ _ j, v => clampCls j v
  | .gate, v => clampGate v

end Sys2Proof.Machine
end

