-- ==== Sys2Proof/Machine/State.lean ====
section
/-! DEFINITION. The state of the CB820 as plain data, block by block, and its values after reset. -/

namespace Sys2Proof.Machine

/-! ### Pair ports (spec/01, 02, 03) -/

/-- The six pair states (R5). -/
inductive PairState where
  | off
  | down
  | training
  | probation
  | active
  | draining
deriving DecidableEq, Repr

/-- The causes of a pair's move out of service (R5). -/
inductive Cause where
  | none
  | lineLost
  | silence
  | retryExhausted
  | miswired
  | restart
  | groupRestart
  | lowRate
  | adminOff
  | damaged
  | drained
  | drainLimit
deriving DecidableEq, Repr

/-- The two states of a pair port's receiver (R38..R40). -/
inductive RxState where
  | inStep
  | retryAsk
deriving DecidableEq, Repr

/-- A fragment record in an upstream fragment store slot (R75). LEN is the length of the payload. `resp` is set on the
final fragment of a LINE response until its first hand-off: the response it ends (R155). -/
structure Frag where
  payload : List Byte
  b : Bool
  e : Bool
  cls : ClassIx
  void : Bool
  gsn : Option Gsn
  firstPlaced : Option Nat
  rrt : Bool
  resp : Option Nat
deriving DecidableEq, Repr

/-- A retry store entry (spec/02, The sender). -/
structure RetryEntry where
  frag : Frag
  txn : Txn
  count : Nat
  lastSent : Nat
deriving DecidableEq, Repr

/-- A replay in progress: its cursor, as the TXN of an entry, and its base (R31). -/
structure Replay where
  cursor : Txn
  base : Txn
deriving DecidableEq, Repr

/-- A drain: the state it began from and its deadline (R13). -/
structure Drain where
  fromActive : Bool
  deadline : Nat
deriving DecidableEq, Repr

/-- An open guard window: its end in whole ms and its met flag (R45). -/
structure GuardWindow where
  endMs : Nat
  met : Bool
deriving DecidableEq, Repr

/-- The burst guard record (R45). -/
structure Guard where
  lastStart : Option Nat
  period : Nat
  confidence : Nat
  locked : Bool
  nextStart : Option Nat
  window : Option GuardWindow
  lastBad : Option Nat
deriving DecidableEq, Repr

/-- A command to a transceiver (spec/01, The transceiver channel). -/
inductive XcvrCmd where
  | retrain
  | quiet
  | send (bytes : List Byte)
deriving DecidableEq, Repr

/-- A pair port: its pair record (R5), its link protocol state (spec/02), its burst guard, its counters (R21) and the
commands it has sent to its transceiver since the last power-up or part reset. -/
structure PairPort where
  state : PairState
  cause : Cause
  upRate : Nat
  downRate : Nat
  probStart : Nat
  samples : Nat
  latency : Nat
  sampled : Bool
  bar : Bool
  drain : Option Drain
  probeDue : Nat
  lastProbe : Option Nat
  nextTxn : Txn
  txq : List Frag
  store : List RetryEntry
  replay : Option Replay
  rewindMark : Option Txn
  owedAck : Bool
  echo : Option (BitVec 16)
  lastHandoff : Nat
  rxn : Txn
  rx : RxState
  ldg : Option Gsn
  lastHeard : Nat
  guard : Guard
  counters : Vector Word 10
  sent : List XcvrCmd
deriving DecidableEq, Repr

/-- The burst guard record cleared to unlearnt (R54). -/
def Guard.unlearnt : Guard :=
  { lastStart := none, period := 0, confidence := 0, locked := false, nextStart := none, window := none, lastBad := none }

/-- A pair port after a power-up or part reset, its entry's admin ON: DOWN, with RETRAIN sent (R6, R22, R43, R54). -/
def PairPort.reset : PairPort :=
  { state := .down, cause := .none, upRate := 0, downRate := 0, probStart := 0, samples := 0, latency := 0
    sampled := false, bar := false, drain := none, probeDue := 0, lastProbe := none
    nextTxn := 0, txq := [], store := [], replay := none, rewindMark := none, owedAck := false, echo := none
    lastHandoff := 0, rxn := 0, rx := .inStep, ldg := none, lastHeard := 0
    guard := Guard.unlearnt, counters := Vector.replicate 10 0, sent := [.retrain] }

/-! ### Farm port and classifier (spec/04) -/

/-- Why the rest of a frame being received is discarded as it arrives; it decides what is still counted at its end. -/
inductive DropWhy where
  /-- Flushed or a giant: no counter is raised for it any more (R56, R71). -/
  | silent
  /-- Dropped for the DOWN group or for want of room: a failure is not counted again (R60, R63, R72). -/
  | lack
  /-- Dropped by a DISCARD entry: still judged at its end (R60, R56). -/
  | table
deriving DecidableEq, Repr

/-- What a frame being received has been judged to be. -/
inductive RxKind where
  /-- Not judged: fewer than 18 bytes have arrived (R58, R60). -/
  | head
  /-- A link-control frame (R57). -/
  | link
  /-- A control frame for the part, held in the control receive buffer (R58). -/
  | control
  /-- Admitted to a class queue (R60). -/
  | upstream (c : ClassIx)
  /-- Dropped: the rest of it is discarded as it arrives. -/
  | dropped (why : DropWhy)
  /-- Abandoned by a reset: its bytes are ignored to its end (R73). -/
  | abandoned
deriving DecidableEq, Repr

/-- The frame being received: bytes arrived, what it is, the bytes the farm port holds itself, the check buffer of the
four most recent bytes, and the running FCS over the bytes before them (R55). -/
structure RxFrame where
  count : Nat
  kind : RxKind
  held : List Byte
  check : List Byte
  crc : Nat
deriving DecidableEq, Repr

/-- A frame of the farm output queue, with the downstream blocks it holds (R96). -/
structure OutFrame where
  bytes : List Byte
  blocks : Nat
deriving DecidableEq, Repr

/-- A transmission toward the farm under way: where its frame stands, and its bytes as sent, FCS included (R59). -/
inductive FarmTx where
  | queued (wire : List Byte)
  | response (wire : List Byte)
  | notice (wire : List Byte)
deriving DecidableEq, Repr

/-- The farm port (R55..R59). `sent` is what it has sent since the last power-up or part reset. -/
structure FarmPort where
  fast : Bool
  rx : Option RxFrame
  pauseEnd : Option Nat
  outQueue : List OutFrame
  tx : Option FarmTx
  sent : List (List Byte)
deriving DecidableEq, Repr

/-- A frame in a class queue (R63): bytes cut so far, the bytes stored and not yet cut, whether it has ended, for a LINE
response, which response it is, and whether it has failed and stays for its void final fragment (R69). -/
structure QFrame where
  cut : Nat
  uncut : List Byte
  ended : Bool
  resp : Option Nat
  failed : Bool := false
deriving DecidableEq, Repr

/-! ### Distributor (spec/05) -/

/-- The wait reasons (R81). -/
inductive WaitReason where
  | none
  | slot
  | span
  | noPair
  | skew
deriving DecidableEq, Repr

/-- The frame in progress (R76): its class and fragment size, whether a fragment has been cut and whether one has been
placed, the pending fragment, whether the final fragment has been cut, and, for a failed cut-through frame, the
payload of the void final fragment still to be cut (R69), its record waiting in its queue as ended. -/
structure Fip where
  cls : ClassIx
  size : Nat
  cutAny : Bool
  placedAny : Bool
  pendingFrag : Option Frag
  finalCut : Bool
  voidTail : Option (List Byte)
deriving DecidableEq, Repr

/-- The distributor (spec/05). -/
structure Distributor where
  nextGsn : Gsn
  fip : Option Fip
  reroute : List Frag
  wait : WaitReason
deriving DecidableEq, Repr

/-! ### Reassembler (spec/06) -/

/-- The states of the reassembler (R94). -/
inductive ReasState where
  | idle
  | resync
  | reassemble
deriving DecidableEq, Repr

/-- An arrival, and a window entry (R95). LEN is the length of the payload; its blocks are counted from it. -/
structure Entry where
  gsn : Gsn
  b : Bool
  e : Bool
  cls : ClassIx
  void : Bool
  rrt : Bool
  payload : List Byte
  pair : PairIx
  time : Nat
deriving DecidableEq, Repr

/-- The reassembler (R101): `window` holds its entries in order of arrival, `first` the GSN of the first arrival stored
in this RESYNC, `size` the window size W in use, read at the last resync deadline (R100). -/
structure Reassembler where
  state : ReasState
  size : Nat
  window : List Entry
  head : Option Gsn
  first : Option Gsn
  discarding : Bool
  hold : Option Nat
  resync : Option Nat
  suspension : Option Nat
deriving DecidableEq, Repr

/-! ### Table store (spec/08) -/

/-- The wrong bits of a stored word: none, one (correctable) or two (uncorrectable) (R135). -/
inductive WrongBits where
  | none
  | one
  | two
deriving DecidableEq, Repr

/-- A word of table memory: the value last stored and the wrong bits it has taken since. -/
structure TWord where
  val : Word
  wrong : WrongBits
deriving DecidableEq, Repr

/-- The digest states (spec/11). -/
inductive DigestState where
  | idle
  | running
  | done
  | stale
deriving DecidableEq, Repr

/-- The digest record (R139), when a running digest began, whether a write has landed in its range, and whether one has
changed what a word of the range feeds (R140). -/
structure DigestRec where
  state : DigestState
  start : Nat
  last : Nat
  words : Nat
  result : Word
  damaged : Bool
  began : Nat
  touched : Bool
  altered : Bool
deriving DecidableEq, Repr

/-- The table store (spec/08). `gateLost`: a read has found the gate record's word uncorrectable and nothing has stored
it since, so that its fields read as their defaults (R137). -/
structure TableStore where
  groupShadow : Vector TWord 19
  groupActive : Vector TWord 19
  pairShadow : Vector TWord 16
  pairActive : Vector TWord 16
  clsShadow : Vector TWord 128
  clsActive : Vector TWord 128
  gate : TWord
  gateLost : Bool
  groupDamaged : Bool
  pairDamaged : Vector Bool 8
  clsDamaged : Vector Bool 64
  commitPending : Bool
  commitCount : BitVec 16
  corrected : BitVec 16
  uncorrectable : BitVec 16
  lastCorrected : Option Nat
  firstUncorrectable : Option Nat
  digest : DigestRec
deriving DecidableEq, Repr

/-! ### Control engine (spec/09) -/

/-- A control frame in the queue (R143): its origin and its carried bytes. -/
structure CtlFrame where
  origin : Origin
  bytes : List Byte
deriving DecidableEq, Repr

/-- A frame waiting in the farm response slot, with the number of its response (R146). -/
structure RespSlot where
  bytes : List Byte
  resp : Nat
deriving DecidableEq, Repr

/-- A frame in the farm notice slot; `sending` while it is the one under way (R162). -/
structure NoticeSlot where
  bytes : List Byte
  sending : Bool
deriving DecidableEq, Repr

/-- The two slots the control engine sends FARM frames from. -/
inductive FarmSlot where
  | response
  | notice
deriving DecidableEq, Repr

/-- The restarts that wait for a response (R155). -/
inductive RestartKind where
  | group
  | part
deriving DecidableEq, Repr

/-- An entry of the restart list (R155): `awaits` is the response it waits for, none once that response has left. -/
structure Restart where
  kind : RestartKind
  awaits : Option Nat
deriving DecidableEq, Repr

/-- A mailbox (R156): EMPTY when the message is the empty list, FULL otherwise. -/
structure Mailbox where
  message : List Byte
  keep : Bool
deriving DecidableEq, Repr

/-- The control engine (spec/09). `nextResp` numbers the responses; `farmOrder` lists the farm slots whose frame
waits, the one ready first first; `answers` holds the records of requests taken as commands of their own. -/
structure ControlEngine where
  queue : List CtlFrame
  respSlot : Option RespSlot
  noticeSlot : Option NoticeSlot
  farmOrder : List FarmSlot
  restarts : List Restart
  boxes : Vector Mailbox 2
  nextResp : Nat
  answers : List Record
deriving DecidableEq, Repr

/-! ### Event unit (spec/10) -/

/-- The fifteen event kinds, in code order (R158). -/
inductive EventKind where
  | tableDamaged
  | groupDown
  | pairDown
  | retryExhausted
  | miswired
  | memoryExhausted
  | postedFailed
  | vacantAccess
  | groupUp
  | pairActive
  | commitDone
  | digestDone
  | boxArrived
  | guardLocked
  | eccCorrected
deriving DecidableEq, Repr

/-- A detail record: the three words the event area shows (spec/11). -/
structure Detail where
  w1 : Word
  w2 : Word
  w3 : Word
deriving DecidableEq, Repr

/-- The record of one event kind (R158). -/
structure EventRec where
  isPending : Bool
  enabled : Bool
  detail : Detail
  count : BitVec 8
deriving DecidableEq, Repr

/-- The event unit (R158, R161): records by code less 1. -/
structure EventUnit where
  kinds : Vector EventRec 15
  lastNotice : Option Nat
  owed : Bool
deriving DecidableEq, Repr

/-! ### The part -/

/-- The state of the part. `now` is the local time base in µs; `counters` are the farm port's, classifier's,
distributor's, reassembler's and control engine's counters in the order of the group status words (spec/11);
`freeCount` numbers the free values drawn; `pending` is the queue of commands that wait, first in, first out. -/
structure State where
  now : Nat
  digit : BitVec 4
  pairs : Vector PairPort 8
  farm : FarmPort
  queues : Vector (List QFrame) 4
  dist : Distributor
  reas : Reassembler
  groupUp : Bool
  counters : Vector Word 43
  tables : TableStore
  ctl : ControlEngine
  events : EventUnit
  freeCount : Nat
  pending : List Instr
deriving DecidableEq, Repr

/-- Why the part would stop. The manual names no event at which it stops: no command faults, so this type has no
constructor. -/
inductive Fault where
deriving DecidableEq, Repr

/-- Why the model gives a command no meaning. -/
inductive Refusal where
  /-- Raised by a dispatch arm whose command has no meaning yet; safe. No arm raises it. -/
  | notModelled (mnemonic : String)
deriving DecidableEq, Repr

/-- The three tables, the gate record and the rest of the table store after a power-up or part reset (R129, R142). -/
def TableStore.reset (digit : BitVec 4) : TableStore :=
  let g : Vector TWord 19 := Vector.ofFn fun i => { val := groupDefault digit i, wrong := .none }
  let p : Vector TWord 16 := Vector.ofFn fun i => { val := pairDefault (finOf 2 (i.val % 2)), wrong := .none }
  let c : Vector TWord 128 := Vector.replicate 128 { val := clsDefault, wrong := .none }
  { groupShadow := g, groupActive := g, pairShadow := p, pairActive := p, clsShadow := c, clsActive := c
    gate := { val := gateDefault, wrong := .none }, gateLost := false
    groupDamaged := false, pairDamaged := Vector.replicate 8 false, clsDamaged := Vector.replicate 64 false
    commitPending := false, commitCount := 0, corrected := 0, uncorrectable := 0
    lastCorrected := none, firstUncorrectable := none
    digest := { state := .idle, start := 0, last := 0, words := 0, result := 0, damaged := false, began := 0, touched := false
                altered := false } }

/-- The control engine after a power-up or part reset (R157). -/
def ControlEngine.reset : ControlEngine :=
  { queue := [], respSlot := none, noticeSlot := none, farmOrder := [], restarts := []
    boxes := Vector.replicate 2 { message := [], keep := false }, nextResp := 0, answers := [] }

/-- The event unit after a power-up or part reset (R163). -/
def EventUnit.reset : EventUnit :=
  { kinds := Vector.replicate 15 { isPending := false, enabled := true, detail := { w1 := 0, w2 := 0, w3 := 0 }, count := 0 }
    lastNotice := none, owed := false }

/-- The part after a power-up reset with the strap pins at `straps`: pins 0..3 give the station-address digit, pin 4
the farm speed (R6, R73, R93, R115, R128, R142, R157, R163). -/
def State.powerUp (straps : BitVec 5) : State :=
  { now := 0
    digit := straps.setWidth 4
    pairs := Vector.replicate 8 PairPort.reset
    farm := { fast := straps.getLsbD 4, rx := none, pauseEnd := none, outQueue := [], tx := none, sent := [] }
    queues := Vector.replicate 4 []
    dist := { nextGsn := 0, fip := none, reroute := [], wait := .none }
    reas := { state := .idle, size := 0, window := [], head := none, first := none, discarding := false, hold := none
              resync := none, suspension := none }
    groupUp := false
    counters := Vector.replicate 43 0
    tables := TableStore.reset (straps.setWidth 4)
    ctl := ControlEngine.reset
    events := EventUnit.reset
    freeCount := 0
    pending := [] }

/-- The part right after reset, all strap pins low (DESIGN CHOICE, unsafe; log entry 3). -/
def State.reset : State := State.powerUp 0

end Sys2Proof.Machine
end

