-- ==== Sys2Proof/Machine/Ops.lean ====
section
/-! DEFINITION. The named operations every block shares: reading and updating the parts of the state, the counters,
the fields of the active group record, table memory through its error correction (R135..R137), the event unit
(R158, R161), notices (R162) and the admission of internal frames (R65).

THE ORDER OF A READ. A rule that uses a table word first `touch`es it (the error correction's effect) and then reads
its value with a view; on a word without wrong bits `touch` changes nothing. -/

namespace Sys2Proof.Machine

/-! ### Parts of the state -/

/-- All pairs, in number order. -/
def allPairs : List PairIx := [0, 1, 2, 3, 4, 5, 6, 7]

/-- The pair port of pair `p`. -/
def State.pair (s : State) (p : PairIx) : PairPort := s.pairs[p.val]

/-- The pair port of `p` replaced by `f` of it. -/
def State.updPair (s : State) (p : PairIx) (f : PairPort → PairPort) : State :=
  { s with pairs := s.pairs.set p.val (f s.pairs[p.val]) }

/-- The farm port replaced by `f` of it. -/
def State.updFarm (s : State) (f : FarmPort → FarmPort) : State := { s with farm := f s.farm }

/-- The distributor replaced by `f` of it. -/
def State.updDist (s : State) (f : Distributor → Distributor) : State := { s with dist := f s.dist }

/-- The reassembler replaced by `f` of it. -/
def State.updReas (s : State) (f : Reassembler → Reassembler) : State := { s with reas := f s.reas }

/-- The table store replaced by `f` of it. -/
def State.updTables (s : State) (f : TableStore → TableStore) : State := { s with tables := f s.tables }

/-- The control engine replaced by `f` of it. -/
def State.updCtl (s : State) (f : ControlEngine → ControlEngine) : State := { s with ctl := f s.ctl }

/-- The event unit replaced by `f` of it. -/
def State.updEvents (s : State) (f : EventUnit → EventUnit) : State := { s with events := f s.events }

/-- The class queue of `c`, head first. -/
def State.queue (s : State) (c : ClassIx) : List QFrame := s.queues[c.val]

/-- The class queue of `c` replaced. -/
def State.setQueue (s : State) (c : ClassIx) (q : List QFrame) : State := { s with queues := s.queues.set c.val q }

/-- The group state recorded (R119). -/
def State.setGroup (s : State) (up : Bool) : State := { s with groupUp := up }

/-- The moment of a command: the local time base never runs back (DESIGN CHOICE, unsafe; log entry 1). -/
def State.atTime (s : State) (t : Nat) : State := { s with now := max s.now t }

/-- One free value drawn. -/
def State.drawFree (s : State) : State := { s with freeCount := s.freeCount + 1 }

/-! ### Counters -/

/-- The ten counters of a pair port, in the order of R21. -/
inductive PairCtr where
  | handed
  | dataHanded
  | replays
  | good
  | void
  | bad
  | duplicates
  | retryAsk
  | bursts
  | strays
deriving DecidableEq, Repr

/-- A pair counter's place in the status words (spec/11). -/
def PairCtr.index : PairCtr → Fin 10
  | .handed => 0
  | .dataHanded => 1
  | .replays => 2
  | .good => 3
  | .void => 4
  | .bad => 5
  | .duplicates => 6
  | .retryAsk => 7
  | .bursts => 8
  | .strays => 9

/-- The counters of the other blocks (R72, R92, R114, R157). -/
inductive GroupCtr where
  | framesReceived
  | runts
  | fcsErrors
  | giants
  | controlFrames
  | pauseRequests
  | framesSent
  | admitted (c : ClassIx)
  | queueFull (c : ClassIx)
  | tableDiscards
  | groupDownDrops
  | voidFinals
  | placed
  | rePlaced
  | rerouted
  | ageDiscards
  | discarded
  | skewHolds
  | stored
  | duplicates
  | late
  | forcedArrivals
  | idleDiscards
  | memoryDiscards
  | reserveDiscards
  | resyncDiscards
  | orphans
  | incomplete
  | voidFrames
  | tooLong
  | toFarm
  | toControl
  | gapHold
  | gapShortcut
  | gapForced
  | queueOverflows
  | malformedFrames
deriving DecidableEq, Repr

/-- A counter's place among the group status words, from offset 0x10 (spec/11). -/
def GroupCtr.index : GroupCtr → Fin 43
  | .framesReceived => 0
  | .runts => 1
  | .fcsErrors => 2
  | .giants => 3
  | .controlFrames => 4
  | .pauseRequests => 5
  | .framesSent => 6
  | .admitted c => finOf 43 (7 + c.val)
  | .queueFull c => finOf 43 (11 + c.val)
  | .tableDiscards => 15
  | .groupDownDrops => 16
  | .voidFinals => 17
  | .placed => 18
  | .rePlaced => 19
  | .rerouted => 20
  | .ageDiscards => 21
  | .discarded => 22
  | .skewHolds => 23
  | .stored => 24
  | .duplicates => 25
  | .late => 26
  | .forcedArrivals => 27
  | .idleDiscards => 28
  | .memoryDiscards => 29
  | .reserveDiscards => 30
  | .resyncDiscards => 31
  | .orphans => 32
  | .incomplete => 33
  | .voidFrames => 34
  | .tooLong => 35
  | .toFarm => 36
  | .toControl => 37
  | .gapHold => 38
  | .gapShortcut => 39
  | .gapForced => 40
  | .queueOverflows => 41
  | .malformedFrames => 42

/-- A counter word. -/
def State.counter (s : State) (c : GroupCtr) : Word := s.counters[c.index.val]

/-- A counter raised by 1, saturating. -/
def State.bump (s : State) (c : GroupCtr) : State :=
  { s with counters := s.counters.set c.index.val (satInc32 s.counters[c.index.val]) }

/-- A counter raised by `n`, one at a time. -/
def State.bumpBy (s : State) (c : GroupCtr) : Nat → State
  | 0 => s
  | n + 1 => (s.bump c).bumpBy c n

/-- A pair counter word. -/
def PairPort.counter (pp : PairPort) (c : PairCtr) : Word := pp.counters[c.index.val]

/-- A pair counter raised by 1, saturating. -/
def PairPort.bump (pp : PairPort) (c : PairCtr) : PairPort :=
  { pp with counters := pp.counters.set c.index.val (satInc32 pp.counters[c.index.val]) }

/-! ### Table memory -/

/-- The place of word `j` of pair `p`'s entry. -/
def pairIx (p : PairIx) (j : Fin 2) : Fin 16 := ⟨2 * p.val + j.val, by omega⟩

/-- The place of word `j` of class entry `i`. -/
def clsIx (i : Fin 64) (j : Fin 2) : Fin 128 := ⟨2 * i.val + j.val, by omega⟩

/-- A word of table memory. -/
def TableStore.get (t : TableStore) : TRef → TWord
  | .group .shadow i => t.groupShadow[i.val]
  | .group .active i => t.groupActive[i.val]
  | .pair .shadow p j => t.pairShadow[(pairIx p j).val]
  | .pair .active p j => t.pairActive[(pairIx p j).val]
  | .cls .shadow i j => t.clsShadow[(clsIx i j).val]
  | .cls .active i j => t.clsActive[(clsIx i j).val]
  | .gate => t.gate

/-- A word of table memory replaced. -/
def TableStore.put (t : TableStore) (r : TRef) (w : TWord) : TableStore :=
  match r with
  | .group .shadow i => { t with groupShadow := t.groupShadow.set i.val w }
  | .group .active i => { t with groupActive := t.groupActive.set i.val w }
  | .pair .shadow p j => { t with pairShadow := t.pairShadow.set (pairIx p j).val w }
  | .pair .active p j => { t with pairActive := t.pairActive.set (pairIx p j).val w }
  | .cls .shadow i j => { t with clsShadow := t.clsShadow.set (clsIx i j).val w }
  | .cls .active i j => { t with clsActive := t.clsActive.set (clsIx i j).val w }
  | .gate => { t with gate := w, gateLost := false }

/-- A value stored with a fresh code (spec/08, Error correction). -/
def TableStore.store (t : TableStore) (r : TRef) (v : Word) : TableStore := t.put r { val := v, wrong := .none }

/-- The damage mark of the unit a word of an active copy belongs to; a shadow word or the gate record belongs to no
unit (R136, R137). -/
def TableStore.marked (t : TableStore) : TRef → Bool
  | .group .active _ => t.groupDamaged
  | .pair .active p _ => t.pairDamaged[p.val]
  | .cls .active i _ => t.clsDamaged[i.val]
  | _ => false

/-- What a finding of an uncorrectable word marks: the unit of an active word (R136), or the gate record's fields as
reading their defaults (R137). -/
def TableStore.mark (t : TableStore) : TRef → TableStore
  | .group .active _ => { t with groupDamaged := true }
  | .pair .active p _ => { t with pairDamaged := t.pairDamaged.set p.val true }
  | .cls .active i _ => { t with clsDamaged := t.clsDamaged.set i.val true }
  | .gate => { t with gateLost := true }
  | _ => t

/-- A finding of an uncorrectable word counted, its address recorded if none is (R136, R137). -/
def TableStore.countUncorrectable (t : TableStore) (a : Nat) : TableStore :=
  { t with uncorrectable := satInc16 t.uncorrectable
           firstUncorrectable := some (t.firstUncorrectable.getD a) }

/-- A corrected word written back and counted (R135). -/
def TableStore.correct (t : TableStore) (r : TRef) : TableStore :=
  { t.store r (t.get r).val with corrected := satInc16 t.corrected, lastCorrected := some r.addr }

/-- The value a reader of a word gets: its value, or `none` where the word is uncorrectable. -/
def TableStore.word? (t : TableStore) (r : TRef) : Option Word := if (t.get r).wrong = .two then none else some (t.get r).val

/-- The value a reader of a word of table memory gets. -/
def State.word? (s : State) (r : TRef) : Option Word := s.tables.word? r

/-! ### Fields of the active group record (R116, spec/11) -/

/-- Word `i` of the active group record as its fields read: an uncorrectable word reads as its defaults (R121). -/
def State.groupWord (s : State) (i : Fin 19) : Word := (s.word? (.group .active i)).getD (groupDefault s.digit i)

/-- The word of the group record that holds class `c`'s parameters. -/
def classWord (c : ClassIx) : Fin 19 := ⟨9 + c.val, by omega⟩

/-- A field of an address held in two words reads as its default where either word is uncorrectable (R121). -/
def State.groupAddress (s : State) (i j : Fin 19) : Nat :=
  match s.word? (.group .active i), s.word? (.group .active j) with
  | some a, some b => addressOf (fieldAt a 0 16) b.toNat
  | _, _ => addressOf (fieldAt (groupDefault s.digit i) 0 16) (groupDefault s.digit j).toNat

def State.gid (s : State) : Nat := fieldAt (s.groupWord 0x00) 0 8
def State.windowSize (s : State) : Nat := fieldAt (s.groupWord 0x01) 0 11
def State.minPairs (s : State) : Nat := fieldAt (s.groupWord 0x02) 0 4
def State.defaultClass (s : State) : ClassIx := finOf 4 (fieldAt (s.groupWord 0x02) 8 2)
/-- The hold time in µs. -/
def State.holdTime (s : State) : Nat := fieldAt (s.groupWord 0x03) 0 7 * 1000
/-- The skew budget K in µs. -/
def State.skewBudget (s : State) : Nat := fieldAt (s.groupWord 0x03) 16 7 * 1000
def State.retryLimit (s : State) : Nat := fieldAt (s.groupWord 0x04) 0 3
/-- The replay timeout in µs. -/
def State.replayTimeout (s : State) : Nat := fieldAt (s.groupWord 0x04) 16 9 * 1000
/-- The silence limit in µs. -/
def State.silenceLimit (s : State) : Nat := fieldAt (s.groupWord 0x05) 0 12 * 1000
/-- The probation time in µs. -/
def State.probationTime (s : State) : Nat := fieldAt (s.groupWord 0x05) 16 6 * 1000000
def State.minRate (s : State) : Nat := fieldAt (s.groupWord 0x06) 0 14
/-- The reroute age limit in µs. -/
def State.rerouteAge (s : State) : Nat := fieldAt (s.groupWord 0x07) 0 8 * 1000
/-- The drain limit in µs. -/
def State.drainLimit (s : State) : Nat := fieldAt (s.groupWord 0x07) 16 4 * 1000000
def State.guardEnable (s : State) : Bool := bitAt (s.groupWord 0x08) 0
def State.guardThreshold (s : State) : Nat := fieldAt (s.groupWord 0x08) 4 3
/-- The guard lead in ms. -/
def State.guardLead (s : State) : Nat := fieldAt (s.groupWord 0x08) 8 5
/-- The guard width in ms. -/
def State.guardWidth (s : State) : Nat := fieldAt (s.groupWord 0x08) 16 6
def State.fragSize (s : State) (c : ClassIx) : Nat := fieldAt (s.groupWord (classWord c)) 0 10
def State.cutThrough (s : State) (c : ClassIx) : Bool := bitAt (s.groupWord (classWord c)) 16
/-- The byte limit of a class, in bytes. -/
def State.byteLimit (s : State) (c : ClassIx) : Nat := fieldAt (s.groupWord (classWord c)) 24 7 * 1024
/-- The memory reserve, in blocks. -/
def State.reserve (s : State) : Nat := fieldAt (s.groupWord 0x0D) 0 9
def State.station (s : State) : Nat := s.groupAddress 0x0E 0x0F
def State.noticeAddress (s : State) : Nat := s.groupAddress 0x10 0x11
/-- The notice interval in µs. -/
def State.noticeInterval (s : State) : Nat := fieldAt (s.groupWord 0x12) 0 6 * 1000000
/-- The notice sides: bit 0 LINE, bit 1 FARM (NONE 0, LINE 1, FARM 2, BOTH 3). -/
def State.noticeSides (s : State) : Nat := fieldAt (s.groupWord 0x12) 8 2

/-! ### Fields of the active pair table (R118, spec/11) -/

/-- The admin of a pair's active entry is ON. -/
def State.adminOn (s : State) (p : PairIx) : Bool := bitAt (s.tables.get (.pair .active p 0)).val 0
/-- The drain mode of a pair's active entry is IMMEDIATE. -/
def State.drainImmediate (s : State) (p : PairIx) : Bool := bitAt (s.tables.get (.pair .active p 0)).val 8
/-- The E mode of a pair's active entry is AUTO. -/
def State.autoE (s : State) (p : PairIx) : Bool := !bitAt (s.tables.get (.pair .active p 0)).val 16
/-- The latency offset E of a pair's active entry, µs. -/
def State.offsetE (s : State) (p : PairIx) : Nat := fieldAt (s.tables.get (.pair .active p 1)).val 0 15

/-! ### Memory counts -/

/-- The blocks that hold a span of `n` bytes. -/
def blocksFor (n : Nat) : Nat := ceilDiv n Config.blockBytes

/-- Bytes stored of a class queue frame so far. -/
def QFrame.stored (q : QFrame) : Nat := q.cut + q.uncut.length

/-- The blocks a class queue frame holds: those of its stored bytes less those wholly cut (R63, R70). -/
def QFrame.blocks (q : QFrame) : Nat := blocksFor q.stored - q.cut / Config.blockBytes

/-- The blocks the frames of a class hold. -/
def State.classBlocks (s : State) (c : ClassIx) : Nat := ((s.queue c).map QFrame.blocks).sum

/-- The byte count of a class (R63). -/
def State.classBytes (s : State) (c : ClassIx) : Nat := Config.blockBytes * s.classBlocks c

/-- The free blocks of upstream queue memory (R63). -/
def State.freeQueueBlocks (s : State) : Nat :=
  Config.queueBlocks - (s.classBlocks 0 + s.classBlocks 1 + s.classBlocks 2 + s.classBlocks 3)

/-- The slots a pair's transmit queue and retry store hold. -/
def PairPort.held (pp : PairPort) : Nat := pp.txq.length + pp.store.length

/-- The slots held by transmit queues, retry stores, the reroute list and the pending fragment (R74). -/
def State.heldSlots (s : State) : Nat :=
  (allPairs.map fun p => (s.pair p).held).sum + s.dist.reroute.length
    + (match s.dist.fip with
       | some f => if f.pendingFrag.isSome then 1 else 0
       | none => 0)

/-- The free slots of the upstream fragment store (R74). -/
def State.freeSlots (s : State) : Nat := Config.fragmentSlots - s.heldSlots

/-- The blocks a window entry holds (R96). -/
def Entry.blocks (e : Entry) : Nat := blocksFor e.payload.length

/-- The free blocks of downstream memory (R96). -/
def State.freeDownBlocks (s : State) : Nat :=
  Config.downstreamBlocks - ((s.reas.window.map Entry.blocks).sum + (s.farm.outQueue.map OutFrame.blocks).sum)

/-! ### Events and their details (R158, spec/11) -/

/-- The code of a kind, which is also its priority (R158). -/
def EventKind.index : EventKind → Fin 15
  | .tableDamaged => 0
  | .groupDown => 1
  | .pairDown => 2
  | .retryExhausted => 3
  | .miswired => 4
  | .memoryExhausted => 5
  | .postedFailed => 6
  | .vacantAccess => 7
  | .groupUp => 8
  | .pairActive => 9
  | .commitDone => 10
  | .digestDone => 11
  | .boxArrived => 12
  | .guardLocked => 13
  | .eccCorrected => 14

/-- The code of a pair state (spec/11). -/
def PairState.code : PairState → Nat
  | .off => 0
  | .down => 1
  | .training => 2
  | .probation => 3
  | .active => 4
  | .draining => 5

/-- The code of a cause (spec/11). -/
def Cause.code : Cause → Nat
  | .none => 0
  | .lineLost => 1
  | .silence => 2
  | .retryExhausted => 3
  | .miswired => 4
  | .restart => 5
  | .groupRestart => 6
  | .lowRate => 7
  | .adminOff => 8
  | .damaged => 9
  | .drained => 10
  | .drainLimit => 11

/-- The code of an origin in a detail record (spec/11). -/
def originCode : Origin → Nat
  | .farm => 0
  | .line => 1

/-- A detail record of one word. -/
def detail1 (w : Word) : Detail := { w1 := w, w2 := 0, w3 := 0 }

/-- A detail record of two words. -/
def detail2 (w1 w2 : Word) : Detail := { w1 := w1, w2 := w2, w3 := 0 }

/-- A number as a whole detail word. -/
def asWord (n : Nat) : Word := BitVec.ofNat 32 n

/-- The record of a kind. -/
def State.event (s : State) (k : EventKind) : EventRec := s.events.kinds[k.index.val]

/-- An occurrence recorded: the detail overwritten, the count raised, the pending flag set if the kind is enabled
(R158). -/
def EventRec.occur (r : EventRec) (d : Detail) : EventRec :=
  { r with detail := d, count := satInc8 r.count, isPending := r.isPending || r.enabled }

/-- The record of a kind replaced. -/
def State.setEvent (s : State) (k : EventKind) (r : EventRec) : State :=
  s.updEvents fun e => { e with kinds := e.kinds.set k.index.val r }

/-- At least one kind is pending. -/
def State.anyPending (s : State) : Bool := s.events.kinds.toList.any EventRec.isPending

/-- The notice interval end has passed, or there is no last notice (R161). -/
def State.noticeAllowed (s : State) : Bool :=
  match s.events.lastNotice with
  | none => true
  | some l => decide (l + s.noticeInterval ≤ s.now)

/-! ### Internal frames, notices, and the error correction's findings

These four depend on one another: a finding raises an event, a newly pending event may build a notice, a notice reads
words of the group record. `n` bounds the nesting; every further level needs a word not yet found, and a notice reads
six. -/

/-- An Ethernet frame of the part's own: destination, source, the Sarzego type and the body, padded to 60 bytes
(R145, R162). -/
def ownFrame (dest source : Nat) (body : List Byte) : List Byte :=
  padTo 60 (addressBytes dest ++ addressBytes source ++ bytes16 controlType ++ body)

/-- The room test of R65: the class 3 byte limit and the free blocks allow all the blocks of a frame of `n` bytes. -/
def State.internalRoom (s : State) (n : Nat) : Bool :=
  decide (s.classBytes 3 + Config.blockBytes * blocksFor n ≤ s.byteLimit 3) && decide (blocksFor n ≤ s.freeQueueBlocks)

/-- An internal frame offered to the classifier for class 3: the state after it, and whether it was admitted (R65).
`look` is how a table word is touched. -/
def admitInternalWith (look : TRef → State → State) (bytes : List Byte) (resp : Option Nat) (s : State) : State × Bool :=
  if s.groupUp then
    let s := look (.group .active (classWord 3)) s
    if s.internalRoom bytes.length then
      ((s.setQueue 3 (s.queue 3 ++ [{ cut := 0, uncut := bytes, ended := true, resp := resp }])).bump (.admitted 3), true)
    else (s.bump (.queueFull 3), false)
  else (s.bump .groupDownDrops, false)

/-- The entries of a notice: code and occurrence count of every pending kind, in code order (R162). -/
def noticeEntries (s : State) : List (List Byte) :=
  (List.range 15).filterMap fun i =>
    match s.events.kinds[i]? with
    | some r => if r.isPending then some [byteOf (i + 1), r.count] else none
    | none => none

/-- The bytes of a notice frame (R162, spec/11). -/
def noticeFrame (s : State) : List Byte :=
  let es := noticeEntries s
  ownFrame s.noticeAddress s.station ([byteOf 1, byteOf 0x80, byteOf es.length, 0] ++ es.flatten)

/-- A notice placed in the farm notice slot; it replaces one that still waits there (R162). -/
def ControlEngine.putNotice (c : ControlEngine) (bytes : List Byte) : ControlEngine :=
  { c with noticeSlot := some { bytes := bytes, sending := false }
           farmOrder := c.farmOrder.filter (fun f => decide (f ≠ FarmSlot.notice)) ++ [FarmSlot.notice] }

/-- The words a notice reads: station address and notice address (R162), in address order (DESIGN CHOICE, unsafe; log entry 61). -/
def touchNotice (look : TRef → State → State) (s : State) : State :=
  look (.group .active 0x11) (look (.group .active 0x10) (look (.group .active 0x0F) (look (.group .active 0x0E) s)))

/-- The time of the last notice set to now (R161). -/
def stampNotice (s : State) : State := s.updEvents fun e => { e with lastNotice := some s.now }

/-- A built notice sent to its sides: bit 1 the farm notice slot, bit 0 the classifier (R162). -/
def sendSides (look : TRef → State → State) (frame : List Byte) (sides : Nat) (s : State) : State :=
  let s := if sides.testBit 1 then s.updCtl fun c => c.putNotice frame else s
  if sides.testBit 0 then (admitInternalWith look frame none s).1 else s

/-- A notice built now and sent to the sides the group record names (R161, R162). The time of the last notice is set before
the words of the frame are read, so that a kind newly pending in those reads owes a notice. -/
def sendNoticeWith (look : TRef → State → State) (s : State) : State :=
  let s := touchNotice look (stampNotice s)
  sendSides look (noticeFrame s) s.noticeSides s

/-- A kind has become newly pending: a notice is sent at once, or one is owed, or neither with sides NONE (R161). Where the sides
read NONE only because their word has been found uncorrectable (R121), a notice owed before stays owed until the interval end
or a commit (DESIGN CHOICE, unsafe; log entry 47). A kind that the reading of word 0x12 makes newly pending is judged before this
one (DESIGN CHOICE, unsafe; log entry 55). Where a notice is already owed and the interval end is past with that not yet acted
on, the newly pending kind sends the notice and the flag stays set for a further interval (DESIGN CHOICE, unsafe; log entry 59). -/
def newPendingWith (look : TRef → State → State) (s : State) : State :=
  let s := look (.group .active 0x12) s
  if s.noticeSides = 0 then s
  else if s.noticeAllowed then sendNoticeWith look s
  else s.updEvents fun e => { e with owed := true }

/-- A word of table memory met by a read: corrected and reported, found uncorrectable and reported, or sound
(R135, R136, R137). -/
def touchWith (raiseEv : EventKind → Detail → State → State) (r : TRef) (s : State) : State :=
  match (s.tables.get r).wrong with
  | .none => s
  | .one => raiseEv .eccCorrected (detail1 (asWord r.addr)) (s.updTables fun t => t.correct r)
  | .two =>
    if s.tables.marked r then s.updTables fun t => t.countUncorrectable r.addr
    else raiseEv .tableDamaged (detail1 (asWord r.addr)) (s.updTables fun t => (t.countUncorrectable r.addr).mark r)

/-- A kind raised (R158, R161). -/
def raiseN : Nat → EventKind → Detail → State → State
  | 0, k, d, s =>
    let r := s.event k
    let s := s.setEvent k (r.occur d)
    if r.enabled && !r.isPending then newPendingWith (fun _ s => s) s else s
  | n + 1, k, d, s =>
    let r := s.event k
    let s := s.setEvent k (r.occur d)
    if r.enabled && !r.isPending then newPendingWith (touchWith (raiseN n)) s else s

/-- A block raises an event kind (R158). -/
def raiseEvent (k : EventKind) (d : Detail) (s : State) : State := raiseN 8 k d s

/-- A word of table memory met by a read (R135..R137). The consequences of a damage mark for its pair and for the
group are `settleDamage`'s. -/
def touch (r : TRef) (s : State) : State := touchWith raiseEvent r s

/-- Word `i` of the active group record met by a read. -/
def touchGroup (i : Fin 19) (s : State) : State := touch (.group .active i) s

/-- The test for an epoch point reads the hold flag of a pending commit through the error correction (R132). -/
def epochTest (s : State) : State := if s.tables.commitPending && s.dist.fip.isNone then touch .gate s else s

/-- A list of words met by reads, in order. -/
def touchAll (rs : List TRef) (s : State) : State := rs.foldl (fun s r => touch r s) s

/-- An internal frame offered to the classifier (R65). -/
def admitInternal (bytes : List Byte) (resp : Option Nat) (s : State) : State × Bool := admitInternalWith touch bytes resp s

/-- A notice built and sent now (R161, R162). -/
def sendNotice (s : State) : State := sendNoticeWith touch s

/-- A kind has become newly pending by its enable flag (R159, R161). -/
def newPending (s : State) : State := newPendingWith touch s

/-! ### Restarts and responses (R155) -/

/-- Response `n` has left, or is lost: the restarts recorded against it are due. -/
def responseLeft (n : Nat) (s : State) : State :=
  s.updCtl fun c => { c with restarts := c.restarts.map fun r => if r.awaits = some n then { r with awaits := none } else r }

/-- A fragment whose slot is freed before its first hand-off: a response it ends is lost (R155). -/
def fragmentGone (f : Frag) (s : State) : State :=
  match f.resp with
  | some n => responseLeft n s
  | none => s

/-- A class queue frame flushed: a response it carries is lost (R155). -/
def queueFrameGone (q : QFrame) (s : State) : State :=
  match q.resp with
  | some n => responseLeft n s
  | none => s

/-! ### The receiving pairs -/

/-- The link protocol runs in this state (R43). -/
def PairState.running : PairState → Bool
  | .probation => true
  | .active => true
  | .draining => true
  | _ => false

/-- The ACTIVE pair count (R119). -/
def State.activeCount (s : State) : Nat := (allPairs.filter fun p => decide ((s.pair p).state = .active)).length

end Sys2Proof.Machine
end

