-- ==== Sys2Proof/Machine/Group.lean ====
section
/-! DEFINITION. Pair moves and the group state: giving up stores, entering DOWN, OFF, PROBATION and ACTIVE
(R8..R14, R43), the reroute list's merge (R88, R89), and the group's fall and rise (R119..R124). -/

namespace Sys2Proof.Machine

/-! ### The reroute list and discards -/

/-- How far a fragment's GSN lies behind the next GSN (R88). -/
def behindBy (next : Gsn) (f : Frag) : Nat := (next - f.gsn.getD 0).toNat

/-- A fragment merged into the reroute list at its place by GSN, the farthest behind first (R88, R89). -/
def insertByGsn (next : Gsn) (f : Frag) : List Frag → List Frag
  | [] => [f]
  | g :: rest => if behindBy next g < behindBy next f then f :: g :: rest else g :: insertByGsn next f rest

/-- One fragment given back to the reroute list (R89). -/
def joinReroute (s : State) (f : Frag) : State :=
  (s.updDist fun d => { d with reroute := insertByGsn d.nextGsn f d.reroute }).bump .rerouted

/-- One fragment discarded at the group's fall or a group restart, its slot freed (R91). -/
def discardFrag (s : State) (f : Frag) : State := (fragmentGone f s).bump .discarded

/-- The fragments a pair holds: its retry store from the oldest entry, then its transmit queue (R89). -/
def PairPort.fragments (pp : PairPort) : List Frag := pp.store.map RetryEntry.frag ++ pp.txq

/-- A pair's stores emptied; any replay ends (R43). -/
def PairPort.emptied (pp : PairPort) : PairPort := { pp with store := [], txq := [], replay := none }

/-- A pair gives up its stores: to the reroute list, or discarded (R11, R12, R13). -/
def giveUp (p : PairIx) (keep : Bool) (s : State) : State :=
  let fs := (s.pair p).fragments
  let s := s.updPair p PairPort.emptied
  if keep then fs.foldl joinReroute s else fs.foldl discardFrag s

/-- The link state reset (R43). -/
def PairPort.resetLink (pp : PairPort) : PairPort :=
  { pp with nextTxn := 0, rxn := 0, rx := .inStep, ldg := none, replay := none, rewindMark := none, owedAck := false
            echo := none, store := [], txq := [] }

/-- A command sent to the transceiver (R4). -/
def PairPort.command (pp : PairPort) (c : XcvrCmd) : PairPort := { pp with sent := pp.sent ++ [c] }

/-- The shortcut suspended until now plus the hold time, or its present end if that is later (R113). -/
def suspendShortcut (s : State) : State :=
  let s := touchGroup 0x03 s
  s.updReas fun r => { r with suspension := some (max (r.suspension.getD 0) (s.now + s.holdTime)) }

/-- The pair port's part of a departure to DOWN or OFF: stores given up, link state reset, cause set, command sent,
PAIR_DOWN raised, and the shortcut suspended if the pair was receiving (R11, R12, R13, R113). `left` is the state
left, `target` DOWN or OFF. -/
def depart (p : PairIx) (left target : PairState) (cause : Cause) (cmd : XcvrCmd) (keep : Bool) (s : State) : State :=
  let s := giveUp p keep s
  let s := s.updPair p fun pp =>
    ({ pp.resetLink with state := target, cause := cause, bar := false, drain := none }).command cmd
  let s := raiseEvent .pairDown (detail1 (byteFields p.val cause.code left.code 0)) s
  if left.running then suspendShortcut s else s

/-- A pair's state set, so that its departure counts (R11, R12). -/
def setPairState (p : PairIx) (st : PairState) (s : State) : State := s.updPair p fun pp => { pp with state := st }

/-- What an evaluation of the group state would find (R119). -/
def State.wouldBeUp (s : State) : Bool := !s.tables.groupDamaged && decide (s.minPairs ≤ s.activeCount)

/-- A pair goes to DOWN (R11), before the group is evaluated. A pair whose active entry has admin OFF goes on to OFF,
with QUIET in place of RETRAIN; the admin is taken from its word with no read (DESIGN CHOICE, unsafe; log entry 60). -/
def toDown (p : PairIx) (cause : Cause) (s : State) : State :=
  let left := (s.pair p).state
  let s := touchGroup 0x02 (setPairState p .down s)
  let keep := decide (cause ≠ .groupRestart) && s.wouldBeUp
  if s.adminOn p then depart p left .down cause .retrain keep s else depart p left .off cause .quiet keep s

/-- A pair goes to OFF by the drain limit or a damaged entry (R12, R13), before the group is evaluated. -/
def toOff (p : PairIx) (cause : Cause) (s : State) : State :=
  let left := (s.pair p).state
  let s := touchGroup 0x02 (setPairState p .off s)
  depart p left .off cause .quiet s.wouldBeUp s

/-- A draining pair whose stores are both empty goes to OFF with cause DRAINED (R13, R124). -/
def drained (p : PairIx) (s : State) : State := depart p .draining .off .drained .quiet true s

/-- The stores of a pair are both empty. -/
def PairPort.isEmpty (pp : PairPort) : Bool := pp.txq.isEmpty && pp.store.isEmpty

/-- A drain ends by emptying at the first moment both stores are empty (R13). -/
def drainCheck (p : PairIx) (s : State) : State :=
  if (s.pair p).state = .draining ∧ (s.pair p).isEmpty then drained p s else s

/-- The pair record on entering PROBATION (R8). -/
def PairPort.enterProbation (pp : PairPort) (now : Nat) : PairPort :=
  { pp with state := .probation, probStart := now, samples := 0, bar := false, lastHeard := now, probeDue := now, drain := none }

/-- The probe due time on entering ACTIVE: the last PROBE hand-off plus 1 s (R9); a free value where there was none
(DESIGN CHOICE, safe; log entry 5). -/
def State.probeDueActive (s : State) (p : PairIx) : Nat :=
  match (s.pair p).lastProbe with
  | some t => t + 1000000
  | none => Config.freeProbeDue s.freeCount

/-- A pair becomes ACTIVE, before the group is evaluated: PAIR_ACTIVE is raised with the rate and E (R9, R14). Where that read
finds the word of E uncorrectable, the detail shows the value last stored in it (DESIGN CHOICE, unsafe; log entry 39). -/
def toActive (p : PairIx) (s : State) : State :=
  let due := s.probeDueActive p
  let s := if (s.pair p).lastProbe.isNone then s.drawFree else s
  let s := s.updPair p fun pp => { pp with state := .active, probeDue := due, bar := false, drain := none }
  let s := touch (.pair .active p 1) s
  raiseEvent .pairActive { w1 := byteFields p.val 0 0 0, w2 := asWord (s.pair p).upRate, w3 := asWord (s.offsetE p) } s

/-! ### The group's fall and rise -/

/-- A frame being received for a class queue is dropped, and counted no more (R71). -/
def RxFrame.flushed (f : RxFrame) : RxFrame :=
  match f.kind with
  | .upstream _ => { f with kind := .dropped .silent, held := [] }
  | _ => f

/-- One class queue flushed (R71). A failed frame that still waited for its void final fragment has been counted by its failure
and is not counted again (R72). -/
def flushQueue (s : State) (c : ClassIx) : State :=
  let q := s.queue c
  (q.foldl (fun s f => queueFrameGone f s) (s.setQueue c [])).bumpBy .groupDownDrops (q.filter fun f => !f.failed).length

/-- The class queues flushed, and the upstream frame being received dropped (R71, R73). -/
def flushClassifier (s : State) : State :=
  let s := ([0, 1, 2, 3] : List ClassIx).foldl flushQueue s
  s.updFarm fun f => { f with rx := f.rx.map RxFrame.flushed }

/-- The distributor's part of the fall: reroute list discarded, frame in progress dropped, wait reason NONE (R91). -/
def clearDistributor (s : State) : State :=
  let d := s.dist
  let s := s.updDist fun d => { d with reroute := [], fip := none, wait := .none }
  let s := if d.fip.isSome then epochTest s else s
  let s := d.reroute.foldl discardFrag s
  match d.fip.bind Fip.pendingFrag with
  | some f => discardFrag s f
  | none => s

/-- The reassembler enters IDLE (R94): its window freed, the farm output queue and the suspension kept. -/
def Reassembler.toIdle (r : Reassembler) : Reassembler :=
  { r with state := .idle, window := [], head := none, first := none, discarding := false, hold := none, resync := none }

/-- Every block's part of the group's fall (R122, which allows any order): pair ports, distributor, classifier, reassembler, and the
draining pairs left empty last (DESIGN CHOICE, unsafe; log entry 12). -/
def fallBlocks (s : State) : State :=
  let s := allPairs.foldl (fun s p => giveUp p false s) s
  let s := clearDistributor s
  let s := flushClassifier s
  let s := s.updReas Reassembler.toIdle
  allPairs.foldl (fun s p => drainCheck p s) s

/-- The reason codes of GROUP_DOWN (spec/11). -/
inductive FallReason where
  | pairs
  | damaged
  | restart
deriving DecidableEq, Repr

/-- The code of a reason. -/
def FallReason.code : FallReason → Nat
  | .pairs => 1
  | .damaged => 2
  | .restart => 3

/-- GROUP_DOWN raised (R122, R125). -/
def raiseGroupDown (reason : FallReason) (s : State) : State :=
  raiseEvent .groupDown (detail1 (byteFields s.activeCount s.minPairs reason.code 0)) s

/-- The group goes DOWN (R122). -/
def groupFall (s : State) : State :=
  let reason := if s.tables.groupDamaged then FallReason.damaged else FallReason.pairs
  fallBlocks (raiseGroupDown reason (s.setGroup false))

/-- The group comes UP (R123): the reassembler goes from IDLE to RESYNC. -/
def groupRise (s : State) : State :=
  let s := s.setGroup true
  let s := raiseEvent .groupUp (detail1 (byteFields s.activeCount s.minPairs 0 0)) s
  s.updReas fun r => { r.toIdle with state := .resync }

/-- The group state evaluated (R119). -/
def evaluateGroup (s : State) : State :=
  let s := touchGroup 0x02 s
  if s.groupUp && !s.wouldBeUp then groupFall s
  else if !s.groupUp && s.wouldBeUp then groupRise s
  else s

/-- A pair whose active entry is marked damaged goes to OFF at once (R12). -/
def damagedPairOff (p : PairIx) (s : State) : State :=
  if s.tables.pairDamaged[p.val] ∧ (s.pair p).state ≠ .off then evaluateGroup (toOff p .damaged s) else s

/-- The consequences of damage marks on the group and the pairs: the group goes DOWN (R121) and the pairs of marked entries
go to OFF (R12), in number order after the group (DESIGN CHOICE, unsafe; log entry 12). The placement attempt that follows (R82) is
`settleOwed`'s. -/
def settleDamage (s : State) : State :=
  let s := if s.tables.groupDamaged ∧ s.groupUp then evaluateGroup s else s
  allPairs.foldl (fun s p => damagedPairOff p s) s

end Sys2Proof.Machine
end

