-- ==== Sys2Proof/Machine/Distributor.lean ====
section
/-! DEFINITION. The distributor (spec/05) and the offer of class queue frames (R66): taking and cutting frames
(R66..R70, R76), placement attempts (R80..R87), holds (R81) and the age of the reroute list's head (R83). -/

namespace Sys2Proof.Machine

/-! ### Taking a frame -/

/-- The hold flag of the gate record: clear once the record has been found uncorrectable (R132, R137). -/
def State.holdFlag (s : State) : Bool := !s.tables.gateLost && bitAt s.tables.gate.val 16

/-- A pending commit stands at an epoch point (R132). -/
def State.epochPoint (s : State) : Bool := s.tables.commitPending && s.dist.fip.isNone && !s.holdFlag

/-- The oldest frame of a class is eligible: it has ended, or its class is cut-through (R66). -/
def offers (s : State) (c : ClassIx) : Bool :=
  match s.queue c with
  | [] => false
  | q :: _ => q.ended || s.cutThrough c

/-- The cut-through flag is read for a class whose oldest frame is still arriving (R62), and for no other (DESIGN CHOICE, unsafe;
log entry 60). -/
def touchOffer (s : State) (c : ClassIx) : State :=
  match s.queue c with
  | [] => s
  | q :: _ => if q.ended then s else touchGroup (classWord c) s

/-- The distributor works: the group is UP and its record undamaged (R80, R121). -/
def State.distributing (s : State) : Bool := s.groupUp && !s.tables.groupDamaged

/-- The distributor, when ready, takes the eligible frame of the highest class (R66). Where a pending commit stands at
an epoch point, the commit is taken first (R132, DESIGN CHOICE, unsafe; log entry 7). The class word is met at the offer and at
the taking and at no later cut (R62; DESIGN CHOICE, unsafe; log entry 60); all offers are met, class 3 first, before one is chosen
(DESIGN CHOICE, unsafe; log entry 61). -/
def takeFrame (s : State) : State :=
  if s.distributing && s.dist.fip.isNone && !s.epochPoint then
    let s := ([3, 2, 1, 0] : List ClassIx).foldl touchOffer s
    match ([3, 2, 1, 0] : List ClassIx).find? (offers s) with
    | none => s
    | some c =>
      let s := touchGroup (classWord c) s
      s.updDist fun d =>
        { d with fip := some { cls := c, size := s.fragSize c, cutAny := false, placedAny := false, pendingFrag := none
                               finalCut := false, voidTail := none } }
  else s

/-! ### Cutting -/

/-- A cut that is due: its payload, whether it is final, and whether void (R67..R69, R76). -/
structure Cut where
  payload : List Byte
  final : Bool
  void : Bool
deriving DecidableEq, Repr

/-- The cut due from the oldest frame of the class of the frame in progress: a frame still arriving needs a stored byte
beyond the fragment (R67); a whole frame is cut to its end (R68, R76). -/
def QFrame.cutDue (q : QFrame) (size : Nat) : Option Cut :=
  if q.ended && decide (q.uncut.length ≤ size) then some { payload := q.uncut, final := true, void := false }
  else if decide (size + 1 ≤ q.uncut.length) then some { payload := q.uncut.take size, final := false, void := false }
  else none

/-- The cut due, if any: none while a fragment is pending or once the final one has been cut (R76). -/
def State.cutDue (s : State) : Option Cut :=
  match s.dist.fip with
  | none => none
  | some f =>
    if f.pendingFrag.isSome || f.finalCut then none
    else
      match f.voidTail with
      | some tail => some { payload := tail, final := true, void := true }
      | none =>
        match s.queue f.cls with
        | [] => none
        | q :: _ => q.cutDue f.size

/-- The fragment record of a cut (R75). -/
def cutFrag (f : Fip) (c : Cut) (resp : Option Nat) : Frag :=
  { payload := c.payload, b := !f.cutAny, e := c.final, cls := f.cls, void := c.void, gsn := none, firstPlaced := none
    rrt := false, resp := if c.final then resp else none }

/-- The class queue after a cut: the record leaves and frees its blocks with its final fragment, good or void, and a
non-final cut frees the blocks wholly cut (R68, R69, R70). -/
def queueAfterCut (q : List QFrame) (size : Nat) (c : Cut) : List QFrame :=
  match q with
  | [] => []
  | f :: rest => if c.final then rest else { f with cut := f.cut + size, uncut := f.uncut.drop size } :: rest

/-- A due cut made into a free slot (R76). R62 has the cut-through flag read while a frame is cut and gives no count: a cut meets
no table word (DESIGN CHOICE, unsafe; log entry 60). -/
def makeCut (f : Fip) (c : Cut) (s : State) : State :=
  let resp := if c.void then none else (s.queue f.cls).head?.bind QFrame.resp
  let s := s.setQueue f.cls (queueAfterCut (s.queue f.cls) f.size c)
  let s := s.updDist fun d =>
    { d with fip := some { f with cutAny := true, pendingFrag := some (cutFrag f c resp), finalCut := c.final, voidTail := none } }
  if c.void then s.bump .voidFinals else s

/-- Takes a frame if the distributor is ready and cuts its next fragment if one is due and a slot is free; tells whether
a fragment was cut (R66, R76). -/
def cutNext (s : State) : State × Bool :=
  let s := takeFrame s
  match s.dist.fip, s.cutDue with
  | some f, some c => if s.distributing && decide (0 < s.freeSlots) then (makeCut f c s, true) else (s, false)
  | _, _ => (s, false)

/-- A cut is due and waits for a slot (R76, R80). -/
def State.waitsForSlot (s : State) : Bool := s.cutDue.isSome && decide (s.freeSlots = 0)

/-! ### Choosing a pair -/

/-- Eligible pairs (R85). -/
def eligible (s : State) (p : PairIx) : Bool :=
  let pp := s.pair p
  decide (pp.state = .active) && decide (pp.txq.length < 8) && decide (pp.held < 32)

/-- The wire bytes of a fragment: LEN + 10 (R75). -/
def Frag.wire (f : Frag) : Nat := f.payload.length + 10

/-- The retry store entries from a replay's cursor to the newest (R86). -/
def PairPort.toReplay (pp : PairPort) : List RetryEntry :=
  match pp.replay with
  | none => []
  | some r => pp.store.dropWhile fun e => decide (e.txn ≠ r.cursor)

/-- B of R86: the wire bytes of the transmit queue, and of what a replay in progress has still to send. -/
def PairPort.bytesAhead (pp : PairPort) : Nat :=
  (pp.txq.map Frag.wire).sum + (pp.toReplay.map fun e => e.frag.wire).sum

/-- The guard term G of a pair, µs (R51). -/
def State.guardTerm (s : State) (p : PairIx) : Nat :=
  match (s.pair p).guard.window with
  | none => 0
  | some w => if s.guardEnable then w.endMs * 1000 - s.now else 0

/-- The projected delivery time of a fragment of `size` wire bytes on pair `p`, µs (R86). -/
def State.projected (s : State) (size : Nat) (p : PairIx) : Nat :=
  s.offsetE p + s.guardTerm p + ceilDiv (8000 * ((s.pair p).bytesAhead + size)) (s.pair p).upRate

/-- The pair of least projected delivery time, the lowest-numbered of equals (R87). -/
def leastPair (s : State) (size : Nat) : List PairIx → Option PairIx
  | [] => none
  | p :: rest =>
    match leastPair s size rest with
    | none => some p
    | some q => if s.projected size p ≤ s.projected size q then some p else some q

/-- The GSNs held in transmit queues, retry stores and the reroute list (R79). -/
def State.heldGsns (s : State) : List Gsn :=
  (allPairs.flatMap fun p => (s.pair p).fragments.filterMap Frag.gsn) ++ s.dist.reroute.filterMap Frag.gsn

/-- The span test: the next GSN may be given (R79). -/
def State.spanOk (s : State) : Bool := s.heldGsns.all fun g => decide ((s.dist.nextGsn - g).toNat ≤ 8190)

/-! ### Placing -/

/-- A new fragment placed at the tail of pair `p`'s transmit queue: it takes the next GSN and its first-placement time
(R78, R84). -/
def placeNew (p : PairIx) (f : Frag) (s : State) : State :=
  let g := { f with gsn := some s.dist.nextGsn, firstPlaced := some s.now }
  let s := s.updDist fun d => { d with nextGsn := d.nextGsn + 1 }
  (s.updPair p fun pp => { pp with txq := pp.txq ++ [g] }).bump .placed

/-- A fragment of the reroute list placed again: it keeps its GSN and first-placement time and carries RRT (R84, R90). -/
def placeAgain (p : PairIx) (f : Frag) (s : State) : State :=
  (s.updPair p fun pp => { pp with txq := pp.txq ++ [{ f with rrt := true }] }).bump .rePlaced

/-- The frame in progress after its pending fragment is placed: it ends with its final fragment (R76). -/
def Fip.afterPlacement (f : Fip) : Option Fip :=
  if f.finalCut then none else some { f with pendingFrag := none, placedAny := true }

/-- A hold recorded (R81): the skew holds counter is raised where the wait reason was another one. -/
def recordHold (w : WaitReason) (s : State) : State :=
  let was := s.dist.wait
  let s := s.updDist fun d => { d with wait := w }
  if w = .skew ∧ was ≠ .skew then s.bump .skewHolds else s

/-- What one choice of a pair comes to. -/
inductive Choice where
  | onto (p : PairIx)
  | hold (w : WaitReason)
  | again
deriving DecidableEq, Repr

/-- The words read for a choice: each eligible pair's E, the guard enable while one of their windows is open, and the
skew budget (R81, R86). R86 gives no order: the E words are read in pair number order and the other two after them, each once
(DESIGN CHOICE, unsafe; log entries 60 and 61). -/
def touchChoice (s : State) : State :=
  let ps := allPairs.filter (eligible s)
  let s := touchAll (ps.map fun p => .pair .active p 1) s
  let s := if ps.any fun p => (s.pair p).guard.window.isSome then touchGroup 0x08 s else s
  if ps.isEmpty then s else touchGroup 0x03 s

/-- The choice for a candidate of `size` wire bytes, on a state whose words have been met (R80, R81, R87). An eligible
pair whose entry has just been found damaged asks for the attempt to be taken again without it. -/
def choose (s : State) (size : Nat) : Choice :=
  let ps := allPairs.filter (eligible s)
  if ps.any fun p => s.tables.pairDamaged[p.val] then .again
  else
    match leastPair s size ps with
    | none => .hold .noPair
    | some p => if s.skewBudget < s.projected size p then .hold .skew else .onto p

/-- The age of a fragment since its first placement, µs (R83). -/
def ageOf (s : State) (f : Frag) : Nat := s.now - f.firstPlaced.getD s.now

/-- The head of the reroute list discarded for age (R83). -/
def discardHead (f : Frag) (s : State) : State :=
  (fragmentGone f (s.updDist fun d => { d with reroute := d.reroute.tail })).bump .ageDiscards

/-- A placement attempt and the attempts that follow each placement (R80), with the cuts they allow (R76). The bound is
never reached: each turn places a fragment (at most 64 fit), discards a list entry (at most 256), or takes a pair
out of service (at most 8). A pair whose E word is found uncorrectable in a choice goes to OFF at once and gives back its fragments,
and the attempt is taken again, its candidate the new head of the list (DESIGN CHOICE, unsafe; log entry 50). -/
def attemptN : Nat → State → State
  | 0, s => s
  | n + 1, s =>
    let s := (cutNext s).1
    if !s.distributing then s
    else
      match s.dist.reroute with
      | f :: _ =>
        let s := touchGroup 0x07 s
        if !s.distributing then s
        else if s.rerouteAge < ageOf s f then attemptN n (discardHead f s)
        else
          let s := touchChoice s
          if !s.distributing then s
          else
          match choose s f.wire with
          | .again => attemptN n (settleDamage s)
          | .hold w => recordHold w s
          | .onto p => attemptN n (placeAgain p f (s.updDist fun d => { d with reroute := d.reroute.tail }))
      | [] =>
        match s.dist.fip with
        | none => s.updDist fun d => { d with wait := .none }
        | some fp =>
          match fp.pendingFrag with
          | none => s.updDist fun d => { d with wait := if s.waitsForSlot then .slot else .none }
          | some f =>
            if !s.spanOk then recordHold .span s
            else
              let s := touchChoice s
              if !s.distributing then s
              else
              match choose s f.wire with
              | .again => attemptN n (settleDamage s)
              | .hold w => recordHold w s
              | .onto p => attemptN n (epochTest (placeNew p f (s.updDist fun d => { d with fip := fp.afterPlacement })))

/-- Damage has been found whose consequence has not been taken yet. -/
def State.damageOwed (s : State) : Bool :=
  (s.tables.groupDamaged && s.groupUp)
    || allPairs.any fun p => s.tables.pairDamaged[p.val] && decide ((s.pair p).state ≠ .off)

/-- One run of attempts; while the group is DOWN none is made and the wait reason is NONE (R80). -/
def attemptRun (s : State) : State := if s.groupUp then attemptN 400 s else s.updDist fun d => { d with wait := .none }

/-- A run of attempts, then the consequences of damage found in it and a run for the fragments they gave back, until no
damage is owed. The bound is never reached: every turn after the first sends a pair to OFF or the group DOWN. -/
def attemptSettled : Nat → State → State
  | 0, s => s
  | n + 1, s =>
    let s := attemptRun s
    if s.damageOwed then attemptSettled n (settleDamage s) else s

/-- A placement attempt (R80, R82), and the consequences of damage found in it (R12, R121). -/
def attempt (s : State) : State := attemptSettled 12 s

/-- The consequences of damage found and not yet taken (R12, R121), and the placement attempt they bring (R82). -/
def settleOwed (s : State) : State := if s.damageOwed then attempt (settleDamage s) else s

/-- A word met by a read whose damage takes effect at once (R12, R82, R121). -/
def useWord (r : TRef) (s : State) : State := settleOwed (touch r s)

/-- Word `i` of the active group record met by a read whose damage takes effect at once (R121). -/
def useGroup (i : Fin 19) (s : State) : State := useWord (.group .active i) s

/-- The distributor's work outside an attempt: it takes a frame and cuts when it can, and a new cut brings an attempt
(R76, R82). -/
def serve (s : State) : State :=
  if s.groupUp then
    let (s, cut) := cutNext s
    if cut then attempt s
    else if s.waitsForSlot && s.dist.reroute.isEmpty then s.updDist fun d => { d with wait := .slot }
    else s
  else s

/-- What ends every command: the consequences of damage found in it, the distributor's work, and the consequences of
damage found in that work (R76, R119, R121). -/
def finish (s : State) : State := settleOwed (serve (settleOwed s))

end Sys2Proof.Machine
end

