-- ==== Sys2Proof/Machine/Reassembler.lean ====
section
/-! DEFINITION. The reassembler (spec/06): arrivals (R95..R99, R102), the resync (R100), head processing and delivery
(R104..R108), gaps (R109..R112), the force-advance (R103) and the shortcut suspension (R113). -/

namespace Sys2Proof.Machine

/-! ### The window -/

/-- The window entry of a GSN. -/
def Reassembler.entry (r : Reassembler) (g : Gsn) : Option Entry := r.window.find? fun e => decide (e.gsn = g)

/-- The first GSN from `g` on without an entry. -/
def Reassembler.firstMissing (r : Reassembler) : Nat → Gsn → Gsn
  | 0, g => g
  | n + 1, g => if (r.entry g).isSome then r.firstMissing n (g + 1) else g

/-- The awaited GSN N: the first GSN at or after the head without an entry (R101). -/
def Reassembler.awaited (r : Reassembler) : Option Gsn := r.head.map (r.firstMissing (r.window.length + 1))

/-- Entries removed from the window by GSN, their blocks freed (R96). -/
def Reassembler.remove (r : Reassembler) (gs : List Gsn) : Reassembler :=
  { r with window := r.window.filter fun e => !gs.contains e.gsn }

/-- What the run from the head is (R105). -/
inductive HeadRun where
  | complete (es : List Entry)
  | broken (es : List Entry)
  | inProgress (es : List Entry)
deriving DecidableEq, Repr

/-- The unbroken run from `g`, scanned upward; `acc` holds the entries before it (R105). -/
def Reassembler.scan (r : Reassembler) : Nat → Gsn → List Entry → HeadRun
  | 0, _, acc => .inProgress acc
  | n + 1, g, acc =>
    match r.entry g with
    | none => .inProgress acc
    | some e =>
      if e.b && !acc.isEmpty then .broken acc
      else if e.e then .complete (acc ++ [e])
      else r.scan n (g + 1) (acc ++ [e])

/-- The run from a head (R105). -/
def Reassembler.runFrom (r : Reassembler) (h : Gsn) : HeadRun := r.scan (r.window.length + 1) h []

/-- The bytes of entries in GSN order. -/
def entriesBytes (es : List Entry) : List Byte := es.flatMap Entry.payload

/-- Entries taken out of the window and the head moved past them. -/
def Reassembler.take (r : Reassembler) (h : Gsn) (es : List Entry) : Reassembler :=
  { r.remove (es.map Entry.gsn) with head := some (h + BitVec.ofNat 14 es.length) }

/-! ### Delivery -/

/-- A control frame reaches the control engine: copied to the queue's tail, or discarded and counted where the queue is
full (R143). -/
def controlArrive (o : Origin) (bytes : List Byte) (s : State) : State :=
  if s.ctl.queue.length < Config.controlQueuePlaces then
    s.updCtl fun c => { c with queue := c.queue ++ [{ origin := o, bytes := bytes }] }
  else s.bump .queueOverflows

/-- A complete frame is delivered: to the control engine if it is a control frame for the part, its blocks freed, or to
the farm output queue, which keeps its blocks (R107, R108). -/
def deliver (bytes : List Byte) (blocks : Nat) (s : State) : State :=
  let s := if longEnough bytes && frameType bytes == controlType then touchGroup 0x0F (touchGroup 0x0E s) else s
  if isControlFrame s.station bytes then (controlArrive .line bytes s).bump .toControl
  else (s.updFarm fun f => { f with outQueue := f.outQueue ++ [{ bytes := bytes, blocks := blocks }] }).bump .toFarm

/-! ### Head processing (R104) -/

/-- A complete frame at the head is judged and leaves the window (R105). -/
def takeComplete (h : Gsn) (es : List Entry) (s : State) : State :=
  let bytes := entriesBytes es
  let s := s.updReas fun r => r.take h es
  if es.any Entry.void then s.bump .voidFrames
  else if 2000 < bytes.length then s.bump .tooLong
  else deliver bytes (es.map Entry.blocks).sum s

/-- One step of head processing: the first of R104's four that applies; none where it stops. -/
def headStep (s : State) : Option State :=
  match s.reas.state, s.reas.head with
  | .reassemble, some h =>
    match s.reas.entry h with
    | none => none
    | some e =>
      if s.reas.discarding then
        if e.b then some (s.updReas fun r => { r with discarding := false })
        else some (s.updReas fun r => { r.take h [e] with discarding := !e.e })
      else if !e.b then some ((s.updReas fun r => r.take h [e]).bump .orphans)
      else
        match s.reas.runFrom h with
        | .broken es => some ((s.updReas fun r => r.take h es).bump .incomplete)
        | .complete es => some (takeComplete h es s)
        | .inProgress es =>
          if 2000 < (entriesBytes es).length then
            some ((s.updReas fun r => { r.take h es with discarding := true }).bump .tooLong)
          else none
  | _, _ => none

/-- Head processing repeated until nothing applies, `n` steps at most. -/
def headLoop : Nat → State → State
  | 0, s => s
  | n + 1, s =>
    match headStep s with
    | none => s
    | some s => headLoop n s

/-- Head processing without the tests that follow it (R104). The bound is never reached: a step removes an entry or
clears the discarding flag. -/
def processHead (s : State) : State := headLoop (2 * s.reas.window.length + 2) s

/-! ### Gaps (R110) -/

/-- The causes of a gap (R109). -/
inductive GapCause where
  | hold
  | shortcut
  | forced
deriving DecidableEq, Repr

/-- The gap counter of a cause. -/
def GapCause.counter : GapCause → GroupCtr
  | .hold => .gapHold
  | .shortcut => .gapShortcut
  | .forced => .gapForced

/-- The entries from the head up to the awaited GSN: the frame in progress (R101). -/
def Reassembler.inProgress (r : Reassembler) : List Entry :=
  match r.head, r.awaited with
  | some h, some n => r.window.filter fun e => decide ((e.gsn - h).toNat < (n - h).toNat)
  | _, _ => []

/-- A gap declared at the awaited GSN (R110), head processing included, the tests after it not. -/
def declareGap (cause : GapCause) (s : State) : State :=
  match s.reas.awaited with
  | none => s
  | some n =>
    let es := s.reas.inProgress
    let s := s.updReas fun r => { r.remove (es.map Entry.gsn) with head := some (n + 1) }
    let s := if es.isEmpty then s else s.bump .incomplete
    processHead (s.bump cause.counter)

/-- The receiving pairs (R112). -/
def State.receiving (s : State) : List PairIx := allPairs.filter fun p => (s.pair p).state.running

/-- The shortcut is suspended (R113). -/
def State.suspended (s : State) : Bool :=
  match s.reas.suspension with
  | some e => decide (s.now < e)
  | none => false

/-- A receiving pair's LDG is defined and lies ahead of N by 1..8191 (R112). -/
def PairPort.past (pp : PairPort) (n : Gsn) : Bool :=
  match pp.ldg with
  | some l => gsnAhead l n
  | none => false

/-- The four conditions of the all-pairs-past shortcut (R112). -/
def State.shortcutHolds (s : State) : Bool :=
  match s.reas.state, s.reas.awaited with
  | .reassemble, some n =>
    !s.receiving.isEmpty && s.receiving.all (fun p => (s.pair p).past n)
      && s.receiving.all (fun p => decide ((s.pair p).rx ≠ .retryAsk)) && !s.suspended
  | _, _ => false

/-- The entries ahead of the awaited GSN (R111). -/
def Reassembler.ahead (r : Reassembler) : List Entry :=
  match r.awaited with
  | some n => r.window.filter fun e => decide (e.gsn ≠ n) && decide ((e.gsn - n).toNat ≤ 8191)
  | none => []

/-- The earliest of some moments. -/
def earliest : List Nat → Option Nat
  | [] => none
  | t :: ts =>
    match earliest ts with
    | none => some t
    | some u => some (min t u)

/-- The hold deadline worked out afresh (R111). -/
def setHold (s : State) : State :=
  match s.reas.state with
  | .reassemble =>
    match earliest (s.reas.ahead.map Entry.time) with
    | none => s.updReas fun r => { r with hold := none }
    | some t =>
      let s := touchGroup 0x03 s
      s.updReas fun r => { r with hold := some (t + s.holdTime) }
  | _ => s

/-- The hold deadline has been reached (R111). -/
def State.holdDue (s : State) : Bool :=
  match s.reas.state, s.reas.hold with
  | .reassemble, some t => decide (t ≤ s.now)
  | _, _ => false

/-- The tests that end head processing, repeated after each gap they declare (R104, R110): the shortcut, then the hold
deadline worked out afresh and, if it has already passed, its gap. -/
def testsN : Nat → State → State
  | 0, s => s
  | n + 1, s =>
    if s.shortcutHolds then testsN n (declareGap .shortcut s)
    else
      let s := setHold s
      if s.holdDue then testsN n (declareGap .hold s) else s

/-- More gaps than one event can declare: every gap advances the head, and no LDG and no entry lies 16384 ahead. -/
def gapBound : Nat := 16384

/-- Head processing with the tests that end it (R104). -/
def headProcess (s : State) : State :=
  let s := processHead s
  if s.reas.state = .reassemble then testsN gapBound s else s

/-- The shortcut tested at an event of R112. -/
def testShortcut (s : State) : State := if s.shortcutHolds then testsN gapBound s else s

/-- Every pair change ends so: the group evaluated (R119), the shortcut tested (R112), an attempt made (R82). The test is made at
moves that R112 does not list too, such as DOWN to TRAINING (DESIGN CHOICE, unsafe; log entry 29). -/
def pairChanged (s : State) : State := attempt (testShortcut (evaluateGroup s))

/-! ### Arrivals -/

/-- The memory tests of an arrival that is to be stored, and its storing (R97); tells whether it was stored. -/
def storeArrival (a : Entry) (s : State) : State × Bool :=
  let free := s.freeDownBlocks
  if free < a.blocks then
    (raiseEvent .memoryExhausted
      { w1 := byteFields a.pair.val a.blocks (free / 256) free, w2 := asWord a.gsn.toNat, w3 := 0 } (s.bump .memoryDiscards), false)
  else
    let s := if a.cls = 0 then touchGroup 0x0D s else s
    if a.cls = 0 ∧ free - a.blocks < s.reserve then (s.bump .reserveDiscards, false)
    else ((s.updReas fun r => { r with window := r.window ++ [a] }).bump .stored, true)

/-- An arrival in RESYNC (R99): the first one stored sets the resync deadline. -/
def arriveResync (a : Entry) (s : State) : State :=
  if (s.reas.entry a.gsn).isSome then s.bump .duplicates
  else
    let (s, ok) := storeArrival a s
    if ok && s.reas.first.isNone then
      let s := touchGroup 0x03 s
      s.updReas fun r => { r with first := some a.gsn, resync := some (a.time + s.holdTime) }
    else s

/-- One step of a force-advance (R103): the frame in progress discarded, a FORCED gap at a missing head, or head
processing. -/
def advanceStep (s : State) : State :=
  match s.reas.head with
  | none => s
  | some h =>
    match s.reas.entry h with
    | none => declareGap .forced s
    | some e =>
      match e.b, s.reas.runFrom h with
      | true, .inProgress es => processHead ((s.updReas fun r => r.take h es).bump .incomplete)
      | _, _ => processHead s

/-- A force-advance to the target `t`: steps for as long as the head is behind it (R103). -/
def advanceN : Nat → Gsn → State → State
  | 0, _, s => s
  | n + 1, t, s =>
    match s.reas.head with
    | none => s
    | some h => if gsnAhead t h then advanceN n t (advanceStep s) else s

/-- An arrival in REASSEMBLE, placed by its distance from the head (R102). After a force-advance the shortcut and the hold
deadline act again once the arrival has been tested for memory and stored or discarded, and not before (R103; DESIGN CHOICE,
unsafe; log entry 45). W is the one in use since the resync, so that the window keeps its span until the next one (R101, R115). -/
def arriveWindow (a : Entry) (s : State) : State :=
  match s.reas.head with
  | none => s
  | some h =>
    let d := (a.gsn - h).toNat
    let w := s.reas.size
    if 8192 ≤ d then s.bump .late
    else if w ≤ d then
      let s := advanceN gapBound (a.gsn - BitVec.ofNat 14 (w - 1)) (s.bump .forcedArrivals)
      headProcess (storeArrival a s).1
    else if (s.reas.entry a.gsn).isSome then s.bump .duplicates
    else
      let (s, ok) := storeArrival a s
      if ok then headProcess s else s

/-- An arrival taken whole by the reassembler (R95): RRT suspends the shortcut in any state (R113). -/
def arrive (a : Entry) (s : State) : State :=
  let s := if a.rrt then suspendShortcut s else s
  match s.reas.state with
  | .idle => s.bump .idleDiscards
  | .resync => arriveResync a s
  | .reassemble => arriveWindow a s

/-! ### Its deadlines -/

/-- How far a collected GSN lies behind the first arrival (R100). -/
def behindFirst (g1 : Gsn) (e : Entry) : Nat := (g1 - e.gsn).toNat

/-- The base of a resync: the collected GSN farthest behind the first arrival, by no more than 8191 (R100). -/
def resyncBase (g1 : Gsn) (es : List Entry) : Gsn :=
  let c := (es.map (behindFirst g1)).filter fun d => decide (d ≤ 8191)
  g1 - BitVec.ofNat 14 (c.foldl max 0)

/-- The resync deadline's effect (R100). W of the active group record is read here and nowhere else, and stays in use until the next
resync (R115; DEDUCED, unsafe; log entry 51). -/
def resyncNow (g1 : Gsn) (s : State) : State :=
  let s := touchGroup 0x01 s
  let h := resyncBase g1 s.reas.window
  let keep : Entry → Bool := fun e => decide ((e.gsn - h).toNat < s.windowSize)
  let gone := (s.reas.window.filter fun e => !keep e).length
  let s := s.updReas fun r =>
    { r with state := .reassemble, size := s.windowSize, window := r.window.filter keep, head := some h, first := none, resync := none }
  headProcess (s.bumpBy .resyncDiscards gone)

/-- The resync deadline has passed (R100). -/
def State.resyncDue (s : State) : Option Gsn :=
  match s.reas.state, s.reas.resync, s.reas.first with
  | .resync, some t, some g => if t ≤ s.now then some g else none
  | _, _, _ => none

/-- The suspension end has passed (R113). -/
def State.suspensionDue (s : State) : Bool :=
  match s.reas.suspension with
  | some e => decide (e ≤ s.now)
  | none => false

/-! ### The commands -/

/-- HOLD_DEADLINE (R111). -/
def execHoldDeadline (t : Nat) (s : State) : Host.Outcome State Fault Refusal :=
  let s := s.atTime t
  if s.holdDue then .next (finish (testsN gapBound (declareGap .hold s))) else .next (finish s)

/-- RESYNC_DEADLINE (R100). -/
def execResyncDeadline (t : Nat) (s : State) : Host.Outcome State Fault Refusal :=
  let s := s.atTime t
  match s.resyncDue with
  | some g => .next (finish (resyncNow g s))
  | none => .next (finish s)

/-- SUSPENSION_END (R113). -/
def execSuspensionEnd (t : Nat) (s : State) : Host.Outcome State Fault Refusal :=
  let s := s.atTime t
  if s.suspensionDue then .next (finish (testShortcut (s.updReas fun r => { r with suspension := none }))) else .next (finish s)

end Sys2Proof.Machine
end

