-- ==== Sys2Proof/Machine/BurstGuard.lean ====
section
/-! DEFINITION. The burst guard (spec/03): burst starts (R44), learning and locking (R46, R47), windows (R48..R50) and
the excuse of a predicted bad check in PROBATION (R52). -/

namespace Sys2Proof.Machine

/-- A bad check at `now` begins a burst: none before it, or the last more than 20,000 µs earlier (R44). -/
def Guard.isBurstStart (g : Guard) (now : Nat) : Bool :=
  match g.lastBad with
  | none => true
  | some b => decide (b + 20000 < now)

/-- The period and confidence after an interval `i` (R46). -/
def Guard.learnInterval (g : Guard) (i : Nat) : Nat × Nat :=
  if i < 200 ∨ 5000 < i then (0, 0)
  else if g.period = 0 then (i, 0)
  else if (i - g.period) + (g.period - i) ≤ g.period / 16 then ((3 * g.period + i) / 4, min 7 (g.confidence + 1))
  else (i, 0)

/-- A burst start at `t` ms taken by an unlocked guard (R46). -/
def Guard.learn (g : Guard) (t : Nat) : Guard :=
  match g.lastStart with
  | none => { g with lastStart := some t }
  | some l =>
    let (p, c) := g.learnInterval (t - l)
    { g with lastStart := some t, period := p, confidence := c }

/-- An unlocked guard locks at a burst start (R47). -/
def Guard.lock (g : Guard) (t : Nat) : Guard := { g with locked := true, nextStart := some (t + g.period), window := none }

/-- A locked guard unlocks: the next predicted start becomes undefined, the last burst start and P are kept (R50). -/
def Guard.unlock (g : Guard) : Guard := { g with locked := false, nextStart := none, window := none }

/-- The window is open at `now`, up to and including its end (R48). -/
def Guard.openAt (g : Guard) (now : Nat) : Bool :=
  match g.window with
  | some w => decide (now ≤ w.endMs * 1000)
  | none => false

/-- A burst start accepted in a window whose met flag is clear (R49). -/
def Guard.accept (g : Guard) (t : Nat) : Guard :=
  { g with lastStart := some t, confidence := min 7 (g.confidence + 1), nextStart := some (t + g.period)
           window := g.window.map fun w => { w with met := true } }

/-- The met flag of the open window. -/
def Guard.metNow (g : Guard) : Bool :=
  match g.window with
  | some w => w.met
  | none => false

/-- A burst start taken by a locked guard: in-window, repeat or stray (R49). -/
def judgeBurst (p : PairIx) (t : Nat) (s : State) : State :=
  let g := (s.pair p).guard
  if g.openAt s.now then
    if g.metNow then s else s.updPair p fun pp => { pp with guard := g.accept t }
  else s.updPair p fun pp => pp.bump .strays

/-- A burst start taken by an unlocked guard (R46), which locks if its confidence reaches the threshold (R47). -/
def learnBurst (p : PairIx) (t : Nat) (s : State) : State :=
  let g := (s.pair p).guard.learn t
  let s := useGroup 0x08 (s.updPair p fun pp => { pp with guard := g })
  if s.guardThreshold ≤ g.confidence then
    let s := s.updPair p fun pp => { pp with guard := g.lock t }
    raiseEvent .guardLocked (detail2 (byteFields p.val 0 (g.period / 256) g.period) (asWord (t + g.period))) s
  else s

/-- A bad check taken by the pair's burst guard (R44). -/
def guardBadCheck (p : PairIx) (s : State) : State :=
  let g := (s.pair p).guard
  let s' := s.updPair p fun pp => { pp with guard := { g with lastBad := some s.now } }
  if g.isBurstStart s.now then
    let s' := s'.updPair p fun pp => pp.bump .bursts
    if g.locked then judgeBurst p (s.now / 1000) s' else learnBurst p (s.now / 1000) s'
  else s'

/-- A bad check outside every open window of a locked guard moves the probation start, in PROBATION (R9, R52). One that
continues a stray burst but falls inside a window opened since that burst began is excused (DESIGN CHOICE, unsafe; log entry
44). -/
def probationBadCheck (p : PairIx) (s : State) : State :=
  let pp := s.pair p
  if pp.state = .probation ∧ ¬(pp.guard.locked ∧ pp.guard.openAt s.now) then
    s.updPair p fun pp => { pp with probStart := s.now }
  else s

/-- A window opens: its end is fixed and its met flag clear (R48). -/
def openWindow (p : PairIx) (n : Nat) (s : State) : State :=
  s.updPair p fun pp =>
    { pp with guard := { pp.guard with window := some { endMs := n + s.guardWidth, met := false } } }

/-- The next predicted start of a locked guard without a window (R48). -/
def Guard.awaitsWindow (g : Guard) : Option Nat := if g.locked && g.window.isNone then g.nextStart else none

/-- The opening moment has been reached: next predicted start less the lead (R48). -/
def State.windowOpens (s : State) (p : PairIx) : Option Nat :=
  match (s.pair p).guard.awaitsWindow with
  | some n => if n * 1000 ≤ s.now + s.guardLead * 1000 then some n else none
  | none => none

/-- The end of the pair's open window has been reached (R50). -/
def State.windowEnds (s : State) (p : PairIx) : Option GuardWindow :=
  match (s.pair p).guard.window with
  | some w => if w.endMs * 1000 ≤ s.now then some w else none
  | none => none

/-- A window closes as a miss: confidence less 1, the next predicted start one period on (R50). -/
def Guard.miss (g : Guard) : Guard :=
  { g with window := none, confidence := g.confidence - 1, nextStart := g.nextStart.map (· + g.period) }

/-- A window closes, as met or as a miss, which may unlock the guard (R50). -/
def closeWindow (p : PairIx) (w : GuardWindow) (s : State) : State :=
  if w.met then s.updPair p fun pp => { pp with guard := { pp.guard with window := none } }
  else
    let s := useGroup 0x08 (s.updPair p fun pp => { pp with guard := pp.guard.miss })
    if (s.pair p).guard.confidence < s.guardThreshold then s.updPair p fun pp => { pp with guard := pp.guard.unlock } else s

/-- A commit's effect on a pair's guard: a locked one whose confidence is below the threshold unlocks (R53). -/
def guardAfterCommit (s : State) (p : PairIx) : State :=
  if (s.pair p).guard.locked ∧ (s.pair p).guard.confidence < s.guardThreshold then
    s.updPair p fun pp => { pp with guard := pp.guard.unlock }
  else s

/-- GUARD_WINDOW_OPEN (R48): the opening is an input to the distributor (R82). -/
def execGuardWindowOpen (t : Nat) (p : PairIx) (s : State) : Host.Outcome State Fault Refusal :=
  let s := s.atTime t
  let s := if (s.pair p).guard.awaitsWindow.isSome then useGroup 0x08 s else s
  match s.windowOpens p with
  | some n => .next (finish (attempt (openWindow p n s)))
  | none => .next (finish s)

/-- GUARD_WINDOW_END (R50): the closing is an input to the distributor (R82). -/
def execGuardWindowEnd (t : Nat) (p : PairIx) (s : State) : Host.Outcome State Fault Refusal :=
  let s := s.atTime t
  match s.windowEnds p with
  | some w => .next (finish (attempt (closeWindow p w s)))
  | none => .next (finish s)

end Sys2Proof.Machine
end

