-- ==== Sys2Proof/Machine/PairPort.lean ====
section
/-! DEFINITION. The pair state machine (spec/01): transceiver reports, the conditions for ACTIVE (R9), the drain limit
(R13), latency samples (R18, R19) and the pair restart (R20). -/

namespace Sys2Proof.Machine

/-- A reported rate clamped to 64..100,000 kbit/s (R3). -/
def clampRate (v : Nat) : Nat := clampTo 64 100000 v

/-- The four conditions of R9, with the active record's words as they read. -/
def State.mayActivate (s : State) (p : PairIx) : Bool :=
  let pp := s.pair p
  decide (pp.state = .probation) && decide (pp.probStart + s.probationTime ≤ s.now) && decide (4 ≤ pp.samples)
    && decide (s.minRate ≤ pp.upRate) && !pp.bar

/-- The conditions for ACTIVE examined (R9), the probation time read before the minimum usable rate (DESIGN CHOICE, unsafe;
log entry 61). -/
def examine (p : PairIx) (s : State) : State :=
  if (s.pair p).state = .probation then
    let s := useGroup 0x06 (useGroup 0x05 s)
    if s.mayActivate p then pairChanged (toActive p s) else s
  else s

/-- A pair goes to DOWN and everything a pair change brings follows (R11). -/
def lose (p : PairIx) (cause : Cause) (s : State) : State := pairChanged (toDown p cause s)

/-- An UP taken in DOWN or TRAINING: PROBATION with the clamped rates, hand-offs timed from now (R7, R8, R41). -/
def enterService (p : PairIx) (u d : Nat) (s : State) : State :=
  pairChanged (s.updPair p fun pp =>
    { (pp.enterProbation s.now) with upRate := clampRate u, downRate := clampRate d, lastHandoff := s.now })

/-- An ACTIVE pair below the minimum usable rate: PROBATION, LOW_RATE, its transmit queue to the reroute list (R10). -/
def lowRate (p : PairIx) (s : State) : State :=
  let q := (s.pair p).txq
  let s := s.updPair p fun pp => { (pp.enterProbation s.now) with cause := .lowRate, txq := [] }
  pairChanged (q.foldl joinReroute s)

/-- A RATE report, or an UP taken as one, in PROBATION, ACTIVE or DRAINING (R3, R9, R10). A change of the recorded
upstream rate brings a placement attempt (R82). The attempt is made before the conditions for ACTIVE are examined (DESIGN CHOICE,
unsafe; log entry 48). An ACTIVE pair below the minimum enters PROBATION first, with no attempt before that move (DESIGN CHOICE,
unsafe; log entry 57). -/
def takeRate (p : PairIx) (u d : Nat) (s : State) : State :=
  let old := (s.pair p).upRate
  let s := s.updPair p fun pp => { pp with upRate := clampRate u, downRate := clampRate d }
  let s := if (s.pair p).state = .active then useGroup 0x06 s else s
  if (s.pair p).state = .active ∧ (s.pair p).upRate < s.minRate then lowRate p s
  else examine p (if clampRate u = old then s else attempt s)

/-! ### Latency -/

/-- A latency sample, µs: half the round trip since STAMP, clamped to 0..20,000 (R18). -/
def latencySample (now : Nat) (stamp : BitVec 16) : Nat :=
  min 20000 ((BitVec.ofNat 16 (now / 10) - stamp).toNat * 10 / 2)

/-- M after a sample (R18): the first sample since PROBATION sets it, a later one moves it an eighth of the way, the
division truncated toward zero. -/
def nextLatency (count m sample : Nat) : Nat :=
  if count = 1 then sample else ((m : Int) + ((sample : Int) - (m : Int)).tdiv 8).toNat

/-- A pair record after a sample (R18). -/
def PairPort.sample (pp : PairPort) (x : Nat) : PairPort :=
  let n := min 255 (pp.samples + 1)
  { pp with samples := n, latency := nextLatency n pp.latency x, sampled := true }

/-- A good ECHO: M updated, in AUTO mode written into the active E, the conditions of R9 examined (R18, R19). Where E changes, the
attempt it brings (R82) is made before that examination (DESIGN CHOICE, unsafe; log entry 48). -/
def takeEcho (p : PairIx) (stamp : BitVec 16) (s : State) : State :=
  let s := s.updPair p fun pp => pp.sample (latencySample s.now stamp)
  let s := useWord (.pair .active p 0) s
  let old := s.offsetE p
  let s :=
    if s.autoE p && !s.tables.pairDamaged[p.val] then
      s.updTables fun t => t.store (.pair .active p 1) (asWord (s.pair p).latency)
    else s
  examine p (if s.offsetE p = old then s else attempt s)

/-! ### Restart -/

/-- A pair restart (R20): nothing in OFF, DOWN with cause RESTART otherwise. -/
def restartPair (p : PairIx) (s : State) : State := if (s.pair p).state = .off then s else lose p .restart s

/-! ### The commands -/

/-- TRAIN_START (R7, R3). -/
def execTrainStart (t : Nat) (p : PairIx) (s : State) : Host.Outcome State Fault Refusal :=
  let s := s.atTime t
  match (s.pair p).state with
  | .off => .next (finish s)
  | .training => .next (finish s)
  | .down => .next (finish (pairChanged (setPairState p .training s)))
  | _ => .next (finish (lose p .lineLost s))

/-- UP (R7, R3). -/
def execUp (t : Nat) (p : PairIx) (u d : Nat) (s : State) : Host.Outcome State Fault Refusal :=
  let s := s.atTime t
  match (s.pair p).state with
  | .off => .next (finish s)
  | .down => .next (finish (enterService p u d s))
  | .training => .next (finish (enterService p u d s))
  | _ => .next (finish (takeRate p u d s))

/-- RATE (R10, R3). -/
def execRate (t : Nat) (p : PairIx) (u d : Nat) (s : State) : Host.Outcome State Fault Refusal :=
  let s := s.atTime t
  if (s.pair p).state.running then .next (finish (takeRate p u d s)) else .next (finish s)

/-- DOWN (R11, R3). -/
def execDown (t : Nat) (p : PairIx) (s : State) : Host.Outcome State Fault Refusal :=
  let s := s.atTime t
  match (s.pair p).state with
  | .off => .next (finish s)
  | .down => .next (finish s)
  | _ => .next (finish (lose p .lineLost s))

/-- PROBATION_TIME_EXPIRY (R9). -/
def execProbationTimeExpiry (t : Nat) (p : PairIx) (s : State) : Host.Outcome State Fault Refusal :=
  .next (finish (examine p (s.atTime t)))

/-- The drain deadline has passed (R13). -/
def State.drainDue (s : State) (p : PairIx) : Bool :=
  match (s.pair p).state, (s.pair p).drain with
  | .draining, some d => decide (d.deadline ≤ s.now)
  | _, _ => false

/-- DRAIN_LIMIT (R13). -/
def execDrainLimit (t : Nat) (p : PairIx) (s : State) : Host.Outcome State Fault Refusal :=
  let s := s.atTime t
  if s.drainDue p then .next (finish (pairChanged (toOff p .drainLimit s))) else .next (finish s)

end Sys2Proof.Machine
end

