-- ==== Sys2Proof/Machine/PairLink.lean ====
section
/-! DEFINITION. The pair link protocol (spec/02): the hand-off of a READY (R27..R29, R33..R36), the taking of a received
fragment (R25, R26, R30, R31, R37..R40), the silence limit (R42) and the replay timeout (R32). -/

namespace Sys2Proof.Machine

/-! ### The sender -/

/-- What a READY hands out (R27). -/
inductive Pick where
  | echo (stamp : BitVec 16)
  | probe
  | replay (e : RetryEntry)
  | queue (f : Frag)
  | filler
  | nothing
deriving DecidableEq, Repr

/-- A FILLER is due: an acknowledgement owed, RETRY_ASK, or 50 ms since the last hand-off (R27). -/
def PairPort.fillerDue (pp : PairPort) (now : Nat) : Bool :=
  pp.owedAck || decide (pp.rx = .retryAsk) || decide (pp.lastHandoff + 50000 ≤ now)

/-- The fragment a READY chooses: the first of R27's five that applies. -/
def PairPort.pick (pp : PairPort) (now : Nat) : Pick :=
  match pp.echo with
  | some st => .echo st
  | none =>
    if pp.probeDue ≤ now then .probe
    else
      match pp.toReplay with
      | e :: _ => .replay e
      | [] =>
        match pp.txq with
        | f :: _ => .queue f
        | [] => if pp.fillerDue now then .filler else .nothing

/-- The words a hand-off reads: the retry limit for DATA, and the GID unless the replay is exhausted (R28, R29, R34). Where such
a read finds its word uncorrectable, the group's fall and its discards come before the hand-off (R121, R122; that order is a
DESIGN CHOICE, unsafe; log entry 42). The retry limit is read before the GID (DESIGN CHOICE, unsafe; log entry 61). -/
def touchHandOff (p : PairIx) (s : State) : State :=
  match (s.pair p).pick s.now with
  | .nothing => s
  | .replay e =>
    let s := useGroup 0x04 s
    if e.count < s.retryLimit then useGroup 0x00 s else s
  | .queue _ => useGroup 0x00 (useGroup 0x04 s)
  | _ => useGroup 0x00 s

/-- The fields of a fragment without payload (R23). -/
def plainFields (kind : FragKind) (num : Nat) : FragFields :=
  { kind := kind, b := false, e := false, cls := 0, rrt := false, rrq := false, num := num, txn := 0, ackn := 0, len := 0
    gid := 0, payload := [] }

/-- The fields of a DATA fragment sent as `txn` (R23, R35). -/
def dataFields (f : Frag) (txn : Txn) : FragFields :=
  { kind := .data, b := f.b, e := f.e, cls := f.cls.val, rrt := f.rrt, rrq := false, num := (f.gsn.getD 0).toNat * 4
    txn := txn, ackn := 0, len := f.payload.length, gid := 0, payload := f.payload }

/-- ACKN, RRQ and GID written at the moment of hand-off (R28). -/
def freshFields (f : FragFields) (pp : PairPort) (gid : Nat) : FragFields :=
  { f with ackn := pp.rxn - 1, rrq := decide (pp.rx = .retryAsk), gid := gid }

/-- One fragment handed to the transceiver (R28). -/
def PairPort.handOff (pp : PairPort) (f : FragFields) (void : Bool) (gid now : Nat) : PairPort :=
  let pp' := (pp.command (.send ((freshFields f pp gid).bytes void))).bump .handed
  let pp' := if f.kind = .data then pp'.bump .dataHanded else pp'
  { pp' with owedAck := false, lastHandoff := now }

/-- The probe period: 100 ms in PROBATION, 1 s in ACTIVE and DRAINING (R16). -/
def PairPort.probePeriod (pp : PairPort) : Nat := if pp.state = .probation then 100000 else 1000000

/-- A PROBE handed out: its STAMP is the local time in 10 µs units modulo 65536 (R16). -/
def PairPort.handProbe (pp : PairPort) (gid now : Nat) : PairPort :=
  { (pp.handOff (plainFields .probe (now / 10 % 65536)) false gid now) with
    probeDue := now + pp.probePeriod, lastProbe := some now }

/-- The store after the entry at the cursor is re-sent (R33). -/
def markResent (now : Nat) (txn : Txn) (store : List RetryEntry) : List RetryEntry :=
  store.map fun e => if e.txn = txn then { e with count := e.count + 1, lastSent := now } else e

/-- A replay after its cursor's entry is re-sent: on to the next newer entry, or ended (R33). -/
def PairPort.advanceReplay (pp : PairPort) : Option Replay :=
  match pp.replay, pp.toReplay with
  | some r, _ :: e :: _ => some { r with cursor := e.txn }
  | _, _ => none

/-- A retry store entry re-sent (R33, R35). -/
def PairPort.handReplay (pp : PairPort) (e : RetryEntry) (gid now : Nat) : PairPort :=
  { ((pp.handOff (dataFields e.frag e.txn) e.frag.void gid now).bump .replays) with
    store := markResent now e.txn pp.store, replay := pp.advanceReplay }

/-- The head of the transmit queue handed out: it takes the next TXN and, with retry on, enters the retry store (R29);
with retry off it and every held entry are released (R36). -/
def PairPort.handQueue (pp : PairPort) (f : Frag) (limit gid now : Nat) : PairPort :=
  let pp' := pp.handOff (dataFields f pp.nextTxn) f.void gid now
  let pp' := { pp' with nextTxn := pp.nextTxn + 1, txq := pp.txq.tail }
  if limit = 0 then { pp' with store := [], replay := none }
  else { pp' with store := pp.store ++ [{ frag := { f with resp := none }, txn := pp.nextTxn, count := 0, lastSent := now }] }

/-- A hand-off's consequences: a drain that has emptied ends (R13), and a placement attempt follows (R82). -/
def afterStores (p : PairIx) (s : State) : State :=
  if (s.pair p).state = .draining ∧ (s.pair p).isEmpty then pairChanged (drained p s) else attempt s

/-- A replay exhausted at its cursor (R34). -/
def exhausted (p : PairIx) (txn : Txn) (s : State) : State :=
  pairChanged (raiseEvent .retryExhausted (detail1 (byteFields p.val txn.toNat 0 0)) (toDown p .retryExhausted s))

/-- The hand-off of a READY on a running pair, its words met (R27). -/
def handOut (p : PairIx) (s : State) : State :=
  let g := s.gid
  match (s.pair p).pick s.now with
  | .nothing => s
  | .echo st =>
    attempt (s.updPair p fun pp => { (pp.handOff (plainFields .echo st.toNat) false g s.now) with echo := none })
  | .probe => attempt (s.updPair p fun pp => pp.handProbe g s.now)
  | .replay e =>
    if s.retryLimit ≤ e.count then exhausted p e.txn s else attempt (s.updPair p fun pp => pp.handReplay e g s.now)
  | .queue f =>
    let l := s.retryLimit
    afterStores p (fragmentGone f (s.updPair p fun pp => pp.handQueue f l g s.now))
  | .filler => attempt (s.updPair p fun pp => pp.handOff (plainFields .filler 0) false g s.now)

/-- READY (R27, R4). The choice is made on the state after the reads of `touchHandOff` and what damage they found has brought
(DESIGN CHOICE, unsafe; log entry 42). -/
def execReady (t : Nat) (p : PairIx) (s : State) : Host.Outcome State Fault Refusal :=
  let s := s.atTime t
  if (s.pair p).state.running then
    let s := touchHandOff p s
    if (s.pair p).state.running then .next (finish (handOut p s)) else .next (finish s)
  else .next (finish s)

/-! ### Acknowledgement and replay -/

/-- The number of entries an ACKN removes: those up to it where it lies within the span of the store (R30). -/
def PairPort.ackCount (pp : PairPort) (a : Txn) : Nat :=
  match pp.store.head?, pp.store.getLast? with
  | some o, some n => if (a - o.txn).toNat ≤ (n.txn - o.txn).toNat then (a - o.txn).toNat + 1 else 0
  | _, _ => 0

/-- A replay after entries have left at the oldest end (R33). -/
def replayAfter (r : Option Replay) (store : List RetryEntry) : Option Replay :=
  match r, store with
  | some r, o :: _ => if store.any fun e => decide (e.txn = r.cursor) then some r else some { r with cursor := o.txn }
  | _, _ => none

/-- The pair port after an acknowledgement (R30, R33). -/
def PairPort.acked (pp : PairPort) (n : Nat) : PairPort :=
  { pp with store := pp.store.drop n, replay := replayAfter pp.replay (pp.store.drop n) }

/-- A received ACKN applied (R30). -/
def applyAck (p : PairIx) (a : Txn) (s : State) : State :=
  let n := (s.pair p).ackCount a
  if n = 0 then s else afterStores p (s.updPair p fun pp => pp.acked n)

/-- A received ACKN other than the rewind mark clears it (R37). -/
def PairPort.clearMark (pp : PairPort) (a : Txn) : PairPort :=
  if pp.rewindMark = some a then pp else { pp with rewindMark := none }

/-- The three conditions of a rewind (R37). -/
def PairPort.mayRewind (pp : PairPort) (a : Txn) : Bool :=
  pp.store.isEmpty && txnAhead pp.nextTxn (a + 1) && decide (pp.rewindMark ≠ some a)

/-- A replay begins at the entry after `a` unless one with that base runs (R31). -/
def PairPort.startsReplay (pp : PairPort) (a : Txn) : Bool :=
  match pp.replay with
  | some r => decide (r.base ≠ a)
  | none => true

/-- A received replay request applied (R31, R37). -/
def applyRequest (p : PairIx) (a : Txn) (s : State) : State :=
  let pp := s.pair p
  if pp.store.any fun e => decide (e.txn = a + 1) then
    if pp.startsReplay a then attempt (s.updPair p fun pp => { pp with replay := some { cursor := a + 1, base := a } }) else s
  else if pp.mayRewind a then s.updPair p fun pp => { pp with nextTxn := a + 1, rewindMark := some a }
  else s

/-! ### The receiver -/

/-- An IN_STEP receiver enters RETRY_ASK, counted (R40). -/
def PairPort.ask (pp : PairPort) : PairPort :=
  match pp.rx with
  | .inStep => { (pp.bump .retryAsk) with rx := .retryAsk }
  | .retryAsk => pp

/-- A DATA fragment accepted in step (R38). -/
def PairPort.accept (pp : PairPort) (f : FragFields) : PairPort :=
  { pp with rxn := pp.rxn + 1, owedAck := true, rx := .inStep, ldg := if f.rrt then pp.ldg else some f.gsn }

/-- The arrival handed to the reassembler (R38, R95). -/
def arrivalOf (p : PairIx) (f : FragFields) (void : Bool) (now : Nat) : Entry :=
  { gsn := f.gsn, b := f.b, e := f.e, cls := finOf 4 f.cls, void := void, rrt := f.rrt, payload := f.payload, pair := p, time := now }

/-- A good or void DATA fragment reaches the receiver (R38, R39). A change of LDG or of the receive state has the
shortcut tested (R112). -/
def takeData (p : PairIx) (f : FragFields) (void : Bool) (s : State) : State :=
  let pp := s.pair p
  if f.txn = pp.rxn then
    testShortcut (arrive (arrivalOf p f void s.now) (s.updPair p fun pp => pp.accept f))
  else if txnBehind f.txn pp.rxn then
    s.updPair p fun pp => { (if void then pp else pp.bump .duplicates) with owedAck := true }
  else s.updPair p PairPort.ask

/-- A fragment acted on by kind (R26 step 5). -/
def byKind (p : PairIx) (f : FragFields) (void : Bool) (s : State) : State :=
  match f.kind with
  | .data => takeData p f void s
  | .filler => s
  | .probe => s.updPair p fun pp => { pp with echo := some f.stamp }
  | .echo => takeEcho p f.stamp s

/-- A step of R26 taken only while the pair is still running: an acknowledgement may have ended a drain (DEDUCED, unsafe; log entry 9). -/
def whileRunning (p : PairIx) (f : State → State) (s : State) : State := if (s.pair p).state.running then f s else s

/-- A good or void fragment that passed the group identity check: R26 steps 1 to 5, in order. -/
def takeFragment (p : PairIx) (f : FragFields) (void : Bool) (s : State) : State :=
  let s := s.updPair p fun pp =>
    ({ pp.bump (if void then .void else .good) with lastHeard := s.now }).clearMark f.ackn
  let s := applyAck p f.ackn s
  let s := if f.rrq then whileRunning p (applyRequest p f.ackn) s else s
  whileRunning p (byKind p f void) s

/-- A bad fragment (R26, R40): counted, taken by the burst guard and the probation timing, and by the receiver. -/
def takeBad (p : PairIx) (s : State) : State :=
  let s := guardBadCheck p (s.updPair p fun pp => pp.bump .bad)
  let s := probationBadCheck p s
  whileRunning p (fun s => s.updPair p PairPort.ask) s

/-- A group identity mismatch (R15). -/
def mismatch (p : PairIx) (got : Nat) (s : State) : State :=
  if (s.pair p).state = .probation then s.updPair p fun pp => { pp with bar := true }
  else
    let want := s.gid
    pairChanged (raiseEvent .miswired (detail1 (byteFields p.val got want 0)) (toDown p .miswired s))

/-- A fragment received on a running pair (R25, R26). -/
def receive (p : PairIx) (bytes : List Byte) (s : State) : State :=
  match classify bytes with
  | .bad => takeBad p s
  | c =>
    let f := FragFields.parse bytes
    let s := useGroup 0x00 s
    whileRunning p (fun s => if f.gid = s.gid then takeFragment p f (decide (c = .void)) s else mismatch p f.gid s) s

/-- RECEIVED (R26, R3). -/
def execReceived (t : Nat) (p : PairIx) (bytes : List Byte) (s : State) : Host.Outcome State Fault Refusal :=
  let s := s.atTime t
  if (s.pair p).state.running then .next (finish (receive p bytes s)) else .next (finish s)

/-! ### Its deadlines -/

/-- The silence deadline has passed (R42). -/
def State.silenceDue (s : State) (p : PairIx) : Bool :=
  (s.pair p).state.running && decide ((s.pair p).lastHeard + s.silenceLimit ≤ s.now)

/-- SILENCE (R42). -/
def execSilence (t : Nat) (p : PairIx) (s : State) : Host.Outcome State Fault Refusal :=
  let s := s.atTime t
  let s := if (s.pair p).state.running then useGroup 0x05 s else s
  if s.silenceDue p then .next (finish (lose p .silence s)) else .next (finish s)

/-- The oldest entry of a retry store with no replay in progress. -/
def PairPort.waiting (pp : PairPort) : Option RetryEntry := if pp.replay.isNone then pp.store.head? else none

/-- The oldest entry was last sent more than the replay timeout ago, with no replay in progress (R32). -/
def State.replayDue (s : State) (p : PairIx) : Option Txn :=
  match (s.pair p).waiting with
  | some e => if e.lastSent + s.replayTimeout < s.now then some e.txn else none
  | none => none

/-- REPLAY_TIMEOUT (R32). -/
def execReplayTimeout (t : Nat) (p : PairIx) (s : State) : Host.Outcome State Fault Refusal :=
  let s := s.atTime t
  let s := if (s.pair p).waiting.isSome then useGroup 0x04 s else s
  match s.replayDue p with
  | some x => .next (finish (attempt (s.updPair p fun pp => { pp with replay := some { cursor := x, base := x - 1 } })))
  | none => .next (finish s)

end Sys2Proof.Machine
end

