-- ==== Sys2Proof/Machine/Farm.lean ====
section
/-! DEFINITION. The farm port and the classifier (spec/04): reception (R55, R56), pause (R57), control frames (R58),
transmission (R59), classification (R60, R61), admission to class queues (R63, R64) and the failure of a cut-through
frame (R69). -/

namespace Sys2Proof.Machine

/-! ### Classification -/

/-- The MATCH codes of a class entry (spec/11). -/
def matchAny : Nat := 0
def matchPriority : Nat := 1
def matchType : Nat := 2

/-- A class entry's VALUE, 48 bits. -/
def clsValue (w0 w1 : Word) : Nat := addressOf (fieldAt w0 0 16) w1.toNat

/-- A class entry matches a frame of which 18 bytes have arrived (R61). -/
def clsMatches (w0 w1 : Word) (bs : List Byte) : Bool :=
  let v := clsValue w0 w1
  let m := fieldAt w0 24 2
  if m = matchAny then true
  else if m = matchPriority then tagged bs && decide (vlanPriority bs = v % 8)
  else if m = matchType then decide (frameType bs = v % 65536)
  else decide (destOf bs = v)

/-- The result of a lookup. -/
inductive Lookup where
  | discard
  | forward (c : ClassIx)
deriving DecidableEq, Repr

/-- The lookup from the entries listed, each read through the error correction; an entry marked damaged, or found so, is
passed over, and the default class stands at the end (R61). Both words of each entry tried are read, the lower first (DESIGN CHOICE,
unsafe; log entries 60 and 61). -/
def lookupIn (bs : List Byte) : List (Fin 64) → State → State × Lookup
  | [], s =>
    let s := touchGroup 0x02 s
    (s, .forward s.defaultClass)
  | i :: rest, s =>
    if s.tables.clsDamaged[i.val] then lookupIn bs rest s
    else
      let s := touch (.cls .active i 1) (touch (.cls .active i 0) s)
      let w0 := (s.tables.get (.cls .active i 0)).val
      let w1 := (s.tables.get (.cls .active i 1)).val
      if !s.tables.clsDamaged[i.val] && bitAt w0 31 && clsMatches w0 w1 bs then
        (s, if bitAt w0 20 then .discard else .forward (finOf 4 (fieldAt w0 16 2)))
      else lookupIn bs rest s

/-- All class entries, in index order. -/
def allEntries : List (Fin 64) := (List.range 64).map (finOf 64)

/-! ### Class queues -/

/-- The class queue without the frame still arriving. -/
def withoutArriving (q : List QFrame) : List QFrame := q.filter QFrame.ended

/-- The bytes stored and not yet cut of the frame still arriving. -/
def arrivingUncut (q : List QFrame) : List Byte :=
  match q.find? fun f => !f.ended with
  | some f => f.uncut
  | none => []

/-- The frame still arriving changed by `f`. -/
def mapArriving (f : QFrame → QFrame) : List QFrame → List QFrame
  | [] => []
  | x :: rest => if x.ended then x :: mapArriving f rest else f x :: rest

/-- The frame still arriving in class `c` is the distributor's frame in progress. -/
def State.arrivingTaken (s : State) (c : ClassIx) : Option Fip :=
  match s.dist.fip, (s.queue c).head? with
  | some f, some q => if f.cls = c ∧ !f.finalCut ∧ f.voidTail.isNone ∧ !q.ended then some f else none
  | _, _ => none

/-- A frame that fails while it arrives (R64, R69). Where the distributor holds it and a fragment has been placed, a void
final fragment of up to F bytes of `tail` is due, and the record stays with its blocks until that fragment is cut (R66, R70,
R76). Otherwise it leaves its queue, and the frame is dropped whole where the distributor holds it: the slot of a pending
fragment is then freed (R77), which brings a placement attempt (R82). A drop that frees no slot brings none, and a recorded wait
reason SLOT then stands until the next attempt though its cut is no longer due (R80, R81; DESIGN CHOICE, unsafe; log entry 49). -/
def failArriving (c : ClassIx) (tail : List Byte) (s : State) : State :=
  match s.arrivingTaken c with
  | none => s.setQueue c (withoutArriving (s.queue c))
  | some f =>
    if f.placedAny then
      (s.setQueue c (mapArriving (fun q => { q with ended := true, failed := true }) (s.queue c))).updDist fun d =>
        { d with fip := some { f with voidTail := some (tail.take f.size) } }
    else
      let s := epochTest ((s.setQueue c (withoutArriving (s.queue c))).updDist fun d => { d with fip := none })
      if f.pendingFrag.isSome then attempt s else s

/-- A stored byte has room: the blocks already held have some, or a block can be taken (R63). -/
def roomForByte (s : State) (c : ClassIx) (stored : Nat) : Bool :=
  decide (stored % Config.blockBytes ≠ 0)
    || (decide (s.classBytes c + Config.blockBytes ≤ s.byteLimit c) && decide (0 < s.freeQueueBlocks))

/-- The bytes the arriving frame of a class has stored. -/
def arrivingStored (q : List QFrame) : Nat :=
  match q.find? fun f => !f.ended with
  | some f => f.stored
  | none => 0

/-- What becomes of the frame being received set. -/
def setRxKind (k : RxKind) (s : State) : State :=
  s.updFarm fun f => { f with rx := f.rx.map fun r => { r with kind := k, held := [] } }

/-- One byte stored into class `c`'s arriving frame, or the frame dropped for want of a block (R63). `check` is the check
buffer behind it. Where the read of the class word finds it uncorrectable, the byte is still stored or the frame dropped by
QUEUE_FULL before the group falls (DESIGN CHOICE, unsafe; log entry 43). -/
def storeByte (c : ClassIx) (check : List Byte) (s : State) (b : Byte) : State :=
  match s.farm.rx with
  | some r =>
    if r.kind = .upstream c then
      let n := arrivingStored (s.queue c)
      let s := if n % Config.blockBytes = 0 then touchGroup (classWord c) s else s
      if roomForByte s c n then s.setQueue c (mapArriving (fun f => { f with uncut := f.uncut ++ [b] }) (s.queue c))
      else
        failArriving c (arrivingUncut (s.queue c) ++ [b] ++ check) (setRxKind (.dropped .lack) (s.bump (.queueFull c)))
    else s
  | none => s

/-- A frame for classification, at its 18th byte `bs` (R60). Where the lookup's reads find a word of the group record
uncorrectable, the frame is still classified, counted and admitted with the group UP before the group falls (DESIGN CHOICE,
unsafe; log entry 43). -/
def classifyFrame (bs held check : List Byte) (s : State) : State :=
  if !s.groupUp then setRxKind (.dropped .lack) (s.bump .groupDownDrops)
  else
    match lookupIn bs allEntries s with
    | (s, .discard) => setRxKind (.dropped .table) (s.bump .tableDiscards)
    | (s, .forward c) =>
      let s := setRxKind (.upstream c) (s.setQueue c (s.queue c ++ [{ cut := 0, uncut := [], ended := false, resp := none }]))
      held.foldl (storeByte c check) s

/-- The link-control frame type (R57). -/
def linkType : Nat := 0x8808

/-- The judgement at the 18th byte: link-control frame, control frame for the part, or frame for classification
(R57, R58, R60). Damage of the group record found by these reads takes the group DOWN at the command's end, after the judgement
(R121; that order is a DESIGN CHOICE, unsafe; log entry 43). -/
def judgeFrame (r : RxFrame) (s : State) : State :=
  let bs := r.held ++ r.check
  if be16 bs 12 = linkType then s.updFarm fun f => { f with rx := some { r with kind := .link } }
  else
    let s := if frameType bs = controlType then touchGroup 0x0F (touchGroup 0x0E s) else s
    if isControlFrame s.station bs then s.updFarm fun f => { f with rx := some { r with kind := .control } }
    else classifyFrame bs r.held r.check s

/-! ### Reception -/

/-- A byte enters the check buffer; the byte it pushes out joins the FCS (R55). -/
def RxFrame.push (r : RxFrame) (b : Byte) : RxFrame × Option Byte :=
  match r.check ++ [b] with
  | x :: rest =>
    if 4 ≤ rest.length then ({ r with count := r.count + 1, check := rest, crc := crc32Byte r.crc x }, some x)
    else ({ r with count := r.count + 1, check := x :: rest }, none)
  | [] => (r, none)

/-- The byte that makes a frame a giant: 2,005 (R56). -/
def giantByte : Nat := 2005

/-- A frame becomes a giant (R56, R69). -/
def becomeGiant (r : RxFrame) (s : State) : State :=
  match r.kind with
  | .abandoned => s
  | .dropped .silent => s
  | .dropped .lack => setRxKind (.dropped .silent) s
  | .upstream c => failArriving c (arrivingUncut (s.queue c)) (setRxKind (.dropped .silent) (s.bump .giants))
  | _ => setRxKind (.dropped .silent) (s.bump .giants)

/-- A byte taken by a frame below the giant's length (R55, R58, R60, R63). -/
def takeByte (r : RxFrame) (b : Byte) (s : State) : State :=
  let (r', out) := r.push b
  match r'.kind with
  | .abandoned => s
  | .dropped _ => s.updFarm fun f => { f with rx := some r' }
  | .upstream c =>
    let s := s.updFarm fun f => { f with rx := some r' }
    match out with
    | some x => storeByte c r'.check s x
    | none => s
  | .head =>
    let r' := { r' with held := r'.held ++ out.toList }
    let s := s.updFarm fun f => { f with rx := some r' }
    if r'.count = 18 then judgeFrame r' s else s
  | _ => s.updFarm fun f => { f with rx := some { r' with held := r'.held ++ out.toList } }

/-- A frame begun by its first byte (R55). -/
def RxFrame.start : RxFrame := { count := 0, kind := .head, held := [], check := [], crc := crc32Init }

/-- A byte of a farm frame (R55, R56). -/
def farmByte (b : Byte) (s : State) : State :=
  let r := s.farm.rx.getD RxFrame.start
  if r.count + 1 < giantByte then takeByte r b s
  else
    let s := s.updFarm fun f => { f with rx := some { r with count := r.count + 1 } }
    if r.count + 1 = giantByte then becomeGiant r s else s

/-- The judgement of a frame at its end (R56). -/
inductive Verdict where
  | good
  | runt
  | fcsError
deriving DecidableEq, Repr

/-- The FCS as appended, least significant byte first (R55). -/
def fcsBytes (c : Word) : List Byte := (wordBytes c).reverse

/-- A frame judged by its length and its FCS (R56); a giant has been judged before its end. -/
def RxFrame.verdict (r : RxFrame) : Verdict :=
  if r.count < 64 then .runt else if r.check = fcsBytes (crc32Out r.crc) then .good else .fcsError

/-- The counter of a failure (R56). -/
def countFailure (v : Verdict) (s : State) : State :=
  match v with
  | .good => s
  | .runt => s.bump .runts
  | .fcsError => s.bump .fcsErrors

/-- The pause a good pause request sets, in µs, rounded up (R57). -/
def pauseLength (fast : Bool) (q : Nat) : Nat := if fast then ceilDiv (q * 512) 1000 else ceilDiv (q * 512) 100

/-- A good link-control frame (R57): operation code 0x0001 is a pause request. -/
def takeLink (r : RxFrame) (s : State) : State :=
  let s := s.bump .pauseRequests
  if be16 r.held 14 = 1 then
    s.updFarm fun f => { f with pauseEnd := some (s.now + pauseLength f.fast (be16 r.held 16)) }
  else s

/-- A frame of class `c` ends good in its queue (R64). -/
def endGood (c : ClassIx) (s : State) : State :=
  (s.setQueue c (mapArriving (fun f => { f with ended := true }) (s.queue c))).bump (.admitted c)

/-- The end of a received frame, by what it is (R56..R58, R64, R69, R71, R72). -/
def frameEnd (r : RxFrame) (s : State) : State :=
  let s := s.updFarm fun f => { f with rx := none }
  match r.kind, r.verdict with
  | .abandoned, _ => s
  | .dropped .silent, _ => s
  | .dropped .lack, .good => s.bump .framesReceived
  | .dropped .lack, _ => s
  | .dropped .table, .good => s.bump .framesReceived
  | .dropped .table, v => countFailure v s
  | .head, .good => s.bump .framesReceived
  | .head, v => countFailure v s
  | .link, .good => takeLink r (s.bump .framesReceived)
  | .link, v => countFailure v s
  | .control, .good => controlArrive .farm r.held ((s.bump .framesReceived).bump .controlFrames)
  | .control, v => countFailure v s
  | .upstream c, .good => endGood c (s.bump .framesReceived)
  | .upstream c, v => failArriving c (arrivingUncut (s.queue c)) (countFailure v s)

/-! ### Transmission -/

/-- A frame as sent toward the farm: padded to 60 bytes, its FCS appended (R59). -/
def wireFrame (bs : List Byte) : List Byte :=
  let p := padTo 60 bs
  p ++ fcsBytes (crc32 p)

/-- A pause is running (R57). -/
def State.paused (s : State) : Bool :=
  match s.farm.pauseEnd with
  | some e => decide (s.now < e)
  | none => false

/-- What the farm port would begin to send: a control engine frame first, the one ready first, else the oldest frame of
the farm output queue (R59, R162). -/
def State.nextTx (s : State) : Option FarmTx :=
  match s.ctl.farmOrder with
  | .response :: _ => s.ctl.respSlot.map fun r => .response (wireFrame r.bytes)
  | .notice :: _ => s.ctl.noticeSlot.map fun n => .notice (wireFrame n.bytes)
  | [] => s.farm.outQueue.head?.map fun f => .queued (wireFrame f.bytes)

/-- The transmission that begins now, if the farm port is free to begin one (R59). -/
def State.canTransmit (s : State) : Option FarmTx := if s.farm.tx.isSome || s.paused then none else s.nextTx

/-- A transmission begins (R59); a notice under way still occupies its slot (R162). -/
def beginTx (x : FarmTx) (s : State) : State :=
  let s := s.updFarm fun f => { f with tx := some x }
  match x with
  | .queued _ => s
  | .response _ => s.updCtl fun c => { c with farmOrder := c.farmOrder.tail }
  | .notice _ =>
    s.updCtl fun c => { c with farmOrder := c.farmOrder.tail, noticeSlot := c.noticeSlot.map fun n => { n with sending := true } }

/-- The notice slot after a notice has been sent: free, unless a newer notice replaced it meanwhile (DEDUCED, unsafe; log entry 14). -/
def NoticeSlot.afterSend (n : NoticeSlot) : Option NoticeSlot := if n.sending then none else some n

/-- A transmission recorded as sent (R59). -/
def recordSent (wire : List Byte) (s : State) : State :=
  (s.updFarm fun f => { f with tx := none, sent := f.sent ++ [wire] }).bump .framesSent

/-- A transmission ends (R59, R146, R155). -/
def endTx (x : FarmTx) (s : State) : State :=
  match x with
  | .queued w => headProcess ((recordSent w s).updFarm fun f => { f with outQueue := f.outQueue.tail })
  | .response w =>
    let s := recordSent w s
    let n := s.ctl.respSlot.map RespSlot.resp
    let s := s.updCtl fun c => { c with respSlot := none }
    match n with
    | some n => responseLeft n s
    | none => s
  | .notice w => (recordSent w s).updCtl fun c => { c with noticeSlot := c.noticeSlot.bind NoticeSlot.afterSend }

/-! ### The commands -/

/-- FARM_BYTE_ARRIVAL (R63). -/
def execFarmByteArrival (t : Nat) (b : Byte) (s : State) : Host.Outcome State Fault Refusal :=
  .next (finish (farmByte b (s.atTime t)))

/-- FARM_FRAME_END (R56). -/
def execFarmFrameEnd (t : Nat) (s : State) : Host.Outcome State Fault Refusal :=
  let s := s.atTime t
  match s.farm.rx with
  | some r => .next (finish (frameEnd r s))
  | none => .next (finish s)

/-- The pause end has passed (R57). -/
def State.pauseOver (s : State) : Bool :=
  match s.farm.pauseEnd with
  | some e => decide (e ≤ s.now)
  | none => false

/-- PAUSE_END (R57). -/
def execPauseEnd (t : Nat) (s : State) : Host.Outcome State Fault Refusal :=
  let s := s.atTime t
  if s.pauseOver then .next (finish (s.updFarm fun f => { f with pauseEnd := none })) else .next (finish s)

/-- FARM_TRANSMIT_START (R59). -/
def execFarmTransmitStart (t : Nat) (s : State) : Host.Outcome State Fault Refusal :=
  let s := s.atTime t
  match s.canTransmit with
  | some x => .next (finish (beginTx x s))
  | none => .next (finish s)

/-- FARM_TRANSMIT_END (R59). -/
def execFarmTransmitEnd (t : Nat) (s : State) : Host.Outcome State Fault Refusal :=
  let s := s.atTime t
  match s.farm.tx with
  | some x => .next (finish (endTx x s))
  | none => .next (finish s)

/-- The head of the reroute list waits in a NO_PAIR or SKEW hold and its age exceeds the limit (R83). -/
def State.headAged (s : State) : Bool :=
  match s.dist.reroute with
  | f :: _ => (decide (s.dist.wait = .noPair) || decide (s.dist.wait = .skew)) && decide (s.rerouteAge < ageOf s f)
  | [] => false

/-- REROUTE_AGE_LIMIT (R83): brings an attempt, which discards the head. -/
def execRerouteAgeLimit (t : Nat) (s : State) : Host.Outcome State Fault Refusal :=
  let s := s.atTime t
  if s.headAged then .next (finish (attempt s)) else .next (finish s)

end Sys2Proof.Machine
end

