-- ==== Sys2Proof/Machine/Status.lean ====
section
/-! DEFINITION. The words of the table space as a read shows them (spec/11, R150, R166): identity, status, counters, the
event area, the mailboxes and the management words. Table memory is read through the error correction. -/

namespace Sys2Proof.Machine

/-- The code of an undefined GSN or a none address in a 16-bit field (R166). -/
def none16 : Nat := 0xFFFF

/-- A GSN in a 16-bit field. -/
def gsnField (g : Option Gsn) : Nat :=
  match g with
  | some g => g.toNat
  | none => none16

/-- A word address in a 16-bit field. -/
def addrField (a : Option Nat) : Nat := a.getD none16

/-- A time in whole ms modulo 2^32, all ones where it is undefined (R166). -/
def msWord (t : Option Nat) : Word :=
  match t with
  | some ms => BitVec.ofNat 32 ms
  | none => BitVec.allOnes 32

/-- The code of a reassembler state (spec/11). -/
def ReasState.code : ReasState → Nat
  | .idle => 0
  | .resync => 1
  | .reassemble => 2

/-- The code of a wait reason (spec/11). -/
def WaitReason.code : WaitReason → Nat
  | .none => 0
  | .slot => 1
  | .span => 2
  | .noPair => 3
  | .skew => 4

/-- The code of a digest state (spec/11). -/
def DigestState.code : DigestState → Nat
  | .idle => 0
  | .running => 1
  | .done => 2
  | .stale => 3

/-- Identity word `i` (spec/11). -/
def State.identityWord (s : State) (i : Fin 4) : Word :=
  match i.val with
  | 0 => 0x5A2E
  | 1 => 0x0820
  | 2 => 1
  | _ => pack [(0, s.digit.toNat), (8, bit s.farm.fast)]

/-- Pair status word `off` of a pair port (R21, spec/11). -/
def PairPort.statusWord (pp : PairPort) (off : Fin 9) : Word :=
  match off.val with
  | 0 => pack [(0, pp.state.code), (8, pp.cause.code), (16, bit (decide (pp.rx = .retryAsk))), (17, bit pp.bar)]
  | 1 => asWord pp.upRate
  | 2 => asWord pp.downRate
  | 3 => pack [(0, pp.latency), (16, pp.samples)]
  | 4 => pack [(0, pp.txq.length), (8, pp.store.length)]
  | 5 => pack [(0, pp.rxn.toNat), (8, pp.nextTxn.toNat), (16, gsnField pp.ldg)]
  | 6 => pack [(0, pp.guard.period), (16, pp.guard.confidence), (20, bit pp.guard.locked), (21, bit pp.guard.window.isSome)]
  | 7 => msWord pp.guard.lastStart
  | _ => msWord pp.guard.nextStart

/-- Group status word `off` (R119, spec/11). -/
def State.groupStatusWord (s : State) (off : Fin 6) : Word :=
  match off.val with
  | 0 => pack [(0, bit s.groupUp), (8, s.activeCount), (16, s.reas.state.code), (24, s.dist.wait.code)]
  | 1 =>
    pack [(0, s.dist.nextGsn.toNat), (16, match s.dist.fip with | some f => f.cls.val | none => 7), (24, s.ctl.queue.length)]
  | 2 => pack [(0, s.freeSlots), (16, s.dist.reroute.length)]
  | 3 => pack [(0, s.freeDownBlocks), (16, s.farm.outQueue.length)]
  | 4 => pack [(0, gsnField s.reas.head), (16, gsnField s.reas.awaited)]
  | _ =>
    pack [(0, s.reas.window.length), (16, bit (!s.reas.inProgress.isEmpty)), (17, bit s.reas.discarding)
          , (18, bit s.reas.hold.isSome), (19, bit s.suspended)]

/-- The enable word, or the pending flags: bit k − 1 for the kind with code k (spec/11). -/
def EventUnit.flagWord (e : EventUnit) (f : EventRec → Bool) : Word :=
  pack ((List.finRange 15).map fun i => (i.val, bit (f e.kinds[i.val])))

/-- The occurrence count of the kind at place `i`, 0 past the last kind. -/
def EventUnit.countAt (e : EventUnit) (i : Nat) : Nat :=
  match e.kinds[i]? with
  | some r => r.count.toNat
  | none => 0

/-- Word `j` of a detail record. -/
def Detail.word (d : Detail) (j : Fin 3) : Word :=
  match j.val with
  | 0 => d.w1
  | 1 => d.w2
  | _ => d.w3

/-- A detail word of the event area: word `j` of the kind at place `k`. -/
def EventUnit.detailWord (e : EventUnit) (k : Fin 15) (j : Fin 3) : Word := e.kinds[k.val].detail.word j

/-- A mailbox state word (spec/11). -/
def Mailbox.stateWord (b : Mailbox) : Word := pack [(0, bit (!b.message.isEmpty)), (8, b.message.length)]

/-- Message word `i` of a mailbox: zero past the message's length (R156). -/
def Mailbox.messageWord (b : Mailbox) (i : Fin 16) : Word := be32 b.message (4 * i.val)

/-- The word at a place that is not table memory, as it stands (R150, R166). -/
def State.statusWord (s : State) : Place → Word
  | .vacant => vacantPattern
  | .unassigned => 0
  | .identity i => s.identityWord i
  | .table r => (s.tables.get r).val
  | .pairStatus p off => (s.pair p).statusWord off
  | .pairCounter p i => (s.pair p).counters[i.val]
  | .groupStatus off => s.groupStatusWord off
  | .groupCounter i => s.counters[i.val]
  | .eventEnable => s.events.flagWord EventRec.enabled
  | .eventPending => s.events.flagWord EventRec.isPending
  | .eventCounts i =>
    byteFields (s.events.countAt (4 * i.val)) (s.events.countAt (4 * i.val + 1)) (s.events.countAt (4 * i.val + 2))
      (s.events.countAt (4 * i.val + 3))
  | .noticeStatus => pack [(0, bit s.events.owed), (1, bit s.ctl.noticeSlot.isSome)]
  | .noticeTime => msWord (s.events.lastNotice.map (· / 1000))
  | .eventDetail k j => s.events.detailWord k j
  | .boxState b => s.ctl.boxes[b.val].stateWord
  | .boxKeep b => pack [(0, bit s.ctl.boxes[b.val].keep)]
  | .boxMessage b i => s.ctl.boxes[b.val].messageWord i
  | .commitState => pack [(0, bit s.tables.commitPending), (16, s.tables.commitCount.toNat)]
  | .eccCounts => pack [(0, s.tables.uncorrectable.toNat), (16, s.tables.corrected.toNat)]
  | .eccAddresses => pack [(0, addrField s.tables.firstUncorrectable), (16, addrField s.tables.lastCorrected)]
  | .digestState =>
    pack [(0, s.tables.digest.state.code), (4, bit s.tables.digest.damaged), (16, s.tables.digest.words)]
  | .digestRange => pack [(0, s.tables.digest.last), (16, s.tables.digest.start)]
  | .digestResult => s.tables.digest.result

/-- The word at a place as a request reads it, none where it is an uncorrectable word of table memory (R136, R150). -/
def State.placeWord? (s : State) : Place → Option Word
  | .table r => s.word? r
  | p => some (s.statusWord p)

/-- The effect a request's read of a place has: the error correction's (R135..R137). -/
def meetPlace (p : Place) (s : State) : State :=
  match p with
  | .table r => useWord r s
  | _ => s

end Sys2Proof.Machine
end

