-- ==== Sys2Proof/Machine/Tables.lean ====
section
/-! DEFINITION. Stores into the table space (R130, R138, R151, R156, R159), the digest engine (R139, R140) and the errors
of table memory (R135), with the commands that stand for each kind of store. -/

namespace Sys2Proof.Machine

/-! ### Stores -/

/-- A digest is running and its range holds the word at `a` (R139, R140). -/
def DigestRec.covers (d : DigestRec) (a : Nat) : Bool :=
  decide (d.state = .running) && decide (d.start ≤ a) && decide (a ≤ d.last)

/-- A write into the range of a running digest makes it STALE at its completion; `changed` tells whether the word now feeds
another value (R140). -/
def DigestRec.noteWrite (d : DigestRec) (a : Nat) (changed : Bool) : DigestRec :=
  if d.covers a then { d with touched := true, altered := d.altered || changed } else d

/-- A word's wrong bits found by the running digest that has read it: reported, and an uncorrectable word sets the damaged
flag (R135, R137, R140). -/
def digestFinds (r : TRef) (s : State) : State :=
  let lost := (s.word? r).isNone
  (touch r s).updTables fun t => { t with digest := { t.digest with damaged := t.digest.damaged || lost } }

/-- A word about to be replaced that has wrong bits and lies in the range of a running digest: whether the digest has read it
already is a free value, and if it has, it has found them (R140; DESIGN CHOICE, safe; log entry 4). -/
def digestBefore (r : TRef) (s : State) : State :=
  if s.tables.digest.covers r.addr && decide ((s.tables.get r).wrong ≠ .none) then
    if Config.freeRead s.freeCount then digestFinds r s.drawFree else s.drawFree
  else s

/-- A request's word stored into a shadow copy, field by field (R130), which a running digest notes (R140). -/
def storeShadow (r : TRef) (v : Word) (s : State) : State :=
  let changed := decide ((s.word? r).getD vacantPattern ≠ clampTable r v)
  (digestBefore r s).updTables fun t => { t.store r (clampTable r v) with digest := t.digest.noteWrite r.addr changed }

/-- A word stored into the gate record (R141). -/
def storeGate (v : Word) (s : State) : State := s.updTables fun t => t.store .gate (clampTable .gate v)

/-- A write into the ECC status word clears all four values (R138). -/
def TableStore.clearEcc (t : TableStore) : TableStore :=
  { t with corrected := 0, uncorrectable := 0, lastCorrected := none, firstUncorrectable := none }

/-- A write into the commit state word stores its commit count (R131, R151). -/
def TableStore.storeCount (t : TableStore) (v : Word) : TableStore :=
  { t with commitCount := BitVec.ofNat 16 (fieldAt v 16 16) }

/-- A record after a write of its enable flag (R159). -/
def EventRec.enable (r : EventRec) (on : Bool) : EventRec :=
  if on then { r with enabled := true, isPending := r.isPending || (!r.enabled && decide (r.count ≠ 0)) }
  else { r with enabled := false, isPending := false }

/-- The enable flag of the kind at place `i` written, a notice following a new pending kind (R159, R161). -/
def enableKind (v : Word) (s : State) (i : Fin 15) : State :=
  let r := s.events.kinds[i.val]
  let r' := r.enable (bitAt v i.val)
  let s := s.updEvents fun e => { e with kinds := e.kinds.set i.val r' }
  if r'.isPending && !r.isPending then newPending s else s

/-- A write into the enable word, kind by kind, from code 1 to code 15 (R159; that order is a DESIGN CHOICE, unsafe; log entry
41). -/
def storeEnable (v : Word) (s : State) : State := (List.finRange 15).foldl (enableKind v) s

/-- A write into a mailbox's keep flag word (R156). -/
def storeKeep (b : Fin 2) (v : Word) (s : State) : State :=
  s.updCtl fun c => { c with boxes := c.boxes.set b.val { c.boxes[b.val] with keep := bitAt v 0 } }

/-- A write into a pair counter word (R21). -/
def storePairCounter (p : PairIx) (i : Fin 10) (v : Word) (s : State) : State :=
  s.updPair p fun pp => { pp with counters := pp.counters.set i.val v }

/-- A write into a counter among the group status words (R151). -/
def storeGroupCounter (i : Fin 43) (v : Word) (s : State) : State := { s with counters := s.counters.set i.val v }

/-- A word stored at a place according to what it is; tells whether it was stored, which a read-only word is not
(R151). -/
def storePlace (v : Word) (p : Place) (s : State) : State × Bool :=
  match p with
  | .table (.group .shadow i) => (storeShadow (.group .shadow i) v s, true)
  | .table (.pair .shadow q j) => (storeShadow (.pair .shadow q j) v s, true)
  | .table (.cls .shadow i j) => (storeShadow (.cls .shadow i j) v s, true)
  | .table .gate => (storeGate v s, true)
  | .pairCounter q i => (storePairCounter q i v s, true)
  | .groupCounter i => (storeGroupCounter i v s, true)
  | .commitState => (s.updTables fun t => t.storeCount v, true)
  | .eccCounts => (s.updTables TableStore.clearEcc, true)
  | .eccAddresses => (s.updTables TableStore.clearEcc, true)
  | .eventEnable => (storeEnable v s, true)
  | .boxKeep b => (storeKeep b v s, true)
  | _ => (s, false)

/-- A place is read-only to writes (R151). -/
def readOnly (p : Place) : Bool :=
  match p with
  | .table (.group .shadow _) => false
  | .table (.pair .shadow _ _) => false
  | .table (.cls .shadow _ _) => false
  | .table .gate => false
  | .pairCounter _ _ => false
  | .groupCounter _ => false
  | .commitState => false
  | .eccCounts => false
  | .eccAddresses => false
  | .eventEnable => false
  | .boxKeep _ => false
  | _ => true

/-- The place of a 32-bit word address: vacant where its upper 16 bits are not all zero (R147). -/
def placeOf (a : Word) : Place := if a.toNat < 65536 then placeAt a.toNat else .vacant

/-! ### The digest engine -/

/-- A word of the range fed to a digest: its value or the vacant pattern, and whether it is uncorrectable (R137, R140). -/
def feedWord (acc : State × Nat × Bool) (a : Nat) : State × Nat × Bool :=
  let (s, c, d) := acc
  match placeAt a with
  | .table r =>
    let w := s.word? r
    (touch r s, (wordBytes (w.getD vacantPattern)).foldl crc32Byte c, d || w.isNone)
  | _ => (s, (wordBytes 0).foldl crc32Byte c, d)

/-- The words of a digest's range fed in address order (R140). -/
def feedAll (s : State) : State × Nat × Bool :=
  (shadowRange s.tables.digest.start s.tables.digest.last).foldl feedWord (s, crc32Init, false)

/-- The digest record with its outcome (R140). -/
def DigestRec.complete (d : DigestRec) (st : DigestState) (result : Word) (damaged : Bool) : DigestRec :=
  { d with state := st, result := result, damaged := damaged, touched := false, altered := false }

/-- A digest's outcome recorded and DIGEST_DONE raised (R140). -/
def endDigest (st : DigestState) (result : Word) (damaged : Bool) (s : State) : State :=
  raiseEvent .digestDone (detail2 (byteFields st.code (bit damaged) 0 0) result)
    (s.updTables fun t => { t with digest := t.digest.complete st result damaged })

/-- A running digest completes (R140): DONE, or STALE where a write has landed in its range. The result is the CRC-32 of the
words, or a free value where a write has changed what a word feeds (DESIGN CHOICE, safe; log entry 4). The damaged flag is set
by this reading or by a finding before it. -/
def digestEnds (s : State) : State :=
  let (s, c, d) := feedAll s
  let damaged := d || s.tables.digest.damaged
  if s.tables.digest.altered then endDigest .stale (Config.freeDigest s.freeCount) damaged s.drawFree
  else endDigest (if s.tables.digest.touched then .stale else .done) (crc32Out c) damaged s

/-- The digest a DIGEST request begins, its range in one of the shadow regions (R139). -/
def DigestRec.begin (start last now : Nat) : DigestRec :=
  { state := .running, start := start, last := clampEnd last, words := (shadowRange start (clampEnd last)).length
    result := 0, damaged := false, began := now, touched := false, altered := false }

/-! ### Errors of table memory -/

/-- The wrong bits of a word after it takes one more, or two (R135); three or more are uncorrectable (DESIGN CHOICE, unsafe; log entry 11). -/
def WrongBits.worse (w : WrongBits) (two : Bool) : WrongBits :=
  match w, two with
  | .none, false => .one
  | _, _ => .two

/-- A word of table memory takes wrong bits of its own accord (R135). A word already uncorrectable stays so. -/
def memoryError (r : TRef) (two : Bool) (s : State) : State :=
  let w := s.tables.get r
  if w.wrong = .two then s else s.updTables fun t => t.put r { w with wrong := w.wrong.worse two }

/-! ### The commands -/

/-- SHADOW_TABLE_WRITE (R130): one word stored past the gate; an address of no shadow table word stores nothing. -/
def execShadowTableWrite (t : Nat) (a v : Word) (s : State) : Host.Outcome State Fault Refusal :=
  let s := s.atTime t
  match placeOf a with
  | .table (.group .shadow i) => .next (finish (storeShadow (.group .shadow i) v s))
  | .table (.pair .shadow p j) => .next (finish (storeShadow (.pair .shadow p j) v s))
  | .table (.cls .shadow i j) => .next (finish (storeShadow (.cls .shadow i j) v s))
  | _ => .next (finish s)

/-- GATE_RECORD_WRITE (R141). -/
def execGateRecordWrite (t : Nat) (v : Word) (s : State) : Host.Outcome State Fault Refusal :=
  .next (finish (storeGate v (s.atTime t)))

/-- ECC_STATUS_WRITE (R138): a write into either part clears all four values, whatever its value. -/
def execEccStatusWrite (t : Nat) (second : Bool) (v : Word) (s : State) : Host.Outcome State Fault Refusal :=
  .next (finish (storePlace v (if second then .eccAddresses else .eccCounts) (s.atTime t)).1)

/-- EVENT_ENABLE_WRITE (R159). -/
def execEventEnableWrite (t : Nat) (v : Word) (s : State) : Host.Outcome State Fault Refusal :=
  .next (finish (storeEnable v (s.atTime t)))

/-- KEEP_FLAG_WRITE (R156). -/
def execKeepFlagWrite (t : Nat) (b : Fin 2) (v : Word) (s : State) : Host.Outcome State Fault Refusal :=
  .next (finish (storeKeep b v (s.atTime t)))

/-- COUNTER_WRITE (R151): a word stored past the gate as its kind of word allows; a read-only word is left unchanged. -/
def execCounterWrite (t : Nat) (a v : Word) (s : State) : Host.Outcome State Fault Refusal :=
  .next (finish (storePlace v (placeOf a) (s.atTime t)).1)

/-- DIGEST_DONE (R140). -/
def execDigestDone (t : Nat) (s : State) : Host.Outcome State Fault Refusal :=
  let s := s.atTime t
  if s.tables.digest.state = .running then .next (finish (digestEnds s)) else .next (finish s)

/-- TABLE_MEMORY_ERROR (R135): an address that is no word of table memory takes no error. -/
def execTableMemoryError (t : Nat) (a : Word) (two : Bool) (s : State) : Host.Outcome State Fault Refusal :=
  let s := s.atTime t
  match placeOf a with
  | .table r => .next (finish (memoryError r two s))
  | _ => .next (finish s)

end Sys2Proof.Machine
end

