-- ==== Sys2Proof/Machine/Commit.lean ====
section
/-! DEFINITION. Applying a commit (R133, R134): the copy, the moves of the pairs (R12, R13, R14), the one evaluation of
the group (R120) and the other blocks' part. -/

namespace Sys2Proof.Machine

/-! ### The copy -/

/-- One word copied into another; tells whether it was, which an uncorrectable one is not (R133). -/
def TableStore.copyWord (t : TableStore) (src dst : TRef) : TableStore × Bool :=
  match t.word? src with
  | some v => (t.store dst v, true)
  | none => (t, false)

/-- A restart-bound word rewritten with its active value, or with the shadow's where that is lost (R133). -/
def TableStore.rewriteWord (t : TableStore) (i : Fin 19) : TableStore × Bool :=
  match t.word? (.group .active i) with
  | some v => (t.store (.group .active i) v, true)
  | none => t.copyWord (.group .shadow i) (.group .active i)

/-- Two copies made in turn, with whether both were written. -/
def bothCopied (f g : TableStore → TableStore × Bool) (t : TableStore) : TableStore × Bool :=
  let (t, a) := f t
  let (t, b) := g t
  (t, a && b)

/-- One word of the group record written by a commit (R117, R133). -/
def TableStore.commitGroupWord (acc : TableStore × Bool) (i : Fin 19) : TableStore × Bool :=
  bothCopied (fun t => (t, acc.2))
    (fun t => if i.val < 2 then t.rewriteWord i else t.copyWord (.group .shadow i) (.group .active i)) acc.1

/-- The group record's part of the copy; a record wholly written has its damage mark cleared (R133). -/
def TableStore.commitGroup (t : TableStore) : TableStore :=
  let (t, all) := (List.finRange 19).foldl TableStore.commitGroupWord (t, true)
  if all then { t with groupDamaged := false } else t

/-- The latency offset of an entry whose mode word has been copied: M for an AUTO entry whose pair has taken a sample, `m`,
else the shadow value (R19, R133). The mode is the one last stored in the active entry, also where that word is uncorrectable
and was not copied (DESIGN CHOICE, unsafe; log entry 16). -/
def TableStore.commitOffset (m : Option Nat) (p : PairIx) (t : TableStore) : TableStore × Bool :=
  match m with
  | some x =>
    if bitAt (t.get (.pair .active p 0)).val 16 then t.copyWord (.pair .shadow p 1) (.pair .active p 1)
    else (t.store (.pair .active p 1) (asWord x), true)
  | none => t.copyWord (.pair .shadow p 1) (.pair .active p 1)

/-- A pair entry's part of the copy (R133). -/
def TableStore.commitPair (measured : PairIx → Option Nat) (t : TableStore) (p : PairIx) : TableStore :=
  let (t, all) := bothCopied (fun t => t.copyWord (.pair .shadow p 0) (.pair .active p 0)) (TableStore.commitOffset (measured p) p) t
  if all then { t with pairDamaged := t.pairDamaged.set p.val false } else t

/-- A class entry's part of the copy (R133). -/
def TableStore.commitCls (t : TableStore) (i : Fin 64) : TableStore :=
  let (t, all) := bothCopied (fun t => t.copyWord (.cls .shadow i 0) (.cls .active i 0))
    (fun t => t.copyWord (.cls .shadow i 1) (.cls .active i 1)) t
  if all then { t with clsDamaged := t.clsDamaged.set i.val false } else t

/-- The stores of the copy, one change (R133). -/
def TableStore.commitStores (measured : PairIx → Option Nat) (t : TableStore) : TableStore :=
  (List.finRange 64).foldl TableStore.commitCls (allPairs.foldl (TableStore.commitPair measured) t.commitGroup)

/-- The reads for a restart-bound word: its active word, and its shadow word where that is lost (R133). A commit makes no read
of the shadow word where the active one reads (DESIGN CHOICE, unsafe; log entry 46). -/
def restartBoundReads (s : State) (i : Fin 19) : State :=
  let s := touch (.group .active i) s
  if (s.word? (.group .active i)).isNone then touch (.group .shadow i) s else s

/-- The shadow words every commit reads, in address order (R133): all but those of GID and W (log entry 46). -/
def commitSources : List TRef :=
  ((List.finRange 19).filter fun i => decide (2 ≤ i.val)).map (fun i => .group .shadow i)
    ++ allPairs.flatMap (fun p => [.pair .shadow p 0, .pair .shadow p 1])
    ++ (List.finRange 64).flatMap fun i => [.cls .shadow i 0, .cls .shadow i 1]

/-- The measured latency of a pair that has taken a sample (R19). -/
def State.measured (s : State) (p : PairIx) : Option Nat := if (s.pair p).sampled then some (s.pair p).latency else none

/-- The copy of R133: every word is read first, so that what those reads bring sees the old values whole, and the stores are
one change. -/
def commitCopy (s : State) : State :=
  let s := touchAll commitSources (([0, 1] : List (Fin 19)).foldl restartBoundReads s)
  s.updTables (TableStore.commitStores s.measured)

/-- The copy's completion: count, state, COMMIT_DONE (R134). -/
def commitDone (s : State) : State :=
  let s := s.updTables fun t => { t with commitCount := satInc16 t.commitCount, commitPending := false }
  raiseEvent .commitDone (detail1 (asWord s.tables.commitCount.toNat)) s

/-! ### The pairs -/

/-- What a commit does to a pair, its active entry's admin read (R12, R13, R14, R9). -/
inductive CommitMove where
  | stay
  /-- ON in OFF: to DOWN with RETRAIN. -/
  | retrain
  /-- A draining pair returns to ACTIVE, or a pair on probation meets its conditions. -/
  | activate
  /-- A draining pair enters PROBATION. -/
  | probation
  /-- A GRACEFUL drain begins. -/
  | drain
  /-- To OFF at once, with this cause. -/
  | off (cause : Cause)
deriving DecidableEq, Repr

/-- A draining pair may return to ACTIVE (R14). -/
def State.drainReturns (s : State) (p : PairIx) : Bool :=
  match (s.pair p).drain with
  | some d => d.fromActive && decide (s.minRate ≤ (s.pair p).upRate)
  | none => false

/-- The move of a pair at a commit. A pair whose entry is marked damaged goes to OFF and stays there (R12). -/
def commitMove (s : State) (p : PairIx) : CommitMove :=
  let st := (s.pair p).state
  if s.tables.pairDamaged[p.val] then (if st = .off then .stay else .off .damaged)
  else if s.adminOn p then
    match st with
    | .off => .retrain
    | .draining => if s.drainReturns p then .activate else .probation
    | .probation => if s.mayActivate p then .activate else .stay
    | _ => .stay
  else
    match st with
    | .off => .stay
    | .down => .off .adminOff
    | .training => .off .adminOff
    | .draining => if s.drainImmediate p then .off .adminOff else .stay
    | _ => if s.drainImmediate p then .off .adminOff else .drain

/-- A pair is ACTIVE after its move. -/
def activeAfter (s : State) (p : PairIx) : Bool :=
  match commitMove s p with
  | .activate => true
  | .stay => decide ((s.pair p).state = .active)
  | _ => false

/-- The group state that the one evaluation of a commit will find (R120). -/
def State.upAfterCommit (s : State) : Bool :=
  !s.tables.groupDamaged && decide (s.minPairs ≤ (allPairs.filter fun p => activeAfter s p).length)

/-- The words of the pair ports' reads at a commit: every entry's admin word and, for a pair on probation or draining,
the group record fields its move uses; the admin words first, in pair number order (DESIGN CHOICE, unsafe; log entry 61). -/
def touchMoves (s : State) : State :=
  let s := touchAll (allPairs.map fun p => .pair .active p 0) s
  let s := if allPairs.any fun p => decide ((s.pair p).state = .probation) then touchGroup 0x05 s else s
  let s := if allPairs.any fun p => decide ((s.pair p).state = .probation ∨ (s.pair p).state = .draining) then touchGroup 0x06 s else s
  touchGroup 0x02 s

/-- A drain begins: its origin and deadline are recorded, and a pair already empty goes to OFF at once (R13). -/
def beginDrain (p : PairIx) (s : State) : State :=
  let s := touchGroup 0x07 s
  drainCheck p (s.updPair p fun pp =>
    { pp with state := .draining, bar := false
              drain := some { fromActive := decide (pp.state = .active), deadline := s.now + s.drainLimit } })

/-- A pair's move made; `keep` tells whether a pair going to OFF gives its stores to the reroute list (R120). -/
def makeMove (keep : Bool) (p : PairIx) (m : CommitMove) (s : State) : State :=
  match m with
  | .stay => s
  | .retrain => s.updPair p fun pp => ({ pp with state := .down }).command .retrain
  | .activate => toActive p s
  | .probation => s.updPair p fun pp => pp.enterProbation s.now
  | .drain => beginDrain p s
  | .off c => depart p (s.pair p).state .off c .quiet keep s

/-- The pairs' part of a commit, before the group is evaluated (R12, R14, R120). -/
def movePairs (s : State) : State :=
  let s := touchMoves s
  let keep := s.upAfterCommit
  (allPairs.map fun p => (p, commitMove s p)).foldl (fun s m => makeMove keep m.1 m.2 s) s

/-! ### The other blocks -/

/-- The event unit's part: notice sides changed to NONE clear a notice owed, and changed from NONE with a kind pending
send a notice or owe one, unless COMMIT_DONE has just sent it (R161). `oldSides` and `oldNotice` are those before the
commit. A notice sent here leaves a notice owed before as it is (DESIGN CHOICE, unsafe; log entry 59). -/
def noticesAfterCommit (oldSides : Nat) (oldNotice : Option Nat) (s : State) : State :=
  let s := touchGroup 0x12 s
  if s.noticeSides = 0 then s.updEvents fun e => { e with owed := false }
  else if oldSides = 0 && s.anyPending && decide (s.events.lastNotice = oldNotice) then
    if s.noticeAllowed then sendNotice s else s.updEvents fun e => { e with owed := true }
  else s

/-- The reassembler's part: the hold deadline worked out afresh and the shortcut tested (R111, R112). -/
def reassemblerAfterCommit (s : State) : State := if s.reas.state = .reassemble then testsN gapBound s else s

/-- The burst guards' part (R53). A locked guard is unlocked by a miss or a commit only: where word 0x08 of the group record is
found uncorrectable and the threshold reads its default 3, above the confidence of a locked guard, that guard stays locked until
then (DESIGN CHOICE, unsafe; log entry 40). -/
def guardsAfterCommit (s : State) : State :=
  let s := if allPairs.any fun p => (s.pair p).guard.locked then touchGroup 0x08 s else s
  allPairs.foldl guardAfterCommit s

/-- A commit applied (R133, R134, R120). The old notice sides are taken from the active word as it stands, with
no read of it: an uncorrectable word counts as sides NONE, found or not (R161; DESIGN CHOICE, unsafe; log entry 56). The blocks take
the new values one after another (R134 allows any order; DESIGN CHOICE, unsafe; log entry 12). -/
def applyCommit (s : State) : State :=
  let oldSides := s.noticeSides
  let oldNotice := s.events.lastNotice
  let s := noticesAfterCommit oldSides oldNotice (commitDone (commitCopy s))
  attempt (reassemblerAfterCommit (evaluateGroup (guardsAfterCommit (movePairs s))))

/-- COMMIT_APPLY (R132, R133): at an epoch point with a commit pending. -/
def execCommitApply (t : Nat) (s : State) : Host.Outcome State Fault Refusal :=
  let s := s.atTime t
  if s.epochPoint then .next (finish (applyCommit s)) else .next (finish s)

end Sys2Proof.Machine
end

