-- ==== Sys2Proof/Machine/Control.lean ====
section
/-! DEFINITION. The control engine (spec/09): the judgement of a request (R147, R148, R149, R154), each kind of request
(R150..R156, R131, R139, R160), the commands that stand for one request each, and the execution of a control frame
(R144, R145, R146). -/

namespace Sys2Proof.Machine

/-- What a request comes to: the state after it, its status and the data it returns (R145). -/
structure Outcome where
  state : State
  status : Status
  data : List Byte
deriving DecidableEq, Repr

/-- A refusal that returns no data and touches no state. -/
def refuse (st : Status) (s : State) : Outcome := { state := s, status := st, data := [] }

/-! ### The gate (R149) -/

/-- Flag `i` of the gate record as it reads (R137, R141). -/
def State.gateFlag (s : State) (i : Nat) : Bool := bitAt ((s.word? .gate).getD gateDefault) i

/-- The gate allows a FARM write at a word, on a state whose gate record has been met. -/
def State.gateAllows (s : State) (a : Nat) : Bool :=
  match writeAuthority a with
  | .free => true
  | .flag i => s.gateFlag i
  | .lineOnly => false

/-- A FARM write at a word needs a flag. -/
def needsFlag (a : Nat) : Bool :=
  match writeAuthority a with
  | .flag _ => true
  | _ => false

/-- The gate's test of a write covering the words `as`: the gate record is read where a flag is needed (R149). -/
def gateWrite (o : Origin) (as : List Nat) (s : State) : State × Bool :=
  match o with
  | .line => (s, true)
  | .farm =>
    let s := if as.any needsFlag then useWord .gate s else s
    (s, as.all s.gateAllows)

/-- The gate's test of a FARM request that needs flag `i` (R149). -/
def gateFlagTest (o : Origin) (i : Nat) (s : State) : State × Bool :=
  match o with
  | .line => (s, true)
  | .farm =>
    let s := useWord .gate s
    (s, s.gateFlag i)

/-! ### Requests that address table words (R147..R152) -/

/-- The number of words of a block request. -/
def Request.words (r : Request) : Nat := r.len / 4

/-- A block's data length: 4..64 bytes, a multiple of 4 (R147). -/
def blockLen (n : Nat) : Bool := decide (4 ≤ n) && decide (n ≤ 64) && decide (n % 4 = 0)

/-- The address is vacant (R147). -/
def Request.isVacant (r : Request) : Bool := decide (placeOf r.addr = .vacant)

/-- A request at a vacant address: VACANT_ACCESS raised once, `n` words of the vacant pattern returned (R148). -/
def answerVacant (o : Origin) (r : Request) (n : Nat) (s : State) : Outcome :=
  { state := raiseEvent .vacantAccess (detail2 (byteFields (originCode o) r.code 0 0) r.addr) s
    status := .vacant
    data := wordsBytes (List.replicate n vacantPattern) }

/-- One word of a READ: its bytes added, or the vacant pattern and DAMAGED (R150). The words are read one after another, and a
later word of the block shows what the reading of an earlier one has brought (DESIGN CHOICE, unsafe; log entry 54). -/
def readWord (acc : Outcome) (a : Nat) : Outcome :=
  let w := acc.state.placeWord? (placeAt a)
  { state := meetPlace (placeAt a) acc.state
    status := if w.isNone then .damaged else acc.status
    data := acc.data ++ wordBytes (w.getD vacantPattern) }

/-- A READ (R147, R150). -/
def runRead (o : Origin) (r : Request) (s : State) : Outcome :=
  if !blockLen r.len then refuse .malformed s
  else if r.isVacant then answerVacant o r r.words s
  else (blockAddrs r.addr.toNat r.words).foldl readWord { state := s, status := .ok, data := [] }

/-- One word of a WRITE (R151). -/
def writeWord (acc : Outcome) (x : Nat × Word) : Outcome :=
  let (s, stored) := storePlace x.2 (placeAt x.1) acc.state
  { acc with state := s, status := if stored then acc.status else .readOnly }

/-- A WRITE, posted or not (R147, R149, R151). -/
def runWrite (o : Origin) (r : Request) (s : State) : Outcome :=
  if !blockLen r.len then refuse .malformed s
  else if r.isVacant then answerVacant o r 0 s
  else
    let as := blockAddrs r.addr.toNat r.words
    let (s, ok) := gateWrite o as s
    if !ok then refuse .denied s
    else (as.zip (bytesWords r.data)).foldl writeWord { state := s, status := .ok, data := [] }

/-- What a read-modify-write request stores: the new word, or none where its compare fails (R152). -/
abbrev NewWord := Word → Option Word

/-- A request on one word: judged, the word read, the new word stored, the original returned (R147, R149, R152). -/
def runOneWord (size : Nat) (f : NewWord) (o : Origin) (r : Request) (s : State) : Outcome :=
  if r.len ≠ size then refuse .malformed s
  else if r.isVacant then answerVacant o r 1 s
  else
    let (s, ok) := gateWrite o [r.addr.toNat] s
    if !ok then refuse .denied s
    else
      let p := placeOf r.addr
      let w := s.placeWord? p
      let s := meetPlace p s
      match w with
      | none => { state := s, status := .damaged, data := wordBytes vacantPattern }
      | some v =>
        if readOnly p then { state := s, status := .readOnly, data := wordBytes v }
        else
          match f v with
          | none => { state := s, status := .compareFail, data := wordBytes v }
          | some x => { state := (storePlace x p s).1, status := .ok, data := wordBytes v }

/-- The merged word of a MASK_WRITE (R152). -/
def mergeWord (mask value original : Word) : Word := (value &&& mask) ||| (original &&& ~~~mask)

/-- A signed number brought to the range of a 32-bit word (R152). -/
def saturate32 (x : Int) : Word :=
  BitVec.ofInt 32 (max (-2147483648) (min 2147483647 x))

/-- MASK_WRITE: mask, then value (R152). -/
def runMaskWrite (o : Origin) (r : Request) (s : State) : Outcome :=
  runOneWord 8 (fun v => some (mergeWord (be32 r.data 0) (be32 r.data 4) v)) o r s

/-- SWAP_IF: compare word, then new word (R152). -/
def runSwapIf (o : Origin) (r : Request) (s : State) : Outcome :=
  runOneWord 8 (fun v => if v = be32 r.data 0 then some (be32 r.data 4) else none) o r s

/-- ADD_SAT: a signed addend (R152). -/
def runAddSat (o : Origin) (r : Request) (s : State) : Outcome :=
  runOneWord 4 (fun v => some (saturate32 (v.toInt + (be32 r.data 0).toInt))) o r s

/-! ### The other requests (R154) -/

/-- COMMIT (R131, R132). -/
def runCommit (o : Origin) (r : Request) (s : State) : Outcome :=
  if r.len ≠ 0 then refuse .malformed s
  else
    let (s, ok) := gateFlagTest o 4 s
    if !ok then refuse .denied s
    else if s.tables.commitPending then refuse .busy s
    else { state := epochTest (s.updTables fun t => { t with commitPending := true }), status := .ok, data := [] }

/-- DIGEST (R139). -/
def runDigest (r : Request) (s : State) : Outcome :=
  let start := (be32 r.data 0).toNat
  let last := (be32 r.data 4).toNat
  if r.len ≠ 8 then refuse .malformed s
  else if last < start ∨ inShadowRegion start = false then refuse .malformed s
  else if s.tables.digest.state = .running then refuse .busy s
  else
    { state := s.updTables fun t => { t with digest := DigestRec.begin start last s.now }, status := .ok, data := [] }

/-- The kind of lowest code that is pending, as its place (R160). -/
def EventUnit.firstPending (e : EventUnit) : Option (Fin 15) := (List.finRange 15).find? fun i => e.kinds[i.val].isPending

/-- A record taken: its pending flag and count are cleared, its detail kept (R160). -/
def EventRec.clear (r : EventRec) : EventRec := { r with isPending := false, count := 0 }

/-- The data of EVENT_NEXT (R165). -/
def eventData (code count : Nat) (d : Detail) : List Byte := wordsBytes [byteFields code count 0 0, d.w1, d.w2, d.w3]

/-- EVENT_NEXT (R160). -/
def runEventNext (r : Request) (s : State) : Outcome :=
  if r.len ≠ 0 then refuse .malformed s
  else
    match s.events.firstPending with
    | none => { state := s, status := .ok, data := eventData 0 0 (detail2 0 0) }
    | some i =>
      let e := s.events.kinds[i.val]
      { state := s.updEvents fun u => { u with kinds := u.kinds.set i.val e.clear }
        status := .ok
        data := eventData (i.val + 1) e.count.toNat e.detail }

/-- EVENT_CLEAR (R160). -/
def runEventClear (r : Request) (s : State) : Outcome :=
  if r.len ≠ 0 then refuse .malformed s
  else { state := s.updEvents fun u => { u with kinds := u.kinds.map EventRec.clear }, status := .ok, data := [] }

/-- PAIR_RESTART (R20, R154). -/
def runPairRestart (o : Origin) (r : Request) (s : State) : Outcome :=
  if r.len ≠ 1 then refuse .malformed s
  else if h : byteNat r.data 0 < 8 then
    let (s, ok) := gateFlagTest o 5 s
    if !ok then refuse .denied s else { state := restartPair ⟨byteNat r.data 0, h⟩ s, status := .ok, data := [] }
  else refuse .malformed s

/-- A restart recorded in the restart list against the response `resp` (R155); without a response it is due at once
(DESIGN CHOICE, unsafe; log entry 15). -/
def recordRestart (k : RestartKind) (resp : Option Nat) (s : State) : State :=
  s.updCtl fun c => { c with restarts := c.restarts ++ [{ kind := k, awaits := resp }] }

/-- GROUP_RESTART or PART_RESET, which needs gate flag `flag` from FARM (R155). -/
def runRestart (k : RestartKind) (flag : Nat) (o : Origin) (resp : Option Nat) (r : Request) (s : State) : Outcome :=
  if r.len ≠ 0 then refuse .malformed s
  else
    let (s, ok) := gateFlagTest o flag s
    if !ok then refuse .denied s else { state := recordRestart k resp s, status := .ok, data := [] }

/-! ### Mailboxes (R156) -/

/-- The box a request names (R156). -/
def boxOf (a : Word) : Option (Fin 2) := if a = 0 then some 0 else if a = 1 then some 1 else none

/-- The origin that posts a box; the other one takes it (R156). -/
def postsBox (b : Fin 2) : Origin := if b = 0 then .line else .farm

/-- A mailbox replaced. -/
def setBox (b : Fin 2) (m : Mailbox) (s : State) : State := s.updCtl fun c => { c with boxes := c.boxes.set b.val m }

/-- BOX_POST (R156). -/
def runBoxPost (o : Origin) (r : Request) (s : State) : Outcome :=
  if r.data.length < 1 ∨ 64 < r.data.length then refuse .malformed s
  else
    match boxOf r.addr with
    | none => refuse .malformed s
    | some b =>
      if o ≠ postsBox b then refuse .denied s
      else if s.ctl.boxes[b.val].message ≠ [] then refuse .boxFull s
      else
        { state := raiseEvent .boxArrived (detail1 (byteFields b.val r.data.length 0 0))
                     (setBox b { s.ctl.boxes[b.val] with message := r.data } s)
          status := .ok
          data := [] }

/-- BOX_TAKE (R156). -/
def runBoxTake (o : Origin) (r : Request) (s : State) : Outcome :=
  if r.len ≠ 0 then refuse .malformed s
  else
    match boxOf r.addr with
    | none => refuse .malformed s
    | some b =>
      let m := s.ctl.boxes[b.val]
      if o = postsBox b then refuse .denied s
      else if m.message = [] then refuse .boxEmpty s
      else { state := if m.keep then s else setBox b { m with message := [] } s, status := .ok, data := m.message }

/-- BOX_RELEASE (R156). -/
def runBoxRelease (o : Origin) (r : Request) (s : State) : Outcome :=
  if r.len ≠ 0 then refuse .malformed s
  else
    match boxOf r.addr with
    | none => refuse .malformed s
    | some b =>
      let m := s.ctl.boxes[b.val]
      if o = postsBox b then refuse .denied s
      else if m.message = [] then refuse .boxEmpty s
      else { state := setBox b { m with message := [] } s, status := .ok, data := [] }

/-! ### One request -/

/-- A request executed by its kind; `resp` is the response it is answered in. -/
def runKind (k : ReqKind) (o : Origin) (resp : Option Nat) (r : Request) (s : State) : Outcome :=
  match k with
  | .read => runRead o r s
  | .write => runWrite o r s
  | .writePosted => runWrite o r s
  | .maskWrite => runMaskWrite o r s
  | .maskWritePosted => runMaskWrite o r s
  | .swapIf => runSwapIf o r s
  | .addSat => runAddSat o r s
  | .addSatPosted => runAddSat o r s
  | .commit => runCommit o r s
  | .digest => runDigest r s
  | .eventNext => runEventNext r s
  | .eventClear => runEventClear r s
  | .pairRestart => runPairRestart o r s
  | .groupRestart => runRestart .group 5 o resp r s
  | .partReset => runRestart .part 6 o resp r s
  | .boxPost => runBoxPost o r s
  | .boxTake => runBoxTake o r s
  | .boxRelease => runBoxRelease o r s

/-- A posted request that failed raises POSTED_FAILED (R153), after the VACANT_ACCESS that one refused VACANT has raised (R148;
DESIGN CHOICE, unsafe; log entry 58). -/
def postedEnds (r : Request) (x : Outcome) : State :=
  if x.status = .ok then x.state
  else raiseEvent .postedFailed (detail2 (byteFields r.code x.status.code 0 0) r.addr) x.state

/-- The record of an unposted request (R145). -/
def Request.record (r : Request) (x : Outcome) : Record := { code := r.code, tag := r.tag, status := x.status, data := x.data }

/-- A request of kind `k` executed, and its record if it gives one (R145, R153). -/
def request (k : ReqKind) (o : Origin) (resp : Option Nat) (r : Request) (s : State) : State × Option Record :=
  let x := runKind k o resp r s
  if k.posted then (settleOwed (postedEnds r x), none) else (settleOwed x.state, some (r.record x))

/-- A request of a control frame executed: a code that names no kind is answered MALFORMED (R145). -/
def frameRequest (o : Origin) (resp : Option Nat) (acc : State × List Record) (r : Request) : State × List Record :=
  match ReqKind.ofCode r.code with
  | none => (acc.1, acc.2 ++ [{ code := r.code, tag := r.tag, status := .malformed, data := [] }])
  | some k =>
    let x := request k o resp r acc.1
    (x.1, acc.2 ++ x.2.toList)

/-! ### Control frames -/

/-- The body of a response: control header, then records (R145, spec/11). -/
def responseBody (st : Status) (rs : List Record) : List Byte :=
  [byteOf 1, byteOf st.code, byteOf rs.length, 0] ++ rs.flatMap Record.bytes

/-- The response handed on: to the farm response slot, or offered to the classifier (R146). A response not admitted is
lost, and the restarts that wait for it are due (R155). -/
def handOn (o : Origin) (bytes : List Byte) (id : Nat) (s : State) : State :=
  match o with
  | .farm => s.updCtl fun c =>
      { c with respSlot := some { bytes := bytes, resp := id }, farmOrder := c.farmOrder ++ [.response] }
  | .line =>
    let (s, ok) := admitInternal bytes (some id) s
    if ok then s else responseLeft id s

/-- The response to frame `f` built and handed on, after which the frame leaves the queue (R145). Where a word of the group
record is found uncorrectable in it, the group falls at the command's end, so that a LINE response may be admitted and then
flushed (DESIGN CHOICE, unsafe; log entry 12). -/
def respond (f : CtlFrame) (st : Status) (rs : List Record) (s : State) : State :=
  let s := touchGroup 0x0F (touchGroup 0x0E s)
  let id := s.ctl.nextResp
  let bytes := ownFrame (sourceOf f.bytes) s.station (responseBody st rs)
  let s := handOn f.origin bytes id (s.updCtl fun c => { c with nextResp := c.nextResp + 1 })
  s.updCtl fun c => { c with queue := c.queue.tail }

/-- A control frame executed: malformed, or its requests in order (R144, R145). A commit that one of them makes due at an epoch
point is applied after the whole frame, so that a later request of the frame that sets the hold flag comes first (R132; DESIGN
CHOICE, unsafe; log entry 53). -/
def executeFrame (f : CtlFrame) (s : State) : State :=
  match parseControl f.bytes with
  | none => respond f .malformed [] (s.bump .malformedFrames)
  | some rs =>
    let x := rs.foldl (frameRequest f.origin (some s.ctl.nextResp)) (s, [])
    respond f .ok x.2 x.1

/-- The frame that may be taken up for execution: the head of the queue, save a FARM one while the farm response slot is
occupied (R143, R146). -/
def State.nextFrame (s : State) : Option CtlFrame :=
  match s.ctl.queue with
  | [] => none
  | f :: _ => if f.origin = .farm ∧ s.ctl.respSlot.isSome then none else some f

/-! ### The commands -/

/-- CONTROL_FRAME_EXECUTE (R145). -/
def execControlFrameExecute (t : Nat) (s : State) : Host.Outcome State Fault Refusal :=
  let s := s.atTime t
  match s.nextFrame with
  | some f => .next (finish (executeFrame f s))
  | none => .next (finish s)

/-- A request taken as a command of its own: its record joins the answers (DESIGN CHOICE, unsafe; log entry 15). -/
def single (k : ReqKind) (t : Nat) (o : Origin) (tag : Byte) (addr : Word) (len : Nat) (data : List Byte) (s : State) : State :=
  let x := request k o none { code := k.code, tag := tag, len := len, addr := addr, data := data } (s.atTime t)
  finish (x.1.updCtl fun c => { c with answers := c.answers ++ x.2.toList })

/-- READ (R150). -/
def execRead (t : Nat) (o : Origin) (tag : Byte) (addr : Word) (len : Nat) (s : State) : Host.Outcome State Fault Refusal :=
  .next (single .read t o tag addr len [] s)

/-- WRITE (R151). -/
def execWrite (t : Nat) (o : Origin) (tag : Byte) (addr : Word) (data : List Byte) (s : State) : Host.Outcome State Fault Refusal :=
  .next (single .write t o tag addr data.length data s)

/-- WRITE_POSTED (R153). -/
def execWritePosted (t : Nat) (o : Origin) (tag : Byte) (addr : Word) (data : List Byte) (s : State) : Host.Outcome State Fault Refusal :=
  .next (single .writePosted t o tag addr data.length data s)

/-- MASK_WRITE (R152). -/
def execMaskWrite (t : Nat) (o : Origin) (tag : Byte) (addr : Word) (data : List Byte) (s : State) : Host.Outcome State Fault Refusal :=
  .next (single .maskWrite t o tag addr data.length data s)

/-- MASK_WRITE_POSTED (R153). -/
def execMaskWritePosted (t : Nat) (o : Origin) (tag : Byte) (addr : Word) (data : List Byte) (s : State) : Host.Outcome State Fault Refusal :=
  .next (single .maskWritePosted t o tag addr data.length data s)

/-- SWAP_IF (R152). -/
def execSwapIf (t : Nat) (o : Origin) (tag : Byte) (addr : Word) (data : List Byte) (s : State) : Host.Outcome State Fault Refusal :=
  .next (single .swapIf t o tag addr data.length data s)

/-- ADD_SAT (R152). -/
def execAddSat (t : Nat) (o : Origin) (tag : Byte) (addr : Word) (data : List Byte) (s : State) : Host.Outcome State Fault Refusal :=
  .next (single .addSat t o tag addr data.length data s)

/-- ADD_SAT_POSTED (R153). -/
def execAddSatPosted (t : Nat) (o : Origin) (tag : Byte) (addr : Word) (data : List Byte) (s : State) : Host.Outcome State Fault Refusal :=
  .next (single .addSatPosted t o tag addr data.length data s)

/-- COMMIT (R131). -/
def execCommit (t : Nat) (o : Origin) (tag : Byte) (addr : Word) (data : List Byte) (s : State) : Host.Outcome State Fault Refusal :=
  .next (single .commit t o tag addr data.length data s)

/-- DIGEST (R139). -/
def execDigest (t : Nat) (o : Origin) (tag : Byte) (addr : Word) (data : List Byte) (s : State) : Host.Outcome State Fault Refusal :=
  .next (single .digest t o tag addr data.length data s)

/-- EVENT_NEXT (R160). -/
def execEventNext (t : Nat) (o : Origin) (tag : Byte) (addr : Word) (data : List Byte) (s : State) : Host.Outcome State Fault Refusal :=
  .next (single .eventNext t o tag addr data.length data s)

/-- EVENT_CLEAR (R160). -/
def execEventClear (t : Nat) (o : Origin) (tag : Byte) (addr : Word) (data : List Byte) (s : State) : Host.Outcome State Fault Refusal :=
  .next (single .eventClear t o tag addr data.length data s)

/-- PAIR_RESTART (R20). -/
def execPairRestart (t : Nat) (o : Origin) (tag : Byte) (addr : Word) (data : List Byte) (s : State) : Host.Outcome State Fault Refusal :=
  .next (single .pairRestart t o tag addr data.length data s)

/-- GROUP_RESTART (R155). -/
def execGroupRestart (t : Nat) (o : Origin) (tag : Byte) (addr : Word) (data : List Byte) (s : State) : Host.Outcome State Fault Refusal :=
  .next (single .groupRestart t o tag addr data.length data s)

/-- PART_RESET (R155). -/
def execPartReset (t : Nat) (o : Origin) (tag : Byte) (addr : Word) (data : List Byte) (s : State) : Host.Outcome State Fault Refusal :=
  .next (single .partReset t o tag addr data.length data s)

/-- BOX_POST (R156). -/
def execBoxPost (t : Nat) (o : Origin) (tag : Byte) (addr : Word) (data : List Byte) (s : State) : Host.Outcome State Fault Refusal :=
  .next (single .boxPost t o tag addr data.length data s)

/-- BOX_TAKE (R156). -/
def execBoxTake (t : Nat) (o : Origin) (tag : Byte) (addr : Word) (data : List Byte) (s : State) : Host.Outcome State Fault Refusal :=
  .next (single .boxTake t o tag addr data.length data s)

/-- BOX_RELEASE (R156). -/
def execBoxRelease (t : Nat) (o : Origin) (tag : Byte) (addr : Word) (data : List Byte) (s : State) : Host.Outcome State Fault Refusal :=
  .next (single .boxRelease t o tag addr data.length data s)

end Sys2Proof.Machine
end

