-- ==== Sys2Proof/Machine/Events.lean ====
section
/-! DEFINITION. The notice interval's end (R161). -/

namespace Sys2Proof.Machine

/-- A notice is owed and the interval end has passed (R161). -/
def State.noticeDue (s : State) : Bool := s.events.owed && s.noticeAllowed

/-- The interval end's effect: nothing is owed any more, and a notice is sent if a kind is still pending and the notice
sides allow it (R161). The word of the sides and the interval is met once the notice's time has been set, so that a kind
newly pending in that read owes the next notice. -/
def intervalEnd (s : State) : State :=
  let s := s.updEvents fun e => { e with owed := false }
  if s.anyPending && decide (s.noticeSides ≠ 0) then sendNotice (touchGroup 0x12 (stampNotice s)) else touchGroup 0x12 s

/-- NOTICE_INTERVAL_END (R161). -/
def execNoticeIntervalEnd (t : Nat) (s : State) : Host.Outcome State Fault Refusal :=
  let s := s.atTime t
  if s.noticeDue then .next (finish (intervalEnd s)) else .next (finish s)

end Sys2Proof.Machine
end

