-- ==== Sys2Proof/Machine/Resets.lean ====
section
/-! DEFINITION. The power-up reset (R6), the group restart (R125, R126) and the part reset (R127). -/

namespace Sys2Proof.Machine

/-- The farm port after a reset: the rest of a frame being received is ignored to its end (R73). -/
def FarmPort.afterReset (f : FarmPort) (wasReceiving : Option RxFrame) : FarmPort :=
  { f with rx := wasReceiving.map fun r => { RxFrame.start with count := r.count, kind := .abandoned } }

/-- Every block at its power-up values, the straps read, the local time base at `now`; the command queue and the count of
free values drawn are the model's own and stay (R6, R127). -/
def resetAt (now : Nat) (straps : BitVec 5) (s : State) : State :=
  let r := State.powerUp straps
  { r with now := now, farm := r.farm.afterReset s.farm.rx, freeCount := s.freeCount, pending := s.pending }

/-- POWER_UP_RESET (R6): the local time base counts from the end of the reset. -/
def execPowerUpReset (straps : BitVec 5) (s : State) : Host.Outcome State Fault Refusal :=
  .next (resetAt 0 straps s)

/-! ### Group restart -/

/-- A pair's part: DOWN with cause GROUP_RESTART unless it is in OFF, and its guard cleared to unlearnt (R11, R54). -/
def restartOne (s : State) (p : PairIx) : State :=
  let s := if (s.pair p).state = .off then s else toDown p .groupRestart s
  s.updPair p fun pp => { pp with guard := Guard.unlearnt }

/-- GID or W copied from its shadow word; an uncorrectable one is not (R126). -/
def copyRestartBound (i : Fin 19) (s : State) : State :=
  (touch (.group .shadow i) s).updTables fun t => (t.copyWord (.group .shadow i) (.group .active i)).1

/-- A group restart taken whole (R125, R126): from the flush on the group is DOWN, so that no internal frame enters a class
queue any more (R65). GROUP_DOWN is raised last, after what the copy of GID and W has found (DESIGN CHOICE, unsafe; log entry 52). -/
def groupRestartNow (s : State) : State :=
  let s := (allPairs.foldl restartOne s).setGroup false
  let s := (flushClassifier (clearDistributor s)).updDist fun d => { d with nextGsn := 0 }
  let s := copyRestartBound 1 (copyRestartBound 0 (s.updReas Reassembler.toIdle))
  raiseGroupDown .restart (touchGroup 0x02 s)

/-- The first entry of the restart list that is due (R155). -/
def ControlEngine.dueRestart (c : ControlEngine) : Option RestartKind :=
  (c.restarts.find? fun r => r.awaits.isNone).map Restart.kind

/-- The restart list without its first due entry (R157). -/
def dropDue : List Restart → List Restart
  | [] => []
  | r :: rest => if r.awaits.isNone then rest else r :: dropDue rest

/-- GROUP_RESTART_EFFECT (R125, R155). -/
def execGroupRestartEffect (t : Nat) (s : State) : Host.Outcome State Fault Refusal :=
  let s := s.atTime t
  if s.ctl.dueRestart = some .group then
    .next (finish (groupRestartNow (s.updCtl fun c => { c with restarts := dropDue c.restarts })))
  else .next (finish s)

/-- PART_RESET_EFFECT (R127, R155): the local time base keeps counting. -/
def execPartResetEffect (t : Nat) (straps : BitVec 5) (s : State) : Host.Outcome State Fault Refusal :=
  let s := s.atTime t
  if s.ctl.dueRestart = some .part then .next (resetAt s.now straps s) else .next (finish s)

end Sys2Proof.Machine
end

