-- ==== Sys2Proof/Machine/Dispatch.lean ====
section
/-! DEFINITION. The effect of each command, one arm per row of spec/opcode_table.json. -/

namespace Sys2Proof.Machine

/-- The effect of a command on everything but the queue of waiting commands. -/
def exec (i : Instr) (s : State) : Host.Outcome State Fault Refusal :=
  match i with
  | .powerUpReset straps => Sys2Proof.Machine.execPowerUpReset straps s
  | .trainStart t p => Sys2Proof.Machine.execTrainStart t p s
  | .up t p u d => Sys2Proof.Machine.execUp t p u d s
  | .rate t p u d => Sys2Proof.Machine.execRate t p u d s
  | .down t p => Sys2Proof.Machine.execDown t p s
  | .ready t p => Sys2Proof.Machine.execReady t p s
  | .received t p bytes => Sys2Proof.Machine.execReceived t p bytes s
  | .probationTimeExpiry t p => Sys2Proof.Machine.execProbationTimeExpiry t p s
  | .silence t p => Sys2Proof.Machine.execSilence t p s
  | .replayTimeout t p => Sys2Proof.Machine.execReplayTimeout t p s
  | .drainLimit t p => Sys2Proof.Machine.execDrainLimit t p s
  | .guardWindowOpen t p => Sys2Proof.Machine.execGuardWindowOpen t p s
  | .guardWindowEnd t p => Sys2Proof.Machine.execGuardWindowEnd t p s
  | .farmByteArrival t b => Sys2Proof.Machine.execFarmByteArrival t b s
  | .farmFrameEnd t => Sys2Proof.Machine.execFarmFrameEnd t s
  | .pauseEnd t => Sys2Proof.Machine.execPauseEnd t s
  | .farmTransmitStart t => Sys2Proof.Machine.execFarmTransmitStart t s
  | .farmTransmitEnd t => Sys2Proof.Machine.execFarmTransmitEnd t s
  | .rerouteAgeLimit t => Sys2Proof.Machine.execRerouteAgeLimit t s
  | .holdDeadline t => Sys2Proof.Machine.execHoldDeadline t s
  | .resyncDeadline t => Sys2Proof.Machine.execResyncDeadline t s
  | .suspensionEnd t => Sys2Proof.Machine.execSuspensionEnd t s
  | .commitApply t => Sys2Proof.Machine.execCommitApply t s
  | .digestDone t => Sys2Proof.Machine.execDigestDone t s
  | .controlFrameExecute t => Sys2Proof.Machine.execControlFrameExecute t s
  | .read t o tag addr len => Sys2Proof.Machine.execRead t o tag addr len s
  | .write t o tag addr data => Sys2Proof.Machine.execWrite t o tag addr data s
  | .writePosted t o tag addr data => Sys2Proof.Machine.execWritePosted t o tag addr data s
  | .maskWrite t o tag addr data => Sys2Proof.Machine.execMaskWrite t o tag addr data s
  | .maskWritePosted t o tag addr data => Sys2Proof.Machine.execMaskWritePosted t o tag addr data s
  | .swapIf t o tag addr data => Sys2Proof.Machine.execSwapIf t o tag addr data s
  | .addSat t o tag addr data => Sys2Proof.Machine.execAddSat t o tag addr data s
  | .addSatPosted t o tag addr data => Sys2Proof.Machine.execAddSatPosted t o tag addr data s
  | .commit t o tag addr data => Sys2Proof.Machine.execCommit t o tag addr data s
  | .digest t o tag addr data => Sys2Proof.Machine.execDigest t o tag addr data s
  | .eventNext t o tag addr data => Sys2Proof.Machine.execEventNext t o tag addr data s
  | .eventClear t o tag addr data => Sys2Proof.Machine.execEventClear t o tag addr data s
  | .pairRestart t o tag addr data => Sys2Proof.Machine.execPairRestart t o tag addr data s
  | .groupRestart t o tag addr data => Sys2Proof.Machine.execGroupRestart t o tag addr data s
  | .partReset t o tag addr data => Sys2Proof.Machine.execPartReset t o tag addr data s
  | .boxPost t o tag addr data => Sys2Proof.Machine.execBoxPost t o tag addr data s
  | .boxTake t o tag addr data => Sys2Proof.Machine.execBoxTake t o tag addr data s
  | .boxRelease t o tag addr data => Sys2Proof.Machine.execBoxRelease t o tag addr data s
  | .shadowTableWrite t addr v => Sys2Proof.Machine.execShadowTableWrite t addr v s
  | .gateRecordWrite t v => Sys2Proof.Machine.execGateRecordWrite t v s
  | .eccStatusWrite t second v => Sys2Proof.Machine.execEccStatusWrite t second v s
  | .eventEnableWrite t v => Sys2Proof.Machine.execEventEnableWrite t v s
  | .keepFlagWrite t b v => Sys2Proof.Machine.execKeepFlagWrite t b v s
  | .counterWrite t addr v => Sys2Proof.Machine.execCounterWrite t addr v s
  | .groupRestartEffect t => Sys2Proof.Machine.execGroupRestartEffect t s
  | .partResetEffect t straps => Sys2Proof.Machine.execPartResetEffect t straps s
  | .noticeIntervalEnd t => Sys2Proof.Machine.execNoticeIntervalEnd t s
  | .tableMemoryError t addr two => Sys2Proof.Machine.execTableMemoryError t addr two s

end Sys2Proof.Machine
end

