-- ==== Sys2Proof/Machine/Due.lean ====
section
/-! DEFINITION. What happens at a tick with no command waiting (DESIGN CHOICE, unsafe; log entry 2): the first internal step that is due at the
present moment, in the order of `dueList`. The end of a transmission is not among them: the manual fixes no moment. -/

namespace Sys2Proof.Machine

/-- A command that is due where a condition holds. -/
def dueIf (b : Bool) (c : Instr) : List Instr := if b then [c] else []

/-- The strap pins as last read. -/
def State.straps (s : State) : BitVec 5 := BitVec.ofNat 5 (s.digit.toNat + 16 * bit s.farm.fast)

/-- The restart whose response has left (R155). -/
def dueRestarts (s : State) : List Instr :=
  match s.ctl.dueRestart with
  | some .group => [.groupRestartEffect s.now]
  | some .part => [.partResetEffect s.now s.straps]
  | none => []

/-- A pair's deadlines that have passed (R9, R13, R32, R42, R48, R50). -/
def duePair (s : State) (p : PairIx) : List Instr :=
  dueIf (s.mayActivate p) (.probationTimeExpiry s.now p) ++ dueIf (s.silenceDue p) (.silence s.now p)
    ++ dueIf (s.replayDue p).isSome (.replayTimeout s.now p) ++ dueIf (s.drainDue p) (.drainLimit s.now p)
    ++ dueIf (s.windowEnds p).isSome (.guardWindowEnd s.now p) ++ dueIf (s.windowOpens p).isSome (.guardWindowOpen s.now p)

/-- A running digest has used its 2 µs for each word (R140). -/
def State.digestOverdue (s : State) : Bool :=
  decide (s.tables.digest.state = .running) && decide (s.tables.digest.began + 2 * s.tables.digest.words ≤ s.now)

/-- The internal steps due now. -/
def dueList (s : State) : List Instr :=
  dueRestarts s ++ dueIf s.epochPoint (.commitApply s.now) ++ dueIf s.nextFrame.isSome (.controlFrameExecute s.now)
    ++ dueIf s.pauseOver (.pauseEnd s.now) ++ dueIf s.canTransmit.isSome (.farmTransmitStart s.now)
    ++ allPairs.flatMap (duePair s) ++ dueIf s.headAged (.rerouteAgeLimit s.now) ++ dueIf s.holdDue (.holdDeadline s.now)
    ++ dueIf s.resyncDue.isSome (.resyncDeadline s.now) ++ dueIf s.suspensionDue (.suspensionEnd s.now)
    ++ dueIf s.digestOverdue (.digestDone s.now) ++ dueIf s.noticeDue (.noticeIntervalEnd s.now)

end Sys2Proof.Machine
end

