-- ==== Sys2Proof/Safety.lean ====
section
/-! DEFINITION. The terms claims use: sound table memory, what a placement attempt may change, what reporting an event may
change, and the invariants of a run. -/

namespace Sys2Proof.Machine

/-- Table memory without wrong bits, damage marks or findings: every read returns the value stored (spec/08). -/
structure TableStore.Sound (t : TableStore) : Prop where
  words : ∀ r : TRef, (t.get r).wrong = .none
  group : t.groupDamaged = false
  pairs : ∀ p : PairIx, t.pairDamaged[p.val] = false
  cls : ∀ i : Fin 64, t.clsDamaged[i.val] = false
  gate : t.gateLost = false

/-! ### The distributor's work, move by move -/

/-- Pair `p` is eligible and has the least projected delivery time for `size` wire bytes, the lowest number of equals
(R85, R87). -/
def LeastPair (s : State) (size : Nat) (p : PairIx) : Prop :=
  eligible s p = true ∧ ∀ q, eligible s q = true →
    s.projected size p < s.projected size q ∨ (s.projected size p = s.projected size q ∧ p ≤ q)

/-- A candidate of `size` wire bytes is placed on pair `p`: the least projected delivery time is within the skew budget
(R81, R87). -/
def MayPlace (s : State) (size : Nat) (p : PairIx) : Prop := LeastPair s size p ∧ s.projected size p ≤ s.skewBudget

/-- A candidate of `size` wire bytes waits for reason `w` (R81). -/
def HoldsFor (s : State) (size : Nat) (w : WaitReason) : Prop :=
  (w = .noPair ∧ ∀ p, eligible s p = false) ∨ (w = .skew ∧ ∃ p, LeastPair s size p ∧ s.skewBudget < s.projected size p)

/-- No held GSN lies more than 8190 behind the next GSN (R79). -/
def SpanFree (s : State) : Prop := ∀ g ∈ s.heldGsns, (s.dist.nextGsn - g).toNat ≤ 8190

/-- The wait reason of an attempt that cannot go on: of the reroute list's head, of the pending fragment, or of a cut that is
due (R80, R81). -/
def WaitsFor (s : State) (w : WaitReason) : Prop :=
  match s.dist.reroute with
  | f :: _ => HoldsFor s (f.payload.length + 10) w
  | [] =>
    match s.dist.fip.bind Fip.pendingFrag with
    | some f => (¬SpanFree s ∧ w = .span) ∨ (SpanFree s ∧ HoldsFor s (f.payload.length + 10) w)
    | none => w = if s.waitsForSlot then .slot else .none

/-- The record of a fragment just cut from frame `f` (R75, R76). -/
def Fip.fragment (f : Fip) (payload : List Byte) (e void : Bool) (resp : Option Nat) : Frag :=
  { payload := payload, b := !f.cutAny, e := e, cls := f.cls, void := void, gsn := none, firstPlaced := none, rrt := false
    resp := resp }

/-- One frame taken or one fragment cut. -/
inductive DistCut (s : State) : State → Prop where
  /-- With no frame in progress and no commit to be applied first, the oldest frame of the highest class that offers one is
  taken, with the class's F (R66, R76, R132). -/
  | take (c : ClassIx) (idle : s.dist.fip = none) (noCommit : s.epochPoint = false) (offered : offers s c = true)
      (highest : ∀ d, c < d → offers s d = false) :
      DistCut s (s.updDist fun d =>
        { d with fip := some { cls := c, size := s.fragSize c, cutAny := false, placedAny := false, pendingFrag := none
                               finalCut := false, voidTail := none } })
  /-- A non-final fragment of F bytes, with at least one stored byte beyond it (R67, R70, R76). -/
  | part (f : Fip) (q : QFrame) (rest : List QFrame) (held : s.dist.fip = some f) (placed : f.pendingFrag = none)
      (more : f.finalCut = false) (sound : f.voidTail = none) (queue : s.queue f.cls = q :: rest)
      (enough : f.size < q.uncut.length) (slot : 0 < s.freeSlots) :
      DistCut s ((s.setQueue f.cls ({ q with cut := q.cut + f.size, uncut := q.uncut.drop f.size } :: rest)).updDist fun d =>
        { d with fip := some { f with cutAny := true
                                      pendingFrag := some (f.fragment (q.uncut.take f.size) false false none) } })
  /-- The final fragment of a frame that has ended good: what remains, at most F bytes; the record leaves (R68, R70, R76). -/
  | last (f : Fip) (q : QFrame) (rest : List QFrame) (held : s.dist.fip = some f) (placed : f.pendingFrag = none)
      (more : f.finalCut = false) (sound : f.voidTail = none) (queue : s.queue f.cls = q :: rest) (ended : q.ended = true)
      (remains : q.uncut.length ≤ f.size) (slot : 0 < s.freeSlots) :
      DistCut s ((s.setQueue f.cls rest).updDist fun d =>
        { d with fip := some { f with cutAny := true, finalCut := true
                                      pendingFrag := some (f.fragment q.uncut true false q.resp) } })
  /-- The void final fragment of a frame that has failed; the record leaves (R69, R70, R76). -/
  | void (f : Fip) (tail : List Byte) (held : s.dist.fip = some f) (placed : f.pendingFrag = none)
      (more : f.finalCut = false) (failed : f.voidTail = some tail) (slot : 0 < s.freeSlots) :
      DistCut s (((s.setQueue f.cls (s.queue f.cls).tail).updDist fun d =>
        { d with fip := some { f with cutAny := true, finalCut := true, voidTail := none
                                      pendingFrag := some (f.fragment tail true true none) } }).bump .voidFinals)

/-- One fragment placed, or one head of the reroute list discarded for age. -/
inductive DistPlace (s : State) : State → Prop where
  /-- The head of the reroute list exceeds the age limit: its slot is freed and the discard counted (R83). -/
  | discard (f : Frag) (rest : List Frag) (head : s.dist.reroute = f :: rest) (aged : s.rerouteAge < ageOf s f) :
      DistPlace s ((fragmentGone f (s.updDist fun d => { d with reroute := rest })).bump .ageDiscards)
  /-- The head of the reroute list is placed again, with RRT (R80, R84, R87). -/
  | again (f : Frag) (rest : List Frag) (p : PairIx) (head : s.dist.reroute = f :: rest) (fresh : ageOf s f ≤ s.rerouteAge)
      (chosen : MayPlace s (f.payload.length + 10) p) :
      DistPlace s (((s.updDist fun d => { d with reroute := rest }).updPair p fun pp =>
        { pp with txq := pp.txq ++ [{ f with rrt := true }] }).bump .rePlaced)
  /-- With the reroute list empty the pending fragment is placed: it takes the next GSN and the moment, and its frame ends
  with its final fragment (R76, R78, R79, R80, R84, R87). -/
  | new (f : Fip) (x : Frag) (p : PairIx) (none : s.dist.reroute = []) (held : s.dist.fip = some f)
      (pending : f.pendingFrag = some x) (span : SpanFree s) (chosen : MayPlace s (x.payload.length + 10) p) :
      DistPlace s (((s.updDist fun d =>
        { d with nextGsn := d.nextGsn + 1
                 fip := if f.finalCut then .none else some { f with pendingFrag := .none, placedAny := true } }).updPair p
        fun pp => { pp with txq := pp.txq ++ [{ x with gsn := some s.dist.nextGsn, firstPlaced := some s.now }] }).bump .placed)

/-- `t` is `s` after nothing but the distributor's work on sound table memory, move by move: frames taken and cut, fragments
placed, list heads discarded, wait reasons recorded; with the group DOWN the wait reason alone becomes NONE (R66, R76,
R78..R87). -/
inductive OnlyPlaced (s : State) : State → Prop where
  | refl : OnlyPlaced s s
  | cut {t u : State} (before : OnlyPlaced s t) (up : t.groupUp = true) (move : DistCut t u) : OnlyPlaced s u
  | place {t u : State} (before : OnlyPlaced s t) (up : t.groupUp = true) (move : DistPlace t u) : OnlyPlaced s u
  | hold {t : State} (w : WaitReason) (before : OnlyPlaced s t) (up : t.groupUp = true) (reason : WaitsFor t w) :
      OnlyPlaced s (recordHold w t)
  | rest {t : State} (before : OnlyPlaced s t) (down : t.groupUp = false) :
      OnlyPlaced s (t.updDist fun d => { d with wait := .none })

/-- The counters an internal frame offered to the classifier may raise (R65). -/
def offerCounters : List GroupCtr := [.admitted 3, .queueFull 3, .groupDownDrops]

/-- `t` is `s` after nothing but reports to the event unit, notices and the error correction's work (R135..R137, R158,
R161, R162): a notice may join class queue 3 and take the farm notice slot. -/
structure OnlyReported (s t : State) : Prop where
  now : t.now = s.now
  digit : t.digit = s.digit
  pairs : t.pairs = s.pairs
  farm : t.farm = s.farm
  dist : t.dist = s.dist
  reas : t.reas = s.reas
  groupUp : t.groupUp = s.groupUp
  queues : ∀ c, c ≠ 3 → t.queue c = s.queue c
  offered : ∃ new, t.queue 3 = s.queue 3 ++ new
  counters : ∀ c, c ∉ offerCounters → t.counter c = s.counter c
  ctlQueue : t.ctl.queue = s.ctl.queue
  ctlResp : t.ctl.respSlot = s.ctl.respSlot
  nextResp : t.ctl.nextResp = s.ctl.nextResp
  answers : t.ctl.answers = s.ctl.answers
  restarts : t.ctl.restarts = s.ctl.restarts
  boxes : t.ctl.boxes = s.ctl.boxes
  freeCount : t.freeCount = s.freeCount
  pending : t.pending = s.pending

/-- Ranges the manual states for the pair record and the burst guard (R3, R5, R18, R45). -/
structure PairPort.InRange (pp : PairPort) : Prop where
  upRate : pp.upRate = 0 ∨ (64 ≤ pp.upRate ∧ pp.upRate ≤ 100000)
  downRate : pp.downRate = 0 ∨ (64 ≤ pp.downRate ∧ pp.downRate ≤ 100000)
  samples : pp.samples ≤ 255
  latency : pp.latency ≤ 20000
  confidence : pp.guard.confidence ≤ 7
  period : pp.guard.period = 0 ∨ (200 ≤ pp.guard.period ∧ pp.guard.period ≤ 5000)

/-- The bounds the manual states for what the part holds: pair records (R5, R45), the control frame queue (R143) and the
mailboxes (R156). -/
structure State.InRange (s : State) : Prop where
  pairs : ∀ p, (s.pair p).InRange
  ctlQueue : s.ctl.queue.length ≤ 4
  boxes : ∀ b : Fin 2, s.ctl.boxes[b.val].message.length ≤ 64

/-- No pair out of service holds a fragment, and with the group DOWN nobody does: no transmit queue, retry store or
reroute list, and no frame is in progress (R43, R122). -/
structure State.EmptyWhenDown (s : State) : Prop where
  outOfService : ∀ p, (s.pair p).state.running = false → (s.pair p).txq = [] ∧ (s.pair p).store = []
  stores : s.groupUp = false → ∀ p, (s.pair p).txq = [] ∧ (s.pair p).store = []
  reroute : s.groupUp = false → s.dist.reroute = []
  inProgress : s.groupUp = false → s.dist.fip = none

/-- Nothing holds more than the part has: fragments in the slots of the upstream fragment store (R74), frames in the
blocks of upstream queue memory (R63), window entries and queued frames in the blocks of downstream memory (R96). -/
structure State.WithinMemory (s : State) : Prop where
  slots : s.heldSlots ≤ Config.fragmentSlots
  upstream : s.classBlocks 0 + s.classBlocks 1 + s.classBlocks 2 + s.classBlocks 3 ≤ Config.queueBlocks
  downstream : (s.reas.window.map Entry.blocks).sum + (s.farm.outQueue.map OutFrame.blocks).sum ≤ Config.downstreamBlocks

/-- The window keeps its rule (R101): no two entries share a GSN, and in REASSEMBLE every entry lies 0 to W - 1 ahead of the head, W
the one in use; both stored words of W, and the W in use in REASSEMBLE, are within its range (R116, R130). -/
structure State.WindowKept (s : State) : Prop where
  words : ∀ c : Copy, 64 ≤ fieldAt (s.tables.get (.group c 1)).val 0 11 ∧ fieldAt (s.tables.get (.group c 1)).val 0 11 ≤ 1024
  distinct : (s.reas.window.map Entry.gsn).Nodup
  size : s.reas.state = .reassemble → 64 ≤ s.reas.size ∧ s.reas.size ≤ 1024
  span : s.reas.state = .reassemble → ∃ h, s.reas.head = some h ∧ ∀ e ∈ s.reas.window, (e.gsn - h).toNat < s.reas.size

/-- The pair port `pp'` has left service from `pp` with this cause, told its transceiver `cmd`, and holds nothing: link
state reset, pending ECHO and owed acknowledgement dropped; rates, latency, guard and counters kept (R11, R12, R13, R43).
-/
structure LeftService (pp pp' : PairPort) (st : PairState) (cause : Cause) (cmd : XcvrCmd) : Prop where
  state : pp'.state = st
  cause : pp'.cause = cause
  txq : pp'.txq = []
  store : pp'.store = []
  replay : pp'.replay = none
  mark : pp'.rewindMark = none
  nextTxn : pp'.nextTxn = 0
  rxn : pp'.rxn = 0
  rx : pp'.rx = .inStep
  ldg : pp'.ldg = none
  echo : pp'.echo = none
  owedAck : pp'.owedAck = false
  bar : pp'.bar = false
  drain : pp'.drain = none
  sent : pp'.sent = pp.sent ++ [cmd]
  rates : pp'.upRate = pp.upRate ∧ pp'.downRate = pp.downRate
  latency : pp'.latency = pp.latency ∧ pp'.samples = pp.samples
  guard : pp'.guard = pp.guard
  counters : pp'.counters = pp.counters

/-- What a report or deadline of one pair makes of another pair `q`'s port: fragments placed on it, each a new one placed at that
moment or one of the reroute list with RRT (R78, R84, R87); or, where the group falls, its stores emptied and any replay ended
(R43, R122), which ends a drain (R13, R124). -/
inductive OtherPairKept (s t : State) (q : PairIx) : Prop where
  | placed (fs : List Frag) (port : t.pair q = { s.pair q with txq := (s.pair q).txq ++ fs })
      (each : ∀ x ∈ fs, (x.gsn.isSome = true ∧ x.firstPlaced = some t.now) ∨ x.rrt = true)
  | emptied (fell : s.groupUp = true ∧ t.groupUp = false) (state : (s.pair q).state ≠ .draining)
      (port : t.pair q = { s.pair q with txq := [], store := [], replay := none })
  | drained (fell : s.groupUp = true ∧ t.groupUp = false) (state : (s.pair q).state = .draining)
      (left : LeftService (s.pair q) (t.pair q) .off .drained .quiet)
      (sampled : (t.pair q).sampled = (s.pair q).sampled)
      (times : (t.pair q).probStart = (s.pair q).probStart ∧ (t.pair q).lastHeard = (s.pair q).lastHeard
        ∧ (t.pair q).lastHandoff = (s.pair q).lastHandoff ∧ (t.pair q).probeDue = (s.pair q).probeDue
        ∧ (t.pair q).lastProbe = (s.pair q).lastProbe)

/-- A pair port that has handed one fragment with these header fields to its transceiver (R28). -/
def PairPort.handed (pp : PairPort) (f : FragFields) (void : Bool) (now : Nat) : PairPort :=
  { (pp.bump .handed) with sent := pp.sent ++ [.send (f.bytes void)], owedAck := false, lastHandoff := now }

/-- The header of a FILLER, PROBE or ECHO handed out: ACKN is RXN less 1, RRQ tells RETRY_ASK (R23, R28). -/
def PairPort.plainHeader (pp : PairPort) (kind : FragKind) (num gid : Nat) : FragFields :=
  { kind := kind, b := false, e := false, cls := 0, rrt := false, rrq := decide (pp.rx = .retryAsk), num := num, txn := 0
    ackn := pp.rxn - 1, len := 0, gid := gid, payload := [] }

/-- The header of a DATA fragment handed out as `txn`: its own B, E, CLS, RRT, GSN and LEN, and the same fresh fields (R23, R28,
R35). -/
def PairPort.dataHeader (pp : PairPort) (f : Frag) (txn : Txn) (gid : Nat) : FragFields :=
  { kind := .data, b := f.b, e := f.e, cls := f.cls.val, rrt := f.rrt, rrq := decide (pp.rx = .retryAsk)
    num := (f.gsn.getD 0).toNat * 4, txn := txn, ackn := pp.rxn - 1, len := f.payload.length, gid := gid, payload := f.payload }

/-- The period and confidence `P`, `c` that an unlocked guard has after a burst start at `t` ms (R46). -/
inductive Guard.Learns (g : Guard) (t P c : Nat) : Prop where
  | first (undefined : g.lastStart = none) (period : P = g.period) (confidence : c = g.confidence)
  | outOfRange (l : Nat) (last : g.lastStart = some l) (range : t - l < 200 ∨ 5000 < t - l) (period : P = 0) (confidence : c = 0)
  | firstPeriod (l : Nat) (last : g.lastStart = some l) (range : 200 ≤ t - l ∧ t - l ≤ 5000) (unlearnt : g.period = 0)
      (period : P = t - l) (confidence : c = 0)
  | agrees (l : Nat) (last : g.lastStart = some l) (range : 200 ≤ t - l ∧ t - l ≤ 5000) (learnt : g.period ≠ 0)
      (near : (t - l) - g.period + (g.period - (t - l)) ≤ g.period / 16)
      (period : P = (3 * g.period + (t - l)) / 4) (confidence : c = min 7 (g.confidence + 1))
  | differs (l : Nat) (last : g.lastStart = some l) (range : 200 ≤ t - l ∧ t - l ≤ 5000) (learnt : g.period ≠ 0)
      (far : g.period / 16 < (t - l) - g.period + (g.period - (t - l))) (period : P = t - l) (confidence : c = 0)

/-- The ACTIVE pairs other than `p`. -/
def State.othersActive (s : State) (p : PairIx) : Nat :=
  (allPairs.filter fun q => decide (q ≠ p) && decide ((s.pair q).state = .active)).length

/-- What becomes of the fragments `fs` that pair `p` gives up on leaving ACTIVE or service (R10, R11, R89): with the group UP
and still so without the pair, they are merged into the reroute list one after another and counted, and only the distributor's
work follows; where the pair takes the group DOWN with it, nobody holds a fragment any more (R122). -/
structure GaveBack (s : State) (p : PairIx) (fs : List Frag) (t : State) : Prop where
  rerouted : s.groupUp = true → s.minPairs ≤ s.othersActive p →
    ∃ u, (∀ q, q ≠ p → u.pair q = s.pair q)
      ∧ u.dist = { s.dist with reroute := u.dist.reroute }
      ∧ u.dist.reroute = fs.foldl (fun l f => insertByGsn s.dist.nextGsn f l) s.dist.reroute
      ∧ u.counter .rerouted = (s.bumpBy .rerouted fs.length).counter .rerouted
      ∧ OnlyPlaced u t
  discarded : s.groupUp = true → s.othersActive p < s.minPairs →
    t.groupUp = false ∧ t.dist.reroute = [] ∧ t.dist.fip = none ∧ ∀ q, (t.pair q).txq = [] ∧ (t.pair q).store = []

/-- PAIR_DOWN has been raised for pair `p`, with its cause and the state it left (R11); a drain that the group's fall ends
raises it again for that pair. -/
def PairDownRaised (s : State) (p : PairIx) (cause : Cause) (t : State) : Prop :=
  (∀ q, q ≠ p → (s.pair q).state ≠ .draining) →
    t.event .pairDown = (s.event .pairDown).occur (detail1 (byteFields p.val cause.code (s.pair p).state.code 0))

/-- A class queue's frame still arriving, its last one, fails with these bytes left to send (R64, R69): it leaves its queue;
the distributor's frame in progress ends where none of its fragments has been placed, and otherwise the record waits, ended,
for a void final fragment of at most F of those bytes. -/
inductive ArrivingFailed (s : State) (c : ClassIx) (tail : List Byte) : State → Prop where
  | waiting (before : List QFrame) (a : QFrame) (queue : s.queue c = before ++ [a]) (sound : ∀ q ∈ before, q.ended = true)
      (arriving : a.ended = false)
      (free : before ≠ [] ∨ ∀ f, s.dist.fip = some f → f.cls = c → f.finalCut = true ∨ f.voidTail ≠ none) :
      ArrivingFailed s c tail (s.setQueue c before)
  | dropped (f : Fip) (a : QFrame) (queue : s.queue c = [a]) (arriving : a.ended = false) (held : s.dist.fip = some f)
      (cls : f.cls = c) (more : f.finalCut = false) (sound : f.voidTail = none) (unplaced : f.placedAny = false) :
      ArrivingFailed s c tail ((s.setQueue c []).updDist fun d => { d with fip := none })
  | void (f : Fip) (a : QFrame) (queue : s.queue c = [a]) (arriving : a.ended = false) (held : s.dist.fip = some f)
      (cls : f.cls = c) (more : f.finalCut = false) (sound : f.voidTail = none) (placed : f.placedAny = true) :
      ArrivingFailed s c tail ((s.setQueue c [{ a with ended := true, failed := true }]).updDist fun d =>
        { d with fip := some { f with voidTail := some (tail.take f.size) } })

/-! ### The reassembler's runs -/

/-- `es` are the window's entries at `h`, `h` + 1, …, not empty: the first has B, no later one has, and none but the last may
have E (R105). -/
structure Reassembler.IsRun (r : Reassembler) (h : Gsn) (es : List Entry) : Prop where
  nonempty : es ≠ []
  entries : ∀ i (hi : i < es.length), r.entry (h + BitVec.ofNat 14 i) = some es[i]
  first : ∀ (hi : 0 < es.length), es[0].b = true
  later : ∀ i (hi : i < es.length), 0 < i → es[i].b = false
  inner : ∀ i (hi : i < es.length), i + 1 < es.length → es[i].e = false

/-- The window without a run, and the head past it (R105, R106). -/
def Reassembler.after (r : Reassembler) (h : Gsn) (es : List Entry) : Reassembler :=
  { r with window := r.window.filter (fun e => ∀ x ∈ es, e.gsn ≠ x.gsn), head := some (h + BitVec.ofNat 14 es.length) }

/-- A force-advance to the target `T`, step by step for as long as the head is behind it (R103): the frame in progress at the head
discarded whole and the head moved to N; a FORCED gap at a missing head, head processing as part of it (R110); or head processing
of any other entry at the head. -/
inductive Advances (T : Gsn) : State → State → Prop where
  | reached {s : State} (h : Gsn) (head : s.reas.head = some h) (past : gsnAhead T h = false) : Advances T s s
  | frame {s u : State} (h : Gsn) (es : List Entry) (head : s.reas.head = some h) (behind : gsnAhead T h = true)
      (run : s.reas.IsRun h es) (open_ : ∀ e ∈ es, e.e = false)
      (missing : s.reas.entry (h + BitVec.ofNat 14 es.length) = none)
      (rest : Advances T ((s.updReas fun r => r.after h es).bump .incomplete) u) : Advances T s u
  | gap {s u : State} (h : Gsn) (head : s.reas.head = some h) (behind : gsnAhead T h = true)
      (missing : s.reas.entry h = none)
      (rest : Advances T (processHead ((s.updReas fun r => { r with head := some (h + 1) }).bump .gapForced)) u) :
      Advances T s u
  | present {s u : State} (h : Gsn) (e : Entry) (head : s.reas.head = some h) (behind : gsnAhead T h = true)
      (entry : s.reas.entry h = some e)
      (other : ¬∃ es, s.reas.IsRun h es ∧ (∀ x ∈ es, x.e = false) ∧ s.reas.entry (h + BitVec.ofNat 14 es.length) = none)
      (rest : Advances T (processHead s) u) : Advances T s u

/-- `h` is the resync's base: the collected GSN farthest behind the first arrival `g`, by no more than 8191 (R100). -/
structure IsBase (es : List Entry) (g h : Gsn) : Prop where
  collected : h = g ∨ ∃ e ∈ es, e.gsn = h
  behind : (g - h).toNat ≤ 8191
  farthest : ∀ e ∈ es, (g - e.gsn).toNat ≤ 8191 → (g - e.gsn).toNat ≤ (g - h).toNat

/-! ### The class table -/

/-- Active class entry `i` is valid and matches a frame of which 18 bytes have arrived (R61). -/
def State.entryMatches (s : State) (bs : List Byte) (i : Fin 64) : Prop :=
  let w0 := (s.tables.get (.cls .active i 0)).val
  let value := fieldAt w0 0 16 * 4294967296 + (s.tables.get (.cls .active i 1)).val.toNat
  bitAt w0 31 = true ∧
    match fieldAt w0 24 2 with
    | 0 => True
    | 1 => be16 bs 12 = 0x8100 ∧ byteNat bs 14 / 32 = value % 8
    | 2 => (if be16 bs 12 = 0x8100 then be16 bs 16 else be16 bs 12) = value % 65536
    | _ => be16 bs 0 * 4294967296 + (be32 bs 2).toNat = value

/-- Active class entry `i` decides for the frame: the first that is valid and matches (R61). -/
def State.entryDecides (s : State) (bs : List Byte) (i : Fin 64) : Prop :=
  s.entryMatches bs i ∧ ∀ j, j < i → ¬s.entryMatches bs j

/-! ### The gate -/

/-- A counter word, the commit state word or the ECC status word (R149, spec/11). -/
def isCounterAddress (a : Nat) : Prop :=
  (∃ p : PairIx, 0x0800 + 32 * p.val + 16 ≤ a ∧ a ≤ 0x0800 + 32 * p.val + 25) ∨ (0x0A10 ≤ a ∧ a ≤ 0x0A3A)
    ∨ a = 0x0E01 ∨ a = 0x0E02 ∨ a = 0x0E03

/-- A FARM write into the word at `a` is refused with this value of the gate record: its region's flag is clear, or it is the
gate record itself (R149, spec/11). -/
def gateRefuses (g : Word) (a : Nat) : Prop :=
  (0x0100 ≤ a ∧ a ≤ 0x011F ∧ bitAt g 0 = false) ∨ (0x0200 ≤ a ∧ a ≤ 0x021F ∧ bitAt g 1 = false)
    ∨ (0x0400 ≤ a ∧ a ≤ 0x04FF ∧ bitAt g 2 = false) ∨ (isCounterAddress a ∧ bitAt g 3 = false) ∨ a = 0x0E00

/-! ### Table fields -/

/-- A field of a table word: its lowest bit and width, the ends of its range and its step (R62, R116, R118, spec/11). -/
structure FieldRange where
  lo : Nat
  width : Nat
  least : Nat
  greatest : Nat
  step : Nat
deriving DecidableEq, Repr

/-- The four class parameter words' fields: F, cut-through, byte limit in KiB (R62). -/
def classFields : List FieldRange := [⟨0, 10, 64, 512, 32⟩, ⟨16, 1, 0, 1, 1⟩, ⟨24, 7, 2, 64, 1⟩]

/-- The fields of word `i` of the group record (R116). -/
def groupFields (i : Fin 19) : List FieldRange :=
  match i.val with
  | 0x00 => [⟨0, 8, 1, 255, 1⟩]
  | 0x01 => [⟨0, 11, 64, 1024, 64⟩]
  | 0x02 => [⟨0, 4, 1, 8, 1⟩, ⟨8, 2, 0, 3, 1⟩]
  | 0x03 => [⟨0, 7, 1, 100, 1⟩, ⟨16, 7, 1, 100, 1⟩]
  | 0x04 => [⟨0, 3, 0, 7, 1⟩, ⟨16, 9, 5, 500, 1⟩]
  | 0x05 => [⟨0, 12, 100, 2550, 10⟩, ⟨16, 6, 1, 60, 1⟩]
  | 0x06 => [⟨0, 14, 64, 10000, 1⟩]
  | 0x07 => [⟨0, 8, 10, 200, 1⟩, ⟨16, 4, 1, 10, 1⟩]
  | 0x08 => [⟨0, 1, 0, 1, 1⟩, ⟨4, 3, 2, 7, 1⟩, ⟨8, 5, 0, 20, 1⟩, ⟨16, 6, 1, 50, 1⟩]
  | 0x09 => classFields
  | 0x0A => classFields
  | 0x0B => classFields
  | 0x0C => classFields
  | 0x0D => [⟨0, 9, 0, 256, 1⟩]
  | 0x0E => [⟨0, 8, 0, 255, 1⟩, ⟨9, 7, 0, 127, 1⟩]
  | 0x0F => [⟨0, 32, 0, 4294967295, 1⟩]
  | 0x10 => [⟨0, 16, 0, 65535, 1⟩]
  | 0x11 => [⟨0, 32, 0, 4294967295, 1⟩]
  | _ => [⟨0, 6, 1, 60, 1⟩, ⟨8, 2, 0, 3, 1⟩]

/-- The fields of a word of table memory (R61, R62, R116, R118, R141). -/
def tableFields : TRef → List FieldRange
  | .group _ i => groupFields i
  | .pair _ _ j => if j.val = 0 then [⟨0, 1, 0, 1, 1⟩, ⟨8, 1, 0, 1, 1⟩, ⟨16, 1, 0, 1, 1⟩] else [⟨0, 15, 0, 20000, 1⟩]
  | .cls _ _ j =>
    if j.val = 0 then
      [⟨0, 16, 0, 65535, 1⟩, ⟨16, 2, 0, 3, 1⟩, ⟨20, 1, 0, 1, 1⟩, ⟨24, 2, 0, 3, 1⟩, ⟨31, 1, 0, 1, 1⟩]
    else [⟨0, 32, 0, 4294967295, 1⟩]
  | .gate => [⟨0, 7, 0, 127, 1⟩, ⟨16, 1, 0, 1, 1⟩]

/-- The word stands in a shadow copy. -/
def TRef.isShadow : TRef → Bool
  | .group .shadow _ => true
  | .pair .shadow _ _ => true
  | .cls .shadow _ _ => true
  | _ => false

/-- The record of a request answered as a command of its own (DESIGN CHOICE, unsafe; log entry 15). -/
def State.answer (s : State) (r : Record) : State := s.updCtl fun c => { c with answers := c.answers ++ [r] }

/-- The bytes of a transmission toward the farm. -/
def FarmTx.wire : FarmTx → List Byte
  | .queued w => w
  | .response w => w
  | .notice w => w

/-- The transceiver report or deadline of pair `p` that a command is. -/
def atPair : Instr → Option PairIx
  | .trainStart _ p => some p
  | .up _ p _ _ => some p
  | .rate _ p _ _ => some p
  | .down _ p => some p
  | .ready _ p => some p
  | .received _ p _ => some p
  | .probationTimeExpiry _ p => some p
  | .silence _ p => some p
  | .replayTimeout _ p => some p
  | .drainLimit _ p => some p
  | .guardWindowOpen _ p => some p
  | .guardWindowEnd _ p => some p
  | _ => none

/-- The commands of the farm port, of the reroute list and of the reassembler's deadlines. -/
def isLaneCommand : Instr → Bool
  | .farmByteArrival _ _ => true
  | .farmFrameEnd _ => true
  | .pauseEnd _ => true
  | .farmTransmitStart _ => true
  | .farmTransmitEnd _ => true
  | .rerouteAgeLimit _ => true
  | .holdDeadline _ => true
  | .resyncDeadline _ => true
  | .suspensionEnd _ => true
  | _ => false

/-- The moment a command is taken; the reset pin's has none. -/
def timeOf : Instr → Nat
  | .powerUpReset _ => 0
  | .trainStart t _ => t
  | .up t _ _ _ => t
  | .rate t _ _ _ => t
  | .down t _ => t
  | .ready t _ => t
  | .received t _ _ => t
  | .probationTimeExpiry t _ => t
  | .silence t _ => t
  | .replayTimeout t _ => t
  | .drainLimit t _ => t
  | .guardWindowOpen t _ => t
  | .guardWindowEnd t _ => t
  | .farmByteArrival t _ => t
  | .farmFrameEnd t => t
  | .pauseEnd t => t
  | .farmTransmitStart t => t
  | .farmTransmitEnd t => t
  | .rerouteAgeLimit t => t
  | .holdDeadline t => t
  | .resyncDeadline t => t
  | .suspensionEnd t => t
  | .commitApply t => t
  | .digestDone t => t
  | .controlFrameExecute t => t
  | .read t _ _ _ _ => t
  | .write t _ _ _ _ => t
  | .writePosted t _ _ _ _ => t
  | .maskWrite t _ _ _ _ => t
  | .maskWritePosted t _ _ _ _ => t
  | .swapIf t _ _ _ _ => t
  | .addSat t _ _ _ _ => t
  | .addSatPosted t _ _ _ _ => t
  | .commit t _ _ _ _ => t
  | .digest t _ _ _ _ => t
  | .eventNext t _ _ _ _ => t
  | .eventClear t _ _ _ _ => t
  | .pairRestart t _ _ _ _ => t
  | .groupRestart t _ _ _ _ => t
  | .partReset t _ _ _ _ => t
  | .boxPost t _ _ _ _ => t
  | .boxTake t _ _ _ _ => t
  | .boxRelease t _ _ _ _ => t
  | .shadowTableWrite t _ _ => t
  | .gateRecordWrite t _ => t
  | .eccStatusWrite t _ _ => t
  | .eventEnableWrite t _ => t
  | .keepFlagWrite t _ _ => t
  | .counterWrite t _ _ => t
  | .groupRestartEffect t => t
  | .partResetEffect t _ => t
  | .noticeIntervalEnd t => t
  | .tableMemoryError t _ _ => t

end Sys2Proof.Machine
end

