-- ==== Sys2Proof/Certificates/Slice0/Obligations.lean ====
section
/-! DEFINITION. The statements about the model, from the rules of spec/. `s.atTime tm` is the state at the moment of a
command given with time `tm`. Most statements about commands are made on sound table memory, where every read returns the
value stored; what reads do elsewhere is stated on its own. `answers`, `pending`, `sent` are the model's own records (log
entries 8, 15, 30). -/

open Sys2Proof
open Sys2Proof.Machine

/-! ### The machine -/

/-- A step takes the command at the front of the queue and runs it with the rest of the queue. -/
def Obligations.StepRunsFrontCommand : Prop :=
  ∀ (s : State) (c : Instr) (rest : List Instr), s.pending = c :: rest → step s = exec c { s with pending := rest }

/-- THE MODEL'S CHOICE (log entry 2): with no command waiting, a step runs the first internal step that is due, or idles. -/
def Obligations.StepWithoutCommand : Prop :=
  ∀ s : State, s.pending = [] →
    (dueList s = [] → step s = .next s) ∧ (∀ c cs, dueList s = c :: cs → step s = exec c s)

/-- The values after reset that the manual gives (R6, R22, R54, R73, R93, R115, R128, R142, R157, R163). Two clauses hold choices
of the model too: both group records stand at station-address digit 0, all straps low (log entry 3), and a class entry's VALUE,
CLASS, ACTION and MATCH are 0 beside its clear VALID (log entry 38). -/
def Obligations.ResetState : Prop :=
  (∀ p, (State.reset.pair p).state = .down ∧ (State.reset.pair p).cause = .none ∧ (State.reset.pair p).upRate = 0
      ∧ (State.reset.pair p).downRate = 0 ∧ (State.reset.pair p).latency = 0 ∧ (State.reset.pair p).samples = 0
      ∧ (State.reset.pair p).nextTxn = 0 ∧ (State.reset.pair p).rxn = 0 ∧ (State.reset.pair p).rx = .inStep
      ∧ (State.reset.pair p).ldg = none ∧ (State.reset.pair p).txq = [] ∧ (State.reset.pair p).store = []
      ∧ (State.reset.pair p).guard = Guard.unlearnt ∧ (State.reset.pair p).sent = [.retrain]
      ∧ (State.reset.pair p).counters = Vector.replicate 10 0)
    ∧ State.reset.farm.rx = none ∧ State.reset.farm.pauseEnd = none ∧ State.reset.farm.outQueue = []
    ∧ (∀ c, State.reset.queue c = [])
    ∧ State.reset.dist = { nextGsn := 0, fip := none, reroute := [], wait := .none } ∧ State.reset.freeSlots = 256
    ∧ State.reset.reas.state = .idle ∧ State.reset.reas.window = [] ∧ State.reset.freeDownBlocks = 1024
    ∧ State.reset.groupUp = false ∧ State.reset.activeCount = 0
    ∧ State.reset.counters = Vector.replicate 43 0
    ∧ (∀ i, (State.reset.tables.get (.group .shadow i)).val = groupDefault 0 i
        ∧ (State.reset.tables.get (.group .active i)).val = groupDefault 0 i)
    ∧ (∀ p j, (State.reset.tables.get (.pair .shadow p j)).val = pairDefault j
        ∧ (State.reset.tables.get (.pair .active p j)).val = pairDefault j)
    ∧ (∀ i j, (State.reset.tables.get (.cls .shadow i j)).val = 0 ∧ (State.reset.tables.get (.cls .active i j)).val = 0)
    ∧ (State.reset.tables.get .gate).val = 0x0000001C
    ∧ State.reset.tables.commitPending = false ∧ State.reset.tables.commitCount = 0
    ∧ State.reset.tables.digest.state = .idle
    ∧ State.reset.ctl.queue = [] ∧ State.reset.ctl.respSlot = none ∧ State.reset.ctl.noticeSlot = none
    ∧ State.reset.ctl.restarts = [] ∧ (∀ b : Fin 2, State.reset.ctl.boxes[b.val] = { message := [], keep := false })
    ∧ (∀ k, State.reset.event k = { isPending := false, enabled := true, detail := { w1 := 0, w2 := 0, w3 := 0 }, count := 0 })
    ∧ State.reset.events.lastNotice = none ∧ State.reset.events.owed = false

/-- The invariants hold at reset. -/
def Obligations.ResetMeetsInvariants : Prop :=
  State.reset.InRange ∧ State.reset.EmptyWhenDown ∧ State.reset.WithinMemory ∧ State.reset.WindowKept ∧ State.reset.tables.Sound

/-- Every step keeps pair records in their ranges (R3, R5, R18, R45), the control frame queue at 4 frames at most (R143)
and mailbox messages at 64 bytes at most (R156). -/
def Obligations.StepKeepsRanges : Prop :=
  ∀ s t : State, s.InRange → step s = .next t → t.InRange

/-- Every step keeps the emptiness of R122: a pair out of service holds no fragment, and with the group DOWN no transmit
queue, retry store or reroute list holds one and no frame is in progress. -/
def Obligations.StepKeepsEmptyWhenDown : Prop :=
  ∀ s t : State, s.EmptyWhenDown → step s = .next t → t.EmptyWhenDown

/-- Every step keeps the slots held within 256 (R74) and the blocks held within both memories (R63, R96). -/
def Obligations.StepKeepsWithinMemory : Prop :=
  ∀ s t : State, s.WithinMemory → step s = .next t → t.WithinMemory

/-- Every step keeps the window's rule: no two entries share a GSN, and in REASSEMBLE every entry lies 0 to W - 1 ahead of the head,
W being the one in use since the resync (R101; log entry 51), within its range of 64..1024, as both stored words of W are (R116,
R130). -/
def Obligations.StepKeepsWindow : Prop :=
  ∀ s t : State, s.WindowKept → step s = .next t → t.WindowKept

/-- The local time base never runs back, a part reset included (R127); only the reset pin starts it afresh. A command's own effect
leaves the queue of waiting commands alone (the model's own field). -/
def Obligations.TimeNeverRunsBack : Prop :=
  ∀ (c : Instr) (s t : State), exec c s = .next t →
    t.pending = s.pending
      ∧ t.now = match c with
                | .powerUpReset _ => 0
                | _ => max s.now (timeOf c)

/-- No command faults or is refused: every one answers some next state, in every state. -/
def Obligations.NoCommandStops : Prop := ∀ (c : Instr) (s : State), ∃ t, exec c s = .next t

/-! ### Arithmetic, fragments and tables -/

/-- Sequence arithmetic of GSNs and TXNs; a GSN `a` is behind `b` where `gsnAhead b a` holds (R1). -/
def Obligations.SequenceArithmetic : Prop :=
  (∀ a b : Gsn, gsnAhead a b = true ↔ 1 ≤ ((a.toNat : Int) - b.toNat) % 16384 ∧ ((a.toNat : Int) - b.toNat) % 16384 ≤ 8191)
    ∧ (∀ a b : Txn, txnAhead a b = true ↔ 1 ≤ ((a.toNat : Int) - b.toNat) % 128 ∧ ((a.toNat : Int) - b.toNat) % 128 ≤ 63)
    ∧ (∀ a b : Txn, txnBehind a b = true ↔ 1 ≤ ((b.toNat : Int) - a.toNat) % 128 ∧ ((b.toNat : Int) - a.toNat) % 128 ≤ 64)
    ∧ (∀ a b : Txn, a ≠ b → txnAhead a b ≠ txnBehind a b)

/-- A value is brought to the nearest end of its range (R2). Every field of a stored table word is the written field rounded
down to its step and clamped to its range, an in-range value as it is, and the bits outside the fields are 0 (R62, R116, R118,
R130, R166); a stored word, written again as it reads, stays as it is. -/
def Obligations.ClampingToRange : Prop :=
  (∀ lo hi v : Nat, lo ≤ hi →
    (v < lo → clampTo lo hi v = lo) ∧ (lo ≤ v → v ≤ hi → clampTo lo hi v = v) ∧ (hi < v → clampTo lo hi v = hi))
    ∧ (∀ (r : TRef) (v : Word) (f : FieldRange), f ∈ tableFields r →
        fieldAt (clampTable r v) f.lo f.width = max f.least (min f.greatest (fieldAt v f.lo f.width / f.step * f.step))
        ∧ f.least ≤ fieldAt (clampTable r v) f.lo f.width ∧ fieldAt (clampTable r v) f.lo f.width ≤ f.greatest
        ∧ f.step ∣ fieldAt (clampTable r v) f.lo f.width
        ∧ (f.least ≤ fieldAt v f.lo f.width → fieldAt v f.lo f.width ≤ f.greatest → f.step ∣ fieldAt v f.lo f.width →
            fieldAt (clampTable r v) f.lo f.width = fieldAt v f.lo f.width))
    ∧ (∀ (r : TRef) (v : Word) (i : Nat), i < 32 → (∀ f ∈ tableFields r, i < f.lo ∨ f.lo + f.width ≤ i) →
        bitAt (clampTable r v) i = false)
    ∧ (∀ (r : TRef) (v : Word), clampTable r (clampTable r v) = clampTable r v)

/-- A pair is eligible exactly when it is ACTIVE with room in its queue and store; in every other state it is not
(R85). -/
def Obligations.EligiblePairs : Prop :=
  ∀ (s : State) (p : PairIx),
    (eligible s p = true ↔ (s.pair p).state = .active ∧ (s.pair p).txq.length < 8
      ∧ (s.pair p).txq.length + (s.pair p).store.length < 32)
    ∧ ((s.pair p).state ≠ .active → eligible s p = false)

/-- In IDLE every arrival is discarded and counted, takes no block and is kept nowhere; RRT still sets the suspension
(R98). -/
def Obligations.IdleArrivalsDiscarded : Prop :=
  ∀ (s : State) (a : Entry), s.reas.state = .idle →
    arrive a s = (if a.rrt then suspendShortcut s else s).bump .idleDiscards ∧ (arrive a s).reas.window = s.reas.window
      ∧ (arrive a s).farm = s.farm

/-- A posted request does what its unposted form does and gives no record; with a status other than OK it raises
POSTED_FAILED, and VACANT_ACCESS besides where the address is vacant (R153), which the model raises first (its choice, log entry
58). The byte places of the detail are read from the layout (log entry 18). -/
def Obligations.PostedRequests : Prop :=
  ∀ (k u : ReqKind) (o : Origin) (n : Option Nat) (r : Request) (s : State),
    (k, u) ∈ [(ReqKind.writePosted, ReqKind.write), (.maskWritePosted, .maskWrite), (.addSatPosted, .addSat)] →
      runKind k o n r s = runKind u o n r s
        ∧ (request k o n r s).2 = none
        ∧ ((runKind u o n r s).status = .ok → (request k o n r s).1 = settleOwed (runKind u o n r s).state)
        ∧ ((runKind u o n r s).status ≠ .ok →
            (request k o n r s).1 = settleOwed (raiseEvent .postedFailed
              (detail2 (byteFields r.code (runKind u o n r s).status.code 0 0) r.addr) (runKind u o n r s).state))
        ∧ ((runKind u o n r s).status = .vacant →
            (runKind u o n r s).state
              = raiseEvent .vacantAccess (detail2 (byteFields (originCode o) r.code 0 0) r.addr) s)

/-- The header fields of a fragment, with any payload of up to 1,023 bytes, are read back from its bytes as they were
written: no bit of the layout is dropped (R164). -/
def Obligations.FragmentRoundTrip : Prop :=
  ∀ (f : FragFields) (void : Bool), f.cls < 4 → f.num < 65536 → f.gid < 256 → f.len = f.payload.length →
    f.payload.length ≤ 1023 → FragFields.parse (f.bytes void) = f

/-- A DATA fragment of 1 to 512 payload bytes is classed good as sent, or void where its check is complemented; a FILLER,
PROBE or ECHO without payload is classed good; a DATA fragment that is empty or longer is bad (R24, R25). -/
def Obligations.SentFragmentClass : Prop :=
  ∀ f : FragFields, f.cls < 4 → f.num < 65536 → f.gid < 256 → f.len = f.payload.length → f.payload.length ≤ 1023 →
    (f.kind = .data → 1 ≤ f.len → f.len ≤ 512 → classify (f.bytes false) = .good ∧ classify (f.bytes true) = .void)
    ∧ (f.kind = .data → (f.len = 0 ∨ 512 < f.len) → classify (f.bytes false) = .bad)
    ∧ (f.kind ≠ .data → f.len = 0 → classify (f.bytes false) = .good ∧ classify (f.bytes true) = .bad)
    ∧ (f.kind ≠ .data → f.len ≠ 0 → classify (f.bytes false) = .bad)

/-- Every word of table memory stands at its own word address (spec/11, table space map). -/
def Obligations.TableSpaceAddresses : Prop :=
  (∀ r : TRef, placeAt r.addr = .table r) ∧ (∀ q r : TRef, q.addr = r.addr → q = r)

/-- The first sample since PROBATION sets the measured latency, and a later one moves it an eighth of the way, truncated
toward zero, never past it. A good ECHO takes the sample, half the round trip since its STAMP and at most 20,000 µs, and in AUTO
mode writes the measured latency into the pair's active E; a good PROBE makes an ECHO of its STAMP pending (R17, R18, R19). -/
def Obligations.LatencyMovesTowardSample : Prop :=
  (∀ n m x : Nat, nextLatency 1 m x = x ∧ min m x ≤ nextLatency n m x ∧ nextLatency n m x ≤ max m x
      ∧ (n ≠ 1 → (nextLatency n m x : Int) = (m : Int) + ((x : Int) - (m : Int)).tdiv 8))
    ∧ ∀ (s : State) (tm : Nat) (p : PairIx) (bytes : List Byte) (f : FragFields) (x : Nat), s.tables.Sound →
      ((s.pair p).state = .probation ∨ (s.pair p).state = .active) → f = FragFields.parse bytes → classify bytes = .good →
      f.gid = s.gid → x = min 20000 ((BitVec.ofNat 16 (max s.now tm / 10) - f.stamp).toNat * 5) →
      (f.kind = .probe →
        ∃ t, exec (.received tm p bytes) s = .next t ∧ (t.pair p).echo = some f.stamp ∧ (t.pair p).state = (s.pair p).state
          ∧ (t.pair p).latency = (s.pair p).latency ∧ (t.pair p).samples = (s.pair p).samples ∧ t.tables = s.tables)
      ∧ (f.kind = .echo →
        ∃ t, exec (.received tm p bytes) s = .next t ∧ (t.pair p).samples = min 255 ((s.pair p).samples + 1)
          ∧ (t.pair p).sampled = true
          ∧ ((s.pair p).samples = 0 → (t.pair p).latency = x)
          ∧ ((s.pair p).samples ≠ 0 → (s.pair p).latency ≤ 20000 → ((t.pair p).latency : Int)
              = ((s.pair p).latency : Int) + ((x : Int) - ((s.pair p).latency : Int)).tdiv 8)
          ∧ t.tables.get (.pair .active p 1)
              = (if s.autoE p then { val := asWord (t.pair p).latency, wrong := .none } else s.tables.get (.pair .active p 1))
          ∧ ∀ r, r ≠ .pair .active p 1 → t.tables.get r = s.tables.get r)

/-- An occurrence overwrites its kind's detail, raises its count up to 255 and sets the pending flag of an enabled kind; no
other kind's record changes, on sound table memory (R158). A kind newly pending, the notice sides not NONE, brings a notice at
once where the interval end has passed or there is no last notice, and otherwise owes one; nothing else brings either (R161).
The notice goes to the farm notice slot and, where it has room, to class queue 3, as the sides say (R162). An interval end has
passed when the time base has reached it (log entry 20). That a notice so sent leaves the notice-owed flag as it was, set or
clear, is the model's choice where it was set (log entry 59). -/
def Obligations.EventOccurrence : Prop :=
  ∀ (s u : State) (k : EventKind) (d : Detail), s.tables.Sound → u = raiseEvent k d s →
    (u.event k).detail = d
      ∧ (u.event k).count.toNat = min 255 ((s.event k).count.toNat + 1)
      ∧ (u.event k).enabled = (s.event k).enabled
      ∧ (u.event k).isPending = ((s.event k).isPending || (s.event k).enabled)
      ∧ (∀ j, j ≠ k → u.event j = s.event j)
      ∧ ((s.event k).enabled = true → (s.event k).isPending = false → s.noticeSides ≠ 0 →
          (s.noticeAllowed = true →
            u.events.lastNotice = some s.now ∧ u.events.owed = s.events.owed
              ∧ (s.noticeSides.testBit 1 = true → u.ctl.noticeSlot = some { bytes := noticeFrame u, sending := false })
              ∧ (s.noticeSides.testBit 0 = true → s.groupUp = true → s.internalRoom (noticeFrame u).length = true →
                  u.queue 3 = s.queue 3 ++ [{ cut := 0, uncut := noticeFrame u, ended := true, resp := none }]
                    ∧ u.counter (.admitted 3) = satInc32 (s.counter (.admitted 3)))
              ∧ (s.noticeSides.testBit 0 = true → s.groupUp = true → s.internalRoom (noticeFrame u).length = false →
                  u.queue 3 = s.queue 3 ∧ u.counter (.queueFull 3) = satInc32 (s.counter (.queueFull 3))))
          ∧ (s.noticeAllowed = false →
            u.events.lastNotice = s.events.lastNotice ∧ u.events.owed = true ∧ u.ctl = s.ctl ∧ u.queues = s.queues))
      ∧ ((s.event k).enabled = false ∨ (s.event k).isPending = true ∨ s.noticeSides = 0 →
          u.events.lastNotice = s.events.lastNotice ∧ u.events.owed = s.events.owed ∧ u.ctl = s.ctl ∧ u.queues = s.queues)

/-! ### Error correction -/

/-- What a read of a word with wrong bits does where every other word is sound and no unit is marked. One wrong bit: the
corrected value is read and written back, counted, its address kept and ECC_CORRECTED raised, and no other word, mark or part of
the table store changes (R135). An uncorrectable word: it is counted, the first such address kept, TABLE_DAMAGED raised and the
unit of an active word marked, and nothing else of the table store changes (R136, R137). In both cases nothing but reports
follows. A word that a notice reads is counted again by that notice. -/
def Obligations.WrongBitsFound : Prop :=
  ∀ (s u : State) (r : TRef), (s.tables.store r (s.tables.get r).val).Sound → u = touch r s →
    OnlyReported s u
    ∧ ((s.tables.get r).wrong = .one →
        s.word? r = some (s.tables.get r).val
        ∧ u.tables.get r = { val := (s.tables.get r).val, wrong := .none } ∧ (∀ q, q ≠ r → u.tables.get q = s.tables.get q)
        ∧ u.tables = { s.tables.store r (s.tables.get r).val with
            corrected := satInc16 s.tables.corrected, lastCorrected := some r.addr }
        ∧ u.event .eccCorrected = (s.event .eccCorrected).occur (detail1 (asWord r.addr))
        ∧ ∀ k, k ≠ .eccCorrected → u.event k = s.event k)
    ∧ ((s.tables.get r).wrong = .two → s.tables.marked r = false → s.tables.gateLost = false →
        s.word? r = none ∧ (∀ q, u.tables.get q = s.tables.get q)
        ∧ u.tables.firstUncorrectable = some (s.tables.firstUncorrectable.getD r.addr)
        ∧ ((∀ i : Fin 19, i.val ∈ [0x0C, 0x0E, 0x0F, 0x10, 0x11, 0x12] → r ≠ .group .active i) →
            u.tables.uncorrectable = satInc16 s.tables.uncorrectable)
        ∧ (s.tables.uncorrectable < u.tables.uncorrectable
            ∨ (s.tables.uncorrectable = BitVec.allOnes 16 ∧ u.tables.uncorrectable = BitVec.allOnes 16))
        ∧ (u.tables.groupDamaged = true ↔ ∃ i, r = .group .active i)
        ∧ (∀ p : PairIx, u.tables.pairDamaged[p.val] = true ↔ ∃ j, r = .pair .active p j)
        ∧ (∀ i : Fin 64, u.tables.clsDamaged[i.val] = true ↔ ∃ j, r = .cls .active i j)
        ∧ (u.tables.gateLost = true ↔ r = .gate)
        ∧ u.tables.corrected = s.tables.corrected ∧ u.tables.lastCorrected = s.tables.lastCorrected
        ∧ u.tables.commitPending = s.tables.commitPending ∧ u.tables.commitCount = s.tables.commitCount
        ∧ u.tables.digest = s.tables.digest
        ∧ u.event .tableDamaged = (s.event .tableDamaged).occur (detail1 (asWord r.addr))
        ∧ ∀ k, k ≠ .tableDamaged → u.event k = s.event k)

/-- A READ of an uncorrectable word, all other words sound, is answered DAMAGED with the vacant pattern (R136, R150). The
record stands in the model's own list of answers (log entry 15). -/
def Obligations.DamagedRead : Prop :=
  ∀ (s : State) (tm : Nat) (o : Origin) (tag : Byte) (r : TRef), (s.tables.get r).wrong = .two →
    (s.tables.store r (s.tables.get r).val).Sound →
    ∃ t, exec (.read tm o tag (asWord r.addr) 4) s = .next t
      ∧ t.ctl.answers = s.ctl.answers ++ [{ code := 0x01, tag := tag, status := .damaged, data := wordBytes 0x5A0F5A0F }]

/-! ### Pairs -/

/-- The reports that R3 has ignored or discarded change nothing but the moment (R3). -/
def Obligations.ReportsIgnored : Prop :=
  ∀ (s : State) (tm : Nat) (p : PairIx) (u d : Nat) (bytes : List Byte), s.tables.Sound →
    (∀ c, (s.pair p).state = .off →
      c ∈ [Instr.trainStart tm p, .up tm p u d, .rate tm p u d, .down tm p, .ready tm p, .received tm p bytes] →
      ∃ t, exec c s = .next t ∧ OnlyPlaced (s.atTime tm) t)
    ∧ (∀ c, (s.pair p).state = .down →
      c ∈ [Instr.rate tm p u d, .down tm p, .ready tm p, .received tm p bytes] →
      ∃ t, exec c s = .next t ∧ OnlyPlaced (s.atTime tm) t)
    ∧ (∀ c, (s.pair p).state = .training →
      c ∈ [Instr.trainStart tm p, .rate tm p u d, .ready tm p, .received tm p bytes] →
      ∃ t, exec c s = .next t ∧ OnlyPlaced (s.atTime tm) t)

/-- TRAIN_START in DOWN moves the pair to TRAINING; the group is evaluated (R119) and an attempt made (R82). That the shortcut
is tested as well is the model's choice: R112 lists no such move (log entry 29) (R7). -/
def Obligations.TrainStartBeginsTraining : Prop :=
  ∀ (s : State) (tm : Nat) (p : PairIx), s.tables.Sound → (s.pair p).state = .down →
    ∃ t, exec (.trainStart tm p) s = .next t ∧ (t.pair p).state = .training
      ∧ OnlyPlaced (testShortcut (evaluateGroup (setPairState p .training (s.atTime tm)))) t

/-- UP in DOWN or TRAINING moves the pair to PROBATION with the clamped rates, a fresh probation and a PROBE due at once
(R3, R7, R8). -/
def Obligations.UpEntersProbation : Prop :=
  ∀ (s : State) (tm : Nat) (p : PairIx) (u d : Nat), s.tables.Sound →
    ((s.pair p).state = .down ∨ (s.pair p).state = .training) →
    ∃ t, exec (.up tm p u d) s = .next t ∧ (t.pair p).state = .probation
      ∧ (t.pair p).upRate = max 64 (min 100000 u) ∧ (t.pair p).downRate = max 64 (min 100000 d)
      ∧ (t.pair p).probStart = max s.now tm ∧ (t.pair p).samples = 0 ∧ (t.pair p).bar = false
      ∧ (t.pair p).lastHeard = max s.now tm ∧ (t.pair p).probeDue = max s.now tm
      ∧ (t.pair p).cause = (s.pair p).cause ∧ (t.pair p).latency = (s.pair p).latency
      ∧ (t.pair p).guard = (s.pair p).guard ∧ (t.pair p).counters = (s.pair p).counters

/-- A RATE report on a running pair, or an UP taken as one, records the clamped rates; an ACTIVE pair below the minimum
usable rate enters PROBATION with cause LOW_RATE: with the group still UP without it its whole transmit queue joins the reroute
list while its retry store and a running replay stay, and where the group falls all of them are discarded (R3, R10, R89, R122). That
no attempt comes before that move, though the rate has changed, is the model's choice (log entry 57). -/
def Obligations.RateReportTaken : Prop :=
  ∀ (s : State) (tm : Nat) (p : PairIx) (u d : Nat) (c : Instr), s.tables.Sound → (s.pair p).state.running = true →
    c ∈ [Instr.rate tm p u d, .up tm p u d] →
    ∃ t, exec c s = .next t ∧ (t.pair p).upRate = max 64 (min 100000 u) ∧ (t.pair p).downRate = max 64 (min 100000 d)
      ∧ ((s.pair p).state = .active → max 64 (min 100000 u) < s.minRate →
          (t.pair p).state = .probation ∧ (t.pair p).cause = .lowRate ∧ (t.pair p).txq = [] ∧ (t.pair p).samples = 0
            ∧ (t.pair p).probStart = max s.now tm ∧ (t.pair p).rxn = (s.pair p).rxn
            ∧ (t.pair p).nextTxn = (s.pair p).nextTxn ∧ GaveBack s p (s.pair p).txq t
            ∧ (s.groupUp = true → s.minPairs ≤ s.othersActive p →
                (t.pair p).store = (s.pair p).store ∧ (t.pair p).replay = (s.pair p).replay))
      ∧ ((s.pair p).state = .active → s.minRate ≤ max 64 (min 100000 u) → (t.pair p).state = .active)

/-- A pair leaves service with cause LINE_LOST at a DOWN report in TRAINING, PROBATION, ACTIVE or DRAINING or a TRAIN_START
in the last three, with cause SILENCE once the silence limit has run since it last heard the far end, and goes on to OFF, with
QUIET in place of RETRAIN, where its entry has admin OFF; at the drain deadline it goes to OFF with cause DRAIN_LIMIT. PAIR_DOWN is
raised with the pair, the cause and the state left; with the group still UP its retry store and transmit queue join the reroute
list, and where the group falls they are discarded; one that was in PROBATION, ACTIVE or DRAINING suspends the shortcut until now
plus the hold time, or leaves a later end (R7, R11, R13, R42, R43, R89, R113, R122). Before its moment neither deadline does
anything. The byte places of the detail are read from the layout (log entry 18). A deadline has passed when the time base has
reached it (log entry 20). -/
def Obligations.PairsLeaveService : Prop :=
  ∀ (s : State) (tm : Nat) (p : PairIx), s.tables.Sound →
    (∀ c cause, ((c = .down tm p ∧ cause = .lineLost ∧ (s.pair p).state ≠ .off ∧ (s.pair p).state ≠ .down)
        ∨ (c = .trainStart tm p ∧ cause = .lineLost ∧ (s.pair p).state.running = true)
        ∨ (c = .silence tm p ∧ cause = .silence ∧ (s.pair p).state.running = true
            ∧ (s.pair p).lastHeard + s.silenceLimit ≤ max s.now tm)) →
      ∃ t, exec c s = .next t
        ∧ LeftService (s.pair p) (t.pair p) (if s.adminOn p then .down else .off) cause (if s.adminOn p then .retrain else .quiet)
        ∧ PairDownRaised s p cause t ∧ GaveBack s p ((s.pair p).store.map RetryEntry.frag ++ (s.pair p).txq) t
        ∧ ((s.pair p).state.running = true →
            t.reas.suspension = some (max (s.reas.suspension.getD 0) (max s.now tm + s.holdTime)))
        ∧ ((s.pair p).state.running = false → (∀ q, (s.pair q).state ≠ .draining) → t.reas.suspension = s.reas.suspension))
    ∧ (((s.pair p).state.running = false ∨ max s.now tm < (s.pair p).lastHeard + s.silenceLimit) →
      ∃ t, exec (.silence tm p) s = .next t ∧ OnlyPlaced (s.atTime tm) t)
    ∧ (∀ d, (s.pair p).state = .draining → (s.pair p).drain = some d →
      (d.deadline ≤ max s.now tm →
        ∃ t, exec (.drainLimit tm p) s = .next t ∧ LeftService (s.pair p) (t.pair p) .off .drainLimit .quiet
          ∧ PairDownRaised s p .drainLimit t ∧ GaveBack s p ((s.pair p).store.map RetryEntry.frag ++ (s.pair p).txq) t
          ∧ t.reas.suspension = some (max (s.reas.suspension.getD 0) (max s.now tm + s.holdTime)))
      ∧ (max s.now tm < d.deadline → ∃ t, exec (.drainLimit tm p) s = .next t ∧ OnlyPlaced (s.atTime tm) t))
    ∧ ((s.pair p).state ≠ .draining → ∃ t, exec (.drainLimit tm p) s = .next t ∧ OnlyPlaced (s.atTime tm) t)

/-- A READY on a running pair hands out the first of R27's five that applies, with ACKN one behind RXN, RRQ in RETRY_ASK and
the active GID written afresh, the owed acknowledgement cleared and the hand-off timed and counted (R28): a pending ECHO (R17);
a due PROBE with the time as its STAMP, the next one due a period on (R16); the entry at a replay's cursor, its count raised and
the cursor moved on (R33, R35), or, its count at the retry limit, nothing: the pair leaves service with cause RETRY_EXHAUSTED
(R34); the head of the transmit queue as the next TXN, entered into the retry store (R29) or, with retry off, released with all
held entries (R36), which may end a drain (R13); a FILLER where one is due. Otherwise nothing is sent. The byte places of the
detail are read from the layout (log entry 18). -/
def Obligations.ReadyHandsOut : Prop :=
  ∀ (s : State) (tm : Nat) (p : PairIx) (pp : PairPort) (now : Nat), s.tables.Sound → pp = s.pair p → now = max s.now tm →
    pp.state.running = true →
    (∀ st, pp.echo = some st →
      ∃ t, exec (.ready tm p) s = .next t ∧ OnlyPlaced ((s.atTime tm).updPair p fun _ =>
        { (pp.handed (pp.plainHeader .echo st.toNat s.gid) false now) with echo := none }) t)
    ∧ (pp.echo = none → pp.probeDue ≤ now →
      ∃ t, exec (.ready tm p) s = .next t ∧ OnlyPlaced ((s.atTime tm).updPair p fun _ =>
        { (pp.handed (pp.plainHeader .probe (now / 10 % 65536) s.gid) false now) with
          probeDue := now + (if pp.state = .probation then 100000 else 1000000), lastProbe := some now }) t)
    ∧ (∀ r older e newer, pp.echo = none → now < pp.probeDue → pp.replay = some r → pp.store = older ++ e :: newer →
      (∀ x ∈ older, x.txn ≠ r.cursor) → e.txn = r.cursor →
      (s.retryLimit ≤ e.count →
        ∃ t, exec (.ready tm p) s = .next t
          ∧ LeftService pp (t.pair p) (if s.adminOn p then .down else .off) .retryExhausted
              (if s.adminOn p then .retrain else .quiet)
          ∧ PairDownRaised s p .retryExhausted t ∧ GaveBack s p ((s.pair p).store.map RetryEntry.frag ++ (s.pair p).txq) t
          ∧ t.event .retryExhausted = (s.event .retryExhausted).occur (detail1 (byteFields p.val e.txn.toNat 0 0)))
      ∧ (e.count < s.retryLimit →
        ∃ t, exec (.ready tm p) s = .next t ∧ OnlyPlaced ((s.atTime tm).updPair p fun _ =>
          { (((pp.handed (pp.dataHeader e.frag e.txn s.gid) e.frag.void now).bump .dataHanded).bump .replays) with
            store := pp.store.map fun x => if x.txn = e.txn then { x with count := x.count + 1, lastSent := now } else x
            replay := newer.head?.map fun x => { r with cursor := x.txn } }) t))
    ∧ (pp.echo = none → now < pp.probeDue → (∀ r, pp.replay = some r → ∀ x ∈ pp.store, x.txn ≠ r.cursor) →
      (∀ f rest sent, pp.txq = f :: rest →
        sent = { ((pp.handed (pp.dataHeader f pp.nextTxn s.gid) f.void now).bump .dataHanded) with
                 nextTxn := pp.nextTxn + 1, txq := rest
                 store := if s.retryLimit = 0 then [] else
                   pp.store ++ [{ frag := { f with resp := none }, txn := pp.nextTxn, count := 0, lastSent := now }]
                 replay := if s.retryLimit = 0 then none else pp.replay } →
        ((pp.state = .draining ∧ rest = [] ∧ s.retryLimit = 0) →
          ∃ t, exec (.ready tm p) s = .next t ∧ LeftService sent (t.pair p) .off .drained .quiet)
        ∧ (¬(pp.state = .draining ∧ rest = [] ∧ s.retryLimit = 0) →
          ∃ t, exec (.ready tm p) s = .next t ∧ OnlyPlaced (fragmentGone f ((s.atTime tm).updPair p fun _ => sent)) t))
      ∧ (pp.txq = [] → (pp.owedAck = true ∨ pp.rx = .retryAsk ∨ pp.lastHandoff + 50000 ≤ now) →
        ∃ t, exec (.ready tm p) s = .next t ∧ OnlyPlaced ((s.atTime tm).updPair p fun _ =>
          pp.handed (pp.plainHeader .filler 0 s.gid) false now) t)
      ∧ (pp.txq = [] → pp.owedAck = false → pp.rx = .inStep → now < pp.lastHandoff + 50000 →
        ∃ t, exec (.ready tm p) s = .next t ∧ OnlyPlaced (s.atTime tm) t))

/-- A good or void DATA fragment of the group on a pair in PROBATION, ACTIVE or DRAINING (in DRAINING with a transmit queue that
keeps the drain running). With TXN equal to RXN it is accepted in step: RXN advances, an acknowledgement is owed, the receiver
is IN_STEP, LDG becomes its GSN unless it was rerouted, the silence measurement restarts, and it reaches the reassembler with
the pair and the moment, after which the shortcut is tested (R25, R26, R38, R42, R95, R112). Behind RXN an acknowledgement
becomes owed and a good one counts as a duplicate; ahead of RXN the receiver enters RETRY_ASK, counted once; neither reaches the
reassembler (R39). -/
def Obligations.ReceivedInStep : Prop :=
  ∀ (s : State) (tm : Nat) (p : PairIx) (bytes : List Byte) (f : FragFields), s.tables.Sound →
    ((s.pair p).state = .probation ∨ (s.pair p).state = .active ∨ ((s.pair p).state = .draining ∧ (s.pair p).txq ≠ [])) →
    f = FragFields.parse bytes → classify bytes ≠ .bad → f.gid = s.gid → f.kind = .data →
    (f.txn = (s.pair p).rxn →
      ∃ t u, exec (.received tm p bytes) s = .next t ∧ (t.pair p).rxn = (s.pair p).rxn + 1 ∧ (t.pair p).owedAck = true
        ∧ (t.pair p).rx = .inStep ∧ (t.pair p).lastHeard = max s.now tm ∧ (t.pair p).state = (s.pair p).state
        ∧ (t.pair p).ldg = (if f.rrt then (s.pair p).ldg else some f.gsn)
        ∧ (t.pair p).counter (if classify bytes = .void then .void else .good)
            = satInc32 ((s.pair p).counter (if classify bytes = .void then .void else .good))
        ∧ u.now = max s.now tm ∧ u.reas = s.reas ∧ u.tables = s.tables ∧ u.farm = s.farm ∧ u.groupUp = s.groupUp
        ∧ u.ctl.queue = s.ctl.queue ∧ (u.pair p).ldg = (t.pair p).ldg ∧ (u.pair p).rx = .inStep
        ∧ (∀ q, q ≠ p → (u.pair q).ldg = (s.pair q).ldg ∧ (u.pair q).rx = (s.pair q).rx)
        ∧ OnlyPlaced (testShortcut (arrive
            { gsn := f.gsn, b := f.b, e := f.e, cls := finOf 4 f.cls, void := decide (classify bytes = .void), rrt := f.rrt
              payload := f.payload, pair := p, time := max s.now tm } u)) t)
    ∧ (1 ≤ ((s.pair p).rxn - f.txn).toNat → ((s.pair p).rxn - f.txn).toNat ≤ 64 →
      ∃ t, exec (.received tm p bytes) s = .next t ∧ (t.pair p).owedAck = true ∧ (t.pair p).rxn = (s.pair p).rxn
        ∧ (t.pair p).rx = (s.pair p).rx ∧ (t.pair p).ldg = (s.pair p).ldg ∧ t.reas = s.reas
        ∧ (t.pair p).counter .duplicates
            = (if classify bytes = .void then (s.pair p).counter .duplicates else satInc32 ((s.pair p).counter .duplicates)))
    ∧ (1 ≤ (f.txn - (s.pair p).rxn).toNat → (f.txn - (s.pair p).rxn).toNat ≤ 63 →
      ∃ t, exec (.received tm p bytes) s = .next t ∧ (t.pair p).owedAck = (s.pair p).owedAck ∧ (t.pair p).rxn = (s.pair p).rxn
        ∧ (t.pair p).rx = .retryAsk ∧ (t.pair p).ldg = (s.pair p).ldg ∧ t.reas = s.reas
        ∧ (t.pair p).counter .retryAsk
            = (if (s.pair p).rx = .inStep then satInc32 ((s.pair p).counter .retryAsk) else (s.pair p).counter .retryAsk))

/-- A bad fragment on a running pair is counted, leaves the receiver in RETRY_ASK, and touches neither RXN nor the silence
measurement (R26, R40). The burst guard takes it: within 20,000 µs of the last bad check it changes nothing but that moment, and
otherwise it is a burst start, counted (R44), from which an unlocked guard learns (R46) and locks at the threshold with
GUARD_LOCKED (R47), and which a locked guard judges in-window, repeat or stray (R49). In PROBATION it moves the probation start
unless a locked guard's window is open (R9, R52); that one which continues a stray burst inside a window opened since is excused
too is the model's choice (log entry 44). The byte places of the detail are read from the layout (log entry 18). -/
def Obligations.ReceivedBad : Prop :=
  ∀ (s : State) (tm : Nat) (p : PairIx) (bytes : List Byte) (g : Guard) (now : Nat), s.tables.Sound →
    (s.pair p).state.running = true → classify bytes = .bad → g = (s.pair p).guard → now = max s.now tm →
    ∃ t, exec (.received tm p bytes) s = .next t ∧ (t.pair p).counter .bad = satInc32 ((s.pair p).counter .bad)
      ∧ (t.pair p).rx = .retryAsk ∧ (t.pair p).rxn = (s.pair p).rxn ∧ (t.pair p).lastHeard = (s.pair p).lastHeard
      ∧ (t.pair p).state = (s.pair p).state ∧ (t.pair p).store = (s.pair p).store ∧ t.reas = s.reas
      ∧ (t.pair p).guard.lastBad = some now
      ∧ (t.pair p).counter .retryAsk
          = (if (s.pair p).rx = .inStep then satInc32 ((s.pair p).counter .retryAsk) else (s.pair p).counter .retryAsk)
      ∧ ((∃ b, g.lastBad = some b ∧ now ≤ b + 20000) →
          (t.pair p).guard = { g with lastBad := some now } ∧ (t.pair p).counter .bursts = (s.pair p).counter .bursts)
      ∧ ((∀ b, g.lastBad = some b → b + 20000 < now) →
          (t.pair p).counter .bursts = satInc32 ((s.pair p).counter .bursts)
          ∧ (∀ w, g.locked = true → g.window = some w → now ≤ w.endMs * 1000 →
              (t.pair p).counter .strays = (s.pair p).counter .strays
              ∧ (t.pair p).guard = (if w.met then { g with lastBad := some now } else
                  { g with lastBad := some now, lastStart := some (now / 1000), confidence := min 7 (g.confidence + 1)
                           nextStart := some (now / 1000 + g.period), window := some { w with met := true } }))
          ∧ (g.locked = true → (∀ w, g.window = some w → w.endMs * 1000 < now) →
              (t.pair p).counter .strays = satInc32 ((s.pair p).counter .strays)
              ∧ (t.pair p).guard = { g with lastBad := some now })
          ∧ (∀ P c, g.locked = false → g.Learns (now / 1000) P c →
              (t.pair p).counter .strays = (s.pair p).counter .strays
              ∧ (t.pair p).guard = (if s.guardThreshold ≤ c then
                  { g with lastBad := some now, lastStart := some (now / 1000), period := P, confidence := c, locked := true
                           nextStart := some (now / 1000 + P), window := none }
                else { g with lastBad := some now, lastStart := some (now / 1000), period := P, confidence := c })
              ∧ (s.guardThreshold ≤ c → t.event .guardLocked = (s.event .guardLocked).occur
                  (detail2 (byteFields p.val 0 (P / 256) P) (asWord (now / 1000 + P))))))
      ∧ ((s.pair p).state ≠ .probation → (t.pair p).probStart = (s.pair p).probStart)
      ∧ ((s.pair p).state = .probation →
          (((t.pair p).guard.locked = true ∧ ∃ w, (t.pair p).guard.window = some w ∧ now ≤ w.endMs * 1000) →
            (t.pair p).probStart = (s.pair p).probStart)
          ∧ (¬((t.pair p).guard.locked = true ∧ ∃ w, (t.pair p).guard.window = some w ∧ now ≤ w.endMs * 1000) →
            (t.pair p).probStart = now))

/-- A group identity mismatch sets the bar of a pair in PROBATION and nothing else, and sends a pair in ACTIVE or DRAINING
out of service with cause MISWIRED (R15). The byte places of the detail are read from the layout (log entry 18). -/
def Obligations.IdentityMismatch : Prop :=
  ∀ (s : State) (tm : Nat) (p : PairIx) (bytes : List Byte), s.tables.Sound → classify bytes ≠ .bad →
    (FragFields.parse bytes).gid ≠ s.gid →
    ((s.pair p).state = .probation →
      ∃ t, exec (.received tm p bytes) s = .next t ∧ OnlyPlaced ((s.atTime tm).updPair p fun pp => { pp with bar := true }) t)
    ∧ ((s.pair p).state = .active ∨ (s.pair p).state = .draining →
      ∃ t, exec (.received tm p bytes) s = .next t
        ∧ LeftService (s.pair p) (t.pair p) (if s.adminOn p then .down else .off) .miswired
            (if s.adminOn p then .retrain else .quiet)
        ∧ t.event .miswired = (s.event .miswired).occur
            (detail1 (byteFields p.val (FragFields.parse bytes).gid s.gid 0)))

/-- A pair in PROBATION that meets the four conditions becomes ACTIVE and raises PAIR_ACTIVE; one that does not is left as
it is (R9). The byte places of the detail are read from the layout (log entry 18). A deadline has passed when the time base
has reached it (log entry 20). -/
def Obligations.ProbationEnds : Prop :=
  ∀ (s : State) (tm : Nat) (p : PairIx), s.tables.Sound →
    ((s.pair p).state = .probation → (s.pair p).probStart + s.probationTime ≤ max s.now tm → 4 ≤ (s.pair p).samples →
      s.minRate ≤ (s.pair p).upRate → (s.pair p).bar = false →
      ∃ t, exec (.probationTimeExpiry tm p) s = .next t ∧ (t.pair p).state = .active
        ∧ t.event .pairActive = (s.event .pairActive).occur
            { w1 := byteFields p.val 0 0 0, w2 := asWord (s.pair p).upRate, w3 := asWord (s.offsetE p) })
    ∧ ((s.atTime tm).mayActivate p = false →
      ∃ t, exec (.probationTimeExpiry tm p) s = .next t ∧ OnlyPlaced (s.atTime tm) t)

/-- A retry store whose oldest entry was last sent more than the replay timeout ago, with no replay in progress, begins one from
it; a locked guard without a window opens one once the lead before its next predicted start has been reached, its end fixed and its
met flag clear; at its end it closes as met, or as a miss that lowers the confidence, moves the next predicted start on by the period, and unlocks
the guard below the threshold (R32, R48, R50). A good FILLER shows what the ACKN and RRQ of any good fragment do: the entries up
to the acknowledged one leave, which may end a drain, and a replay whose entry has left goes on from the oldest (R13, R30, R33);
a replay request then begins a replay after it unless one of that base runs, or rewinds the numbering of an empty store once
(R31, R37). Where the acknowledgement ends the drain, the pair is in OFF and the replay request is not acted on (log entry 9). A
deadline has passed when the time base has reached it (log entry 20). -/
def Obligations.ReplayTimeoutAndWindows : Prop :=
  ∀ (s : State) (tm : Nat) (p : PairIx), s.tables.Sound →
    (∀ x rest, (s.pair p).replay = none → (s.pair p).store = x :: rest →
      (x.lastSent + s.replayTimeout < max s.now tm →
        ∃ t, exec (.replayTimeout tm p) s = .next t
          ∧ OnlyPlaced ((s.atTime tm).updPair p fun pp => { pp with replay := some { cursor := x.txn, base := x.txn - 1 } }) t)
      ∧ (max s.now tm ≤ x.lastSent + s.replayTimeout →
        ∃ t, exec (.replayTimeout tm p) s = .next t ∧ OnlyPlaced (s.atTime tm) t))
    ∧ ((s.pair p).replay ≠ none ∨ (s.pair p).store = [] →
      ∃ t, exec (.replayTimeout tm p) s = .next t ∧ OnlyPlaced (s.atTime tm) t)
    ∧ (∀ n, (s.pair p).guard.locked = true → (s.pair p).guard.window = none → (s.pair p).guard.nextStart = some n →
      (n * 1000 ≤ max s.now tm + s.guardLead * 1000 →
        ∃ t, exec (.guardWindowOpen tm p) s = .next t
          ∧ OnlyPlaced ((s.atTime tm).updPair p fun pp =>
              { pp with guard := { pp.guard with window := some { endMs := n + s.guardWidth, met := false } } }) t)
      ∧ (max s.now tm + s.guardLead * 1000 < n * 1000 →
        ∃ t, exec (.guardWindowOpen tm p) s = .next t ∧ OnlyPlaced (s.atTime tm) t))
    ∧ ((s.pair p).guard.locked = false ∨ (s.pair p).guard.window ≠ none ∨ (s.pair p).guard.nextStart = none →
      ∃ t, exec (.guardWindowOpen tm p) s = .next t ∧ OnlyPlaced (s.atTime tm) t)
    ∧ ((∀ w, (s.pair p).guard.window = some w → max s.now tm < w.endMs * 1000) →
      ∃ t, exec (.guardWindowEnd tm p) s = .next t ∧ OnlyPlaced (s.atTime tm) t)
    ∧ (∀ w, (s.pair p).guard.window = some w → w.endMs * 1000 ≤ max s.now tm →
      ∃ t, exec (.guardWindowEnd tm p) s = .next t ∧ OnlyPlaced (closeWindow p w (s.atTime tm)) t
        ∧ (t.pair p).guard.window = none
        ∧ (t.pair p).guard.confidence = (s.pair p).guard.confidence - (if w.met then 0 else 1)
        ∧ (t.pair p).guard.lastStart = (s.pair p).guard.lastStart ∧ (t.pair p).guard.period = (s.pair p).guard.period
        ∧ (w.met = true → (t.pair p).guard = { (s.pair p).guard with window := none })
        ∧ (w.met = false → s.guardThreshold ≤ (s.pair p).guard.confidence - 1 →
            (t.pair p).guard.locked = (s.pair p).guard.locked
              ∧ (t.pair p).guard.nextStart = (s.pair p).guard.nextStart.map (· + (s.pair p).guard.period))
        ∧ (w.met = false → (s.pair p).guard.confidence - 1 < s.guardThreshold →
            (t.pair p).guard.locked = false ∧ (t.pair p).guard.nextStart = none))
    ∧ (∀ (bytes : List Byte) (f : FragFields) (pp : PairPort) (gone left : List RetryEntry) (r0 : Option Replay) (mark : Option Txn),
      pp = s.pair p → pp.state.running = true → f = FragFields.parse bytes → classify bytes = .good → f.gid = s.gid →
      f.kind = .filler → pp.store.length ≤ 32 → (∃ a : Txn, ∀ i (hi : i < pp.store.length), (pp.store[i]).txn = a + BitVec.ofNat 7 i) →
      pp.store = gone ++ left → ((gone = [] ∧ ∀ x ∈ pp.store, x.txn ≠ f.ackn) ∨ ∃ x, gone.getLast? = some x ∧ x.txn = f.ackn) →
      r0 = (match pp.replay, gone, left with
        | some r, [], _ => some r
        | some r, _ :: _, o :: _ => if left.any (fun x => decide (x.txn = r.cursor)) then some r else some { r with cursor := o.txn }
        | _, _, _ => none) →
      mark = (if pp.rewindMark = some f.ackn then some f.ackn else none) →
      ((pp.state = .draining ∧ gone ≠ [] ∧ left = [] ∧ pp.txq = []) →
        ∃ t, exec (.received tm p bytes) s = .next t ∧ LeftService (pp.bump .good) (t.pair p) .off .drained .quiet)
      ∧ (¬(pp.state = .draining ∧ gone ≠ [] ∧ left = [] ∧ pp.txq = []) →
        ∃ t, exec (.received tm p bytes) s = .next t ∧ (t.pair p).state = pp.state ∧ (t.pair p).store = left
          ∧ (t.pair p).lastHeard = max s.now tm ∧ (t.pair p).counter .good = satInc32 (pp.counter .good)
          ∧ (t.pair p).rxn = pp.rxn ∧ (t.pair p).rx = pp.rx ∧ (t.pair p).owedAck = pp.owedAck ∧ (t.pair p).echo = pp.echo
          ∧ t.reas = s.reas
          ∧ (f.rrq = false → (t.pair p).replay = r0 ∧ (t.pair p).nextTxn = pp.nextTxn ∧ (t.pair p).rewindMark = mark)
          ∧ (f.rrq = true → (∃ x ∈ left, x.txn = f.ackn + 1) → (t.pair p).nextTxn = pp.nextTxn ∧ (t.pair p).rewindMark = mark
              ∧ ((∃ r, r0 = some r ∧ r.base = f.ackn) → (t.pair p).replay = r0)
              ∧ ((∀ r, r0 = some r → r.base ≠ f.ackn) → (t.pair p).replay = some { cursor := f.ackn + 1, base := f.ackn }))
          ∧ (f.rrq = true → (∀ x ∈ left, x.txn ≠ f.ackn + 1) → (t.pair p).replay = r0
              ∧ (left = [] → 1 ≤ (pp.nextTxn - (f.ackn + 1)).toNat → (pp.nextTxn - (f.ackn + 1)).toNat ≤ 63 → mark = none →
                  (t.pair p).nextTxn = f.ackn + 1 ∧ (t.pair p).rewindMark = some f.ackn)
              ∧ (left ≠ [] ∨ ¬(1 ≤ (pp.nextTxn - (f.ackn + 1)).toNat ∧ (pp.nextTxn - (f.ackn + 1)).toNat ≤ 63) ∨ mark ≠ none →
                  (t.pair p).nextTxn = pp.nextTxn ∧ (t.pair p).rewindMark = mark))))

/-- What a report or deadline of one pair leaves alone: the other pairs' records, to whose transmit queues fragments may be
appended as they are placed (R78, R84, R87), and which only a fall of the group empties, ending a drain (R13, R43, R122, R124); all of table memory but the pair's own latency offset, the mailboxes, the gate, the
straps, and the farm port's pause and transmission. -/
def Obligations.PairCommandsFrame : Prop :=
  ∀ (s t : State) (c : Instr) (p : PairIx), s.tables.Sound → atPair c = some p → exec c s = .next t →
    (∀ q, q ≠ p → OtherPairKept s t q)
      ∧ (t.tables = s.tables ∨ ∃ v, t.tables = s.tables.store (.pair .active p 1) v)
      ∧ t.ctl.boxes = s.ctl.boxes ∧ t.digit = s.digit ∧ t.farm.fast = s.farm.fast ∧ t.farm.pauseEnd = s.farm.pauseEnd
      ∧ t.farm.tx = s.farm.tx ∧ t.farm.sent = s.farm.sent ∧ t.ctl.respSlot = s.ctl.respSlot

/-! ### Farm port, distributor, reassembler and group -/

/-- Every byte of a farm frame not abandoned by a reset is counted, the first one beginning a frame (R55, R56, R63). The 18th
byte decides what the frame is: a link-control frame (R57), a control frame for the part (R58), or a frame for classification,
which the DOWN group drops (R60), the first valid matching class entry discards or forwards and the default class takes
otherwise (R61); a forwarded one brings its stored bytes into its class queue. Each later byte pushes one out of the check
buffer into the class queue, a block being taken where it needs one, and the frame is dropped QUEUE_FULL where none may be
(R63). Byte 2,005 makes it a giant (R56). A failed frame leaves its queue, or, once a fragment has been placed, a void final
fragment is due (R69), for which its record waits, ended and marked failed (the model's own mark, log entry 37). Of dropped frames
one dropped by a DISCARD entry counts as a giant and one dropped for the DOWN group or for want of room does not (R72, read as in
log entry 17). -/
def Obligations.FarmBytesCounted : Prop :=
  ∀ (s : State) (tm : Nat) (b : Byte), s.tables.Sound →
    (s.farm.rx = none → ∃ t r, exec (.farmByteArrival tm b) s = .next t ∧ t.farm.rx = some r ∧ r.count = 1
      ∧ r.kind = .head ∧ r.check = [b])
    ∧ (∀ r, s.farm.rx = some r → r.kind ≠ .abandoned →
      ∃ t r', exec (.farmByteArrival tm b) s = .next t ∧ t.farm.rx = some r' ∧ r'.count = r.count + 1)
    ∧ (∀ (r : RxFrame) (x y z w : Byte) (bs held : List Byte) (judged : RxKind → List Byte → State), s.farm.rx = some r →
      r.kind = .head → r.count = 17 → r.held.length = 13 → r.check = [x, y, z, w] → bs = r.held ++ [x, y, z, w, b] →
      held = r.held ++ [x] →
      judged = (fun k h => (s.atTime tm).updFarm fun f =>
        { f with rx := some { count := 18, kind := k, held := h, check := [y, z, w, b], crc := crc32Byte r.crc x } }) →
      (be16 bs 12 = 0x8808 → ∃ t, exec (.farmByteArrival tm b) s = .next t ∧ OnlyPlaced (judged .link held) t)
      ∧ (be16 bs 12 ≠ 0x8808 → isControlFrame s.station bs = true →
          ∃ t, exec (.farmByteArrival tm b) s = .next t ∧ OnlyPlaced (judged .control held) t)
      ∧ (be16 bs 12 ≠ 0x8808 → isControlFrame s.station bs = false →
          (s.groupUp = false →
            ∃ t, exec (.farmByteArrival tm b) s = .next t ∧ OnlyPlaced ((judged (.dropped .lack) []).bump .groupDownDrops) t)
          ∧ (s.groupUp = true →
            (∀ i : Fin 64, s.entryDecides bs i → bitAt (s.tables.get (.cls .active i 0)).val 20 = true →
              ∃ t, exec (.farmByteArrival tm b) s = .next t ∧ OnlyPlaced ((judged (.dropped .table) []).bump .tableDiscards) t)
            ∧ (∀ c : ClassIx,
              ((∃ i : Fin 64, s.entryDecides bs i ∧ bitAt (s.tables.get (.cls .active i 0)).val 20 = false
                  ∧ c.val = fieldAt (s.tables.get (.cls .active i 0)).val 16 2)
                ∨ ((∀ i, ¬s.entryMatches bs i) ∧ c = s.defaultClass)) →
              (∀ q ∈ s.queue c, q.ended = true) →
              ((s.classBytes c + 128 ≤ s.byteLimit c ∧ 0 < s.freeQueueBlocks) →
                ∃ t, exec (.farmByteArrival tm b) s = .next t ∧ OnlyPlaced ((judged (.upstream c) []).setQueue c
                  (s.queue c ++ [{ cut := 0, uncut := held, ended := false, resp := none }])) t)
              ∧ (¬(s.classBytes c + 128 ≤ s.byteLimit c ∧ 0 < s.freeQueueBlocks) → 
                  (s.queue c ≠ [] ∨ ∀ f, s.dist.fip = some f → f.cls = c → f.finalCut = true ∨ f.voidTail ≠ none) →
                ∃ t, exec (.farmByteArrival tm b) s = .next t
                  ∧ OnlyPlaced ((judged (.dropped .lack) []).bump (.queueFull c)) t)))))
    ∧ (∀ (r : RxFrame) (c : ClassIx) (x y z w : Byte) (before : List QFrame) (a : QFrame), s.farm.rx = some r →
      r.kind = .upstream c → r.count < 2004 → r.check = [x, y, z, w] → s.queue c = before ++ [a] →
      (∀ q ∈ before, q.ended = true) → a.ended = false →
      ((a.stored % 128 ≠ 0 ∨ (s.classBytes c + 128 ≤ s.byteLimit c ∧ 0 < s.freeQueueBlocks)) →
        ∃ t, exec (.farmByteArrival tm b) s = .next t ∧ OnlyPlaced (((s.atTime tm).updFarm fun f =>
            { f with rx := some { r with count := r.count + 1, check := [y, z, w, b], crc := crc32Byte r.crc x } }).setQueue c
          (before ++ [{ a with uncut := a.uncut ++ [x] }])) t)
      ∧ (¬(a.stored % 128 ≠ 0 ∨ (s.classBytes c + 128 ≤ s.byteLimit c ∧ 0 < s.freeQueueBlocks)) →
        ∃ t u, exec (.farmByteArrival tm b) s = .next t
          ∧ ArrivingFailed (((s.atTime tm).updFarm fun f =>
              { f with rx := some { count := r.count + 1, kind := .dropped .lack, held := [], check := [y, z, w, b]
                                    crc := crc32Byte r.crc x } }).bump (.queueFull c)) c (a.uncut ++ [x, y, z, w, b]) u
          ∧ OnlyPlaced u t))
    ∧ (∀ (r : RxFrame) (giant : State), s.farm.rx = some r → r.count = 2004 →
      giant = (s.atTime tm).updFarm (fun f =>
        { f with rx := some { r with count := 2005, kind := .dropped .silent, held := [] } }) →
      (∀ (c : ClassIx) (before : List QFrame) (a : QFrame), r.kind = .upstream c → s.queue c = before ++ [a] →
        (∀ q ∈ before, q.ended = true) → a.ended = false →
        ∃ t u, exec (.farmByteArrival tm b) s = .next t ∧ ArrivingFailed (giant.bump .giants) c a.uncut u ∧ OnlyPlaced u t)
      ∧ (r.kind ∈ [RxKind.head, .link, .control, .dropped .table] →
        ∃ t, exec (.farmByteArrival tm b) s = .next t ∧ OnlyPlaced (giant.bump .giants) t)
      ∧ (r.kind = .dropped .lack → ∃ t, exec (.farmByteArrival tm b) s = .next t ∧ OnlyPlaced giant t))

/-- The end of a farm frame: a good upstream frame is counted, ends in its class queue and is admitted; a good control frame
joins the control frame queue or is counted lost; a good pause request sets the pause end; a frame of fewer than 64 bytes counts
as a runt and one whose FCS does not match as an FCS error, an upstream one failing as it arrives (R64, R69); a frame that a
DISCARD entry dropped is still judged and counted, one dropped for the DOWN group or for want of room is counted only if good,
and a flushed, giant or abandoned one not at all (R56, R57, R58, R60, R64, R69, R71, R72, R73, R143). What dropped frames still
count at their end is read from these rules together (log entry 17), and that a frame abandoned by a reset is ignored
to its end from R73 (log entry 33). -/
def Obligations.FarmFrameEnds : Prop :=
  ∀ (s : State) (tm : Nat) (r : RxFrame) (ended : State), s.tables.Sound → s.farm.rx = some r →
    ended = (s.atTime tm).updFarm (fun f => { f with rx := none }) →
    ∃ t, exec (.farmFrameEnd tm) s = .next t ∧ t.farm.rx = none
      ∧ (∀ c, r.kind = .upstream c → r.verdict = .good →
          t.counter .framesReceived = satInc32 (s.counter .framesReceived)
            ∧ t.counter (.admitted c) = satInc32 (s.counter (.admitted c))
            ∧ ∀ before a, s.queue c = before ++ [a] → (∀ q ∈ before, q.ended = true) → a.ended = false →
                OnlyPlaced (((ended.bump .framesReceived).setQueue c (before ++ [{ a with ended := true }])).bump (.admitted c)) t)
      ∧ (∀ c before a, r.kind = .upstream c → r.verdict = .fcsError → s.queue c = before ++ [a] →
          (∀ q ∈ before, q.ended = true) → a.ended = false →
          ∃ u, ArrivingFailed (ended.bump .fcsErrors) c a.uncut u ∧ OnlyPlaced u t)
      ∧ (r.kind = .control → r.verdict = .good → s.ctl.queue.length < 4 →
          t.ctl.queue = s.ctl.queue ++ [{ origin := .farm, bytes := r.held }])
      ∧ (r.kind = .control → r.verdict = .good → 4 ≤ s.ctl.queue.length →
          t.ctl.queue = s.ctl.queue ∧ t.counter .queueOverflows = satInc32 (s.counter .queueOverflows))
      ∧ (r.kind = .link → r.verdict = .good → be16 r.held 14 = 1 →
          t.farm.pauseEnd = some (max s.now tm + pauseLength s.farm.fast (be16 r.held 16))
            ∧ t.counter .pauseRequests = satInc32 (s.counter .pauseRequests))
      ∧ (r.kind = .head ∨ r.kind = .link ∨ r.kind = .control ∨ (∃ c, r.kind = .upstream c) → r.count < 64 →
          t.counter .runts = satInc32 (s.counter .runts) ∧ t.counter .framesReceived = s.counter .framesReceived)
      ∧ (r.kind ∈ [RxKind.head, .link, .control, .dropped .table] →
          (r.count < 64 → OnlyPlaced (ended.bump .runts) t)
          ∧ (64 ≤ r.count → r.check ≠ (wordBytes (crc32Out r.crc)).reverse → OnlyPlaced (ended.bump .fcsErrors) t))
      ∧ (r.kind ∈ [RxKind.head, .dropped .table, .dropped .lack] → 64 ≤ r.count →
          r.check = (wordBytes (crc32Out r.crc)).reverse → OnlyPlaced (ended.bump .framesReceived) t)
      ∧ (r.kind = .dropped .lack → (r.count < 64 ∨ r.check ≠ (wordBytes (crc32Out r.crc)).reverse) → OnlyPlaced ended t)
      ∧ (r.kind ∈ [RxKind.dropped .silent, .abandoned] → OnlyPlaced ended t)

/-- The farm port's transmission. The pause ends at its moment (R57). Where no transmission is under way, no pause runs and a
frame waits, the port begins one: the control engine's frame, the one ready first, or else the oldest of the farm output queue,
padded to 60 bytes, its FCS appended; otherwise nothing begins (R59, R162). Its end records the bytes sent and counts them: a
queued frame leaves the queue, its blocks freed with it, and head processing runs (R59, R96, R104); a response leaves its slot,
and the restarts that wait for it are due (R146, R155); a notice leaves its slot unless a newer one has taken it (log entry 14).
The list of slots in the order they became ready is the model's own (log entry 37). A deadline has passed when the time base has
reached it (log entry 20). -/
def Obligations.FarmTransmission : Prop :=
  ∀ (s : State) (tm : Nat) (wire : List Byte → List Byte), s.tables.Sound →
    wire = (fun bs => bs ++ List.replicate (60 - bs.length) 0
      ++ (wordBytes (crc32 (bs ++ List.replicate (60 - bs.length) 0))).reverse) →
    (∀ e, s.farm.pauseEnd = some e → e ≤ max s.now tm →
      ∃ t, exec (.pauseEnd tm) s = .next t ∧ OnlyPlaced ((s.atTime tm).updFarm fun f => { f with pauseEnd := none }) t)
    ∧ (s.farm.tx = none → (∀ e, s.farm.pauseEnd = some e → e ≤ max s.now tm) →
      (∀ r rest, s.ctl.farmOrder = .response :: rest → s.ctl.respSlot = some r →
        ∃ t, exec (.farmTransmitStart tm) s = .next t ∧ OnlyPlaced
          (((s.atTime tm).updFarm fun f => { f with tx := some (.response (wire r.bytes)) }).updCtl fun c =>
            { c with farmOrder := rest }) t)
      ∧ (∀ n rest, s.ctl.farmOrder = .notice :: rest → s.ctl.noticeSlot = some n →
        ∃ t, exec (.farmTransmitStart tm) s = .next t ∧ OnlyPlaced
          (((s.atTime tm).updFarm fun f => { f with tx := some (.notice (wire n.bytes)) }).updCtl fun c =>
            { c with farmOrder := rest, noticeSlot := some { n with sending := true } }) t)
      ∧ (∀ f rest, s.ctl.farmOrder = [] → s.farm.outQueue = f :: rest →
        ∃ t, exec (.farmTransmitStart tm) s = .next t ∧ OnlyPlaced
          ((s.atTime tm).updFarm fun x => { x with tx := some (.queued (wire f.bytes)) }) t))
    ∧ (s.farm.tx ≠ none ∨ (∃ e, s.farm.pauseEnd = some e ∧ max s.now tm < e) ∨ (s.ctl.farmOrder = [] ∧ s.farm.outQueue = []) →
      ∃ t, exec (.farmTransmitStart tm) s = .next t ∧ OnlyPlaced (s.atTime tm) t)
    ∧ (∀ (x : FarmTx) (sent : State), s.farm.tx = some x →
      sent = ((s.atTime tm).updFarm fun f => { f with tx := none, sent := f.sent ++ [x.wire] }).bump .framesSent →
      ∃ t, exec (.farmTransmitEnd tm) s = .next t
        ∧ (∀ w, x = .queued w →
            OnlyPlaced (headProcess (sent.updFarm fun f => { f with outQueue := s.farm.outQueue.tail })) t)
        ∧ (∀ w r, x = .response w → s.ctl.respSlot = some r →
            OnlyPlaced (sent.updCtl fun c =>
              { c with respSlot := none
                       restarts := c.restarts.map fun y => if y.awaits = some r.resp then { y with awaits := none } else y }) t)
        ∧ (∀ w n, x = .notice w → s.ctl.noticeSlot = some n →
            OnlyPlaced (sent.updCtl fun c => { c with noticeSlot := if n.sending then none else some n }) t)
        ∧ t.farm.tx = none ∧ t.farm.sent = s.farm.sent ++ [x.wire] ∧ t.counter .framesSent = satInc32 (s.counter .framesSent)
        ∧ (∀ w, x = .response w → t.ctl.respSlot = none))

/-- The distributor's own work on sound table memory. An attempt, and the end of a command, makes nothing but the moves of
`OnlyPlaced` (R66..R70, R76, R78..R81, R83, R84, R87); with the group UP and no more held than the slots, after an attempt no
move is left and the wait reason is the one the candidate or the due cut gives (R80, R81), and after a command no fragment is left
to cut and no frame to take, save where a pending commit stands at an epoch point, which the model applies before a frame is taken
(R76, R132; the model's choice, log entry 7). A class offers its oldest frame once ended, or at once if cut-through (R66). The projected
delivery time is E, the open window's rest with guards enabled, and the time of the bytes ahead and its own at the recorded rate,
rounded up (R51, R86). A fragment given back takes its place in the reroute list by how far its GSN lies behind the next one, the
farthest first, and is counted (R88, R89). -/
def Obligations.DistributorWork : Prop :=
  ∀ s : State, s.tables.Sound →
    OnlyPlaced s (attempt s) ∧ OnlyPlaced s (finish s)
    ∧ (s.groupUp = false → attempt s = s.updDist (fun d => { d with wait := .none }) ∧ finish s = s)
    ∧ (s.groupUp = true → s.heldSlots ≤ 256 →
        (∀ u, ¬DistPlace (attempt s) u) ∧ (∀ u, ¬DistCut (attempt s) u) ∧ WaitsFor (attempt s) (attempt s).dist.wait
        ∧ ∀ u, ¬DistCut (finish s) u)
    ∧ (∀ c, offers s c = true ↔ ∃ q rest, s.queue c = q :: rest
        ∧ (q.ended = true ∨ bitAt (s.tables.get (.group .active (classWord c))).val 16 = true))
    ∧ (∀ (size : Nat) (p : PairIx) (rest : List RetryEntry), 0 < (s.pair p).upRate →
        (((s.pair p).replay = none ∧ rest = [])
          ∨ ∃ r older, (s.pair p).replay = some r ∧ (s.pair p).store = older ++ rest ∧ (∀ x ∈ older, x.txn ≠ r.cursor)
              ∧ ∀ x, rest.head? = some x → x.txn = r.cursor) →
        ∃ d g, s.projected size p = fieldAt (s.tables.get (.pair .active p 1)).val 0 15 + g + d
          ∧ g = (match (s.pair p).guard.window with
                 | some w => if bitAt (s.tables.get (.group .active 0x08)).val 0 then w.endMs * 1000 - s.now else 0
                 | none => 0)
          ∧ 8000 * (((s.pair p).txq.map fun f => f.payload.length + 10).sum
              + (rest.map fun e => e.frag.payload.length + 10).sum + size) ≤ d * (s.pair p).upRate
          ∧ d * (s.pair p).upRate < 8000 * (((s.pair p).txq.map fun f => f.payload.length + 10).sum
              + (rest.map fun e => e.frag.payload.length + 10).sum + size) + (s.pair p).upRate)
    ∧ (∀ f : Frag,
        List.Perm (joinReroute s f).dist.reroute (f :: s.dist.reroute)
        ∧ (s.dist.reroute.Pairwise (fun x y => behindBy s.dist.nextGsn y ≤ behindBy s.dist.nextGsn x) →
            (joinReroute s f).dist.reroute.Pairwise (fun x y => behindBy s.dist.nextGsn y ≤ behindBy s.dist.nextGsn x))
        ∧ (joinReroute s f).counter .rerouted = satInc32 (s.counter .rerouted)
        ∧ joinReroute s f = (s.updDist fun d => { d with reroute := (joinReroute s f).dist.reroute }).bump .rerouted)

/-- With the group UP, a reroute list head that waits in a NO_PAIR or SKEW hold and was first placed more than the age limit ago is
discarded: its slot is freed, a restart that waited for the response it ends is due, and the reroute age discards counter is raised (R83, R155).
Before it frames are taken and cut, and after it nothing but the distributor's work follows: what is placed then comes from the
rest of the list, with RRT, or is first placed at that moment (R80, R84). Where no head waits so, or its age is at or below the limit,
or the group is DOWN, the command does nothing of its own. -/
def Obligations.RerouteHeadDiscarded : Prop :=
  ∀ (s : State) (tm : Nat), s.tables.Sound →
    (∀ f rest placed, s.groupUp = true → s.dist.reroute = f :: rest → s.dist.wait ∈ [WaitReason.noPair, .skew] →
      f.firstPlaced = some placed → placed + s.rerouteAge < max s.now tm →
      ∃ t u, exec (.rerouteAgeLimit tm) s = .next t
        ∧ OnlyPlaced (s.atTime tm) u ∧ u.dist.reroute = f :: rest ∧ u.pairs = s.pairs ∧ u.counter .ageDiscards = s.counter .ageDiscards
        ∧ OnlyPlaced ((fragmentGone f (u.updDist fun d => { d with reroute := rest })).bump .ageDiscards) t
        ∧ (∃ k, t.dist.reroute = rest.drop k)
        ∧ ∀ p, ∃ fs, t.pair p = { s.pair p with txq := (s.pair p).txq ++ fs }
            ∧ ∀ x ∈ fs, x.firstPlaced = some (max s.now tm) ∨ ∃ y ∈ rest, x = { y with rrt := true })
    ∧ ((s.groupUp = false ∨ s.dist.wait ∉ [WaitReason.noPair, .skew]
        ∨ ∀ f placed, s.dist.reroute.head? = some f → f.firstPlaced = some placed → max s.now tm ≤ placed + s.rerouteAge) →
      ∃ t, exec (.rerouteAgeLimit tm) s = .next t ∧ OnlyPlaced (s.atTime tm) t)

/-- The reassembler's deadlines. The awaited GSN N is the first from the head on without an entry (R101). The shortcut's four
conditions: a pair in PROBATION, ACTIVE or DRAINING; each such pair's LDG defined and ahead of N by 1..8191; none of them in
RETRY_ASK; no suspension running (R112). The hold deadline worked out: the earliest arrival among the entries ahead of N plus the
hold time, none without such an entry (R111). Once the head is processed, a gap follows for as long as the shortcut or, worked out
afresh, the hold deadline calls for one (R104, R110). In REASSEMBLE the hold deadline, reached, declares a gap of cause HOLD (R111);
the resync deadline takes the reassembler from RESYNC to REASSEMBLE with its head at the collected GSN farthest behind the first
arrival, by no more than 8191, takes the active W into use, discards and counts what lies W or more ahead of it, and processes the
head (R100; that W then stays in use until the next resync is read from R115, log entry 51); the end of the
suspension lifts it and tests the shortcut (R113). Before its moment no deadline does anything. A deadline has passed when the time
base has reached it (log entry 20). -/
def Obligations.ReassemblerDeadlines : Prop :=
  (∀ (s : State) (h : Gsn) (k : Nat), s.reas.head = some h → (∀ i, i < k → s.reas.entry (h + BitVec.ofNat 14 i) ≠ none) →
      s.reas.entry (h + BitVec.ofNat 14 k) = none → s.reas.awaited = some (h + BitVec.ofNat 14 k))
    ∧ (∀ s : State, s.shortcutHolds = true ↔ s.reas.state = .reassemble ∧ ∃ n, s.reas.awaited = some n
        ∧ (∃ p, (s.pair p).state ∈ [PairState.probation, .active, .draining])
        ∧ (∀ p, (s.pair p).state ∈ [PairState.probation, .active, .draining] →
            (∃ l, (s.pair p).ldg = some l ∧ 1 ≤ (l - n).toNat ∧ (l - n).toNat ≤ 8191) ∧ (s.pair p).rx = .inStep)
        ∧ ∀ e, s.reas.suspension = some e → e ≤ s.now)
    ∧ (∀ s : State, s.tables.Sound → s.reas.state = .reassemble →
        (∀ n e, s.reas.awaited = some n → e ∈ s.reas.window → 1 ≤ (e.gsn - n).toNat → (e.gsn - n).toNat ≤ 8191 →
          (∀ x ∈ s.reas.window, 1 ≤ (x.gsn - n).toNat → (x.gsn - n).toNat ≤ 8191 → e.time ≤ x.time) →
          setHold s = s.updReas fun r => { r with hold := some (e.time + s.holdTime) })
        ∧ ((∀ n, s.reas.awaited = some n → ∀ x ∈ s.reas.window, (x.gsn - n).toNat = 0 ∨ 8191 < (x.gsn - n).toNat) →
          setHold s = s.updReas fun r => { r with hold := none })
        ∧ headProcess s = testsN gapBound (processHead s)
        ∧ (∀ k, s.shortcutHolds = true → testsN (k + 1) s = testsN k (declareGap .shortcut s))
        ∧ (∀ k d, s.shortcutHolds = false → (setHold s).reas.hold = some d → d ≤ s.now →
            testsN (k + 1) s = testsN k (declareGap .hold (setHold s)))
        ∧ (∀ k, s.shortcutHolds = false → (∀ d, (setHold s).reas.hold = some d → s.now < d) → testsN (k + 1) s = setHold s)
        ∧ (s.shortcutHolds = true → testShortcut s = testsN gapBound s) ∧ (s.shortcutHolds = false → testShortcut s = s))
    ∧ ∀ (s : State) (tm : Nat), s.tables.Sound →
      (∀ d, s.reas.state = .reassemble → s.reas.hold = some d →
        (d ≤ max s.now tm →
          ∃ t, exec (.holdDeadline tm) s = .next t ∧ OnlyPlaced (testsN gapBound (declareGap .hold (s.atTime tm))) t)
        ∧ (max s.now tm < d → ∃ t, exec (.holdDeadline tm) s = .next t ∧ OnlyPlaced (s.atTime tm) t))
      ∧ (s.reas.state ≠ .reassemble ∨ s.reas.hold = none →
        ∃ t, exec (.holdDeadline tm) s = .next t ∧ OnlyPlaced (s.atTime tm) t)
      ∧ (s.reas.head ≠ none → (declareGap .hold s).counter .gapHold = satInc32 (s.counter .gapHold))
      ∧ (∀ d g, s.reas.state = .resync → s.reas.resync = some d → s.reas.first = some g →
        (d ≤ max s.now tm → ∃ t, exec (.resyncDeadline tm) s = .next t ∧ t.reas.state = .reassemble ∧ t.reas.head ≠ none
          ∧ t.reas.first = none ∧ t.reas.resync = none)
        ∧ (d ≤ max s.now tm → ∀ h, IsBase s.reas.window g h →
          ∃ t, exec (.resyncDeadline tm) s = .next t
            ∧ OnlyPlaced (headProcess (((s.atTime tm).updReas fun r =>
                { r with state := .reassemble, size := s.windowSize, window := r.window.filter fun e => decide ((e.gsn - h).toNat < s.windowSize)
                         head := some h, first := none, resync := none }).bumpBy .resyncDiscards
                  (s.reas.window.filter fun e => decide (s.windowSize ≤ (e.gsn - h).toNat)).length)) t)
        ∧ (max s.now tm < d → ∃ t, exec (.resyncDeadline tm) s = .next t ∧ OnlyPlaced (s.atTime tm) t))
      ∧ (s.reas.state ≠ .resync ∨ s.reas.resync = none ∨ s.reas.first = none →
        ∃ t, exec (.resyncDeadline tm) s = .next t ∧ OnlyPlaced (s.atTime tm) t)
      ∧ (∀ e, s.reas.suspension = some e →
        (e ≤ max s.now tm →
          ∃ t, exec (.suspensionEnd tm) s = .next t ∧ t.reas.suspension = none
            ∧ OnlyPlaced (testShortcut ((s.atTime tm).updReas fun r => { r with suspension := none })) t)
        ∧ (max s.now tm < e → ∃ t, exec (.suspensionEnd tm) s = .next t ∧ OnlyPlaced (s.atTime tm) t))
      ∧ (s.reas.suspension = none → ∃ t, exec (.suspensionEnd tm) s = .next t ∧ OnlyPlaced (s.atTime tm) t)

/-- What the reassembler does with an arrival outside IDLE, on sound table memory. One with RRT first suspends the shortcut until
now plus the hold time, or leaves a later end (R113). RESYNC: one already collected is a
duplicate, any other is tested for memory, and the first one stored sets the resync deadline (R99). REASSEMBLE, with the W in use
since the resync (log entry 51): an arrival is late, duplicate, stored with head processing, or, W or more ahead, has the head advanced until it fits first, every missing slot
passed a FORCED gap and every frame in progress passed incomplete (R102, R103; that the shortcut and the hold deadline act again
only after the memory test is the model's choice, log entry 45). The memory tests: MEMORY_EXHAUSTED where fewer blocks are free than it needs, and the reserve for class 0 (R97). Each step of head
processing: discarding, an orphan, a broken frame, a complete frame discarded as void or too long or delivered to the control
engine or the farm output queue, a frame in progress too long, and none of these (R104..R108); and a gap (R110). The byte places of
the detail are read from the layout (log entry 18). -/
def Obligations.ReassemblerArrivals : Prop :=
  ∀ (s : State), s.tables.Sound →
    (∀ (a : Entry) (v : State), v = (if a.rrt then s.updReas fun r =>
        { r with suspension := some (max (r.suspension.getD 0) (s.now + s.holdTime)) } else s) →
      (s.reas.state = .resync →
        ((s.reas.entry a.gsn).isSome = true → arrive a s = v.bump .duplicates)
        ∧ ((s.reas.entry a.gsn).isSome = false → (storeArrival a v).2 = false → arrive a s = (storeArrival a v).1)
        ∧ ((s.reas.entry a.gsn).isSome = false → (storeArrival a v).2 = true →
            arrive a s = if s.reas.first.isNone
              then (storeArrival a v).1.updReas fun r => { r with first := some a.gsn, resync := some (a.time + s.holdTime) }
              else (storeArrival a v).1))
      ∧ (∀ h : Gsn, s.reas.state = .reassemble → s.reas.head = some h →
        (8192 ≤ (a.gsn - h).toNat → arrive a s = v.bump .late)
        ∧ ((a.gsn - h).toNat < 8192 → (a.gsn - h).toNat < s.reas.size → (s.reas.entry a.gsn).isSome = true →
            arrive a s = v.bump .duplicates)
        ∧ ((a.gsn - h).toNat < 8192 → (a.gsn - h).toNat < s.reas.size → (s.reas.entry a.gsn).isSome = false →
            arrive a s = if (storeArrival a v).2 then headProcess (storeArrival a v).1 else (storeArrival a v).1)
        ∧ ((a.gsn - h).toNat < 8192 → s.reas.size ≤ (a.gsn - h).toNat → 1 ≤ s.reas.size → s.reas.size ≤ 1024 →
            (∀ e ∈ s.reas.window, (e.gsn - h).toNat < s.reas.size) →
            ∃ u h', Advances (a.gsn - BitVec.ofNat 14 (s.reas.size - 1)) (v.bump .forcedArrivals) u
              ∧ arrive a s = headProcess (storeArrival a u).1 ∧ u.reas.head = some h'
              ∧ gsnAhead (a.gsn - BitVec.ofNat 14 (s.reas.size - 1)) h' = false
              ∧ u.counter .forcedArrivals = satInc32 (s.counter .forcedArrivals)
              ∧ (∀ e ∈ u.reas.window, e ∈ s.reas.window))))
    ∧ (∀ a : Entry,
      (s.freeDownBlocks < a.blocks →
        (storeArrival a s).2 = false ∧ (storeArrival a s).1.reas = s.reas
        ∧ (storeArrival a s).1.counter .memoryDiscards = satInc32 (s.counter .memoryDiscards)
        ∧ (storeArrival a s).1.event .memoryExhausted = (s.event .memoryExhausted).occur
            { w1 := byteFields a.pair.val a.blocks (s.freeDownBlocks / 256) s.freeDownBlocks, w2 := asWord a.gsn.toNat, w3 := 0 })
      ∧ (a.blocks ≤ s.freeDownBlocks → a.cls = 0 → s.freeDownBlocks - a.blocks < s.reserve →
        storeArrival a s = (s.bump .reserveDiscards, false))
      ∧ (a.blocks ≤ s.freeDownBlocks → (a.cls = 0 → s.reserve ≤ s.freeDownBlocks - a.blocks) →
        storeArrival a s = ((s.updReas fun r => { r with window := r.window ++ [a] }).bump .stored, true)))
    ∧ headStep (processHead s) = none
    ∧ (∀ u, headStep s = some u → processHead s = processHead u)
    ∧ (headStep s = none → processHead s = s)
    ∧ (∀ h : Gsn, s.reas.state = .reassemble → s.reas.head = some h →
      (s.reas.entry h = none → headStep s = none)
      ∧ (∀ e, s.reas.entry h = some e →
        (s.reas.discarding = true → e.b = true → headStep s = some (s.updReas fun r => { r with discarding := false }))
        ∧ (s.reas.discarding = true → e.b = false →
            headStep s = some (s.updReas fun r => { (r.after h [e]) with discarding := !e.e }))
        ∧ (s.reas.discarding = false → e.b = false → headStep s = some ((s.updReas fun r => r.after h [e]).bump .orphans)))
      ∧ (∀ es, s.reas.discarding = false → s.reas.IsRun h es →
        (∀ x, s.reas.entry (h + BitVec.ofNat 14 es.length) = some x → x.b = true → (∀ e ∈ es, e.e = false) →
          headStep s = some ((s.updReas fun r => r.after h es).bump .incomplete))
        ∧ (∀ x, es.getLast? = some x → x.e = true →
          (es.any Entry.void = true → headStep s = some ((s.updReas fun r => r.after h es).bump .voidFrames))
          ∧ (es.any Entry.void = false → 2000 < (es.flatMap Entry.payload).length →
            headStep s = some ((s.updReas fun r => r.after h es).bump .tooLong))
          ∧ (es.any Entry.void = false → (es.flatMap Entry.payload).length ≤ 2000 →
            (isControlFrame s.station (es.flatMap Entry.payload) = false →
              headStep s = some (((s.updReas fun r => r.after h es).updFarm fun f =>
                { f with outQueue := f.outQueue ++ [{ bytes := es.flatMap Entry.payload
                                                      blocks := (es.map Entry.blocks).sum }] }).bump .toFarm))
            ∧ (isControlFrame s.station (es.flatMap Entry.payload) = true →
              headStep s = some ((if s.ctl.queue.length < 4
                then (s.updReas fun r => r.after h es).updCtl fun c =>
                  { c with queue := c.queue ++ [{ origin := .line, bytes := es.flatMap Entry.payload }] }
                else (s.updReas fun r => r.after h es).bump .queueOverflows).bump .toControl))))
        ∧ (s.reas.entry (h + BitVec.ofNat 14 es.length) = none → (∀ e ∈ es, e.e = false) →
          (2000 < (es.flatMap Entry.payload).length →
            headStep s = some ((s.updReas fun r => { (r.after h es) with discarding := true }).bump .tooLong))
          ∧ ((es.flatMap Entry.payload).length ≤ 2000 → headStep s = none)))
      ∧ (∀ (n : Gsn) (cause : GapCause), s.reas.awaited = some n →
        declareGap cause s = processHead (((if s.reas.inProgress = [] then s else s.bump .incomplete).updReas fun r =>
          { r with window := r.window.filter (fun e => ∀ x ∈ s.reas.inProgress, e.gsn ≠ x.gsn), head := some (n + 1) }).bump
            cause.counter)))

/-- What the farm port's commands and the reassembler's and reroute list's deadlines leave alone: every pair port but for
what is placed on it, all tables, the events, the group state, the straps and the mailboxes. -/
def Obligations.LaneCommandsFrame : Prop :=
  ∀ (s t : State) (c : Instr), s.tables.Sound → isLaneCommand c = true → exec c s = .next t →
    (∀ p, ∃ fs, t.pair p = { s.pair p with txq := (s.pair p).txq ++ fs })
      ∧ t.tables = s.tables ∧ t.events = s.events ∧ t.groupUp = s.groupUp ∧ t.digit = s.digit
      ∧ t.ctl.boxes = s.ctl.boxes

/-- On sound table memory an evaluation makes the group UP exactly when the ACTIVE pair count is at least M, and where the
state recorded agrees it changes nothing (R119). A rise raises GROUP_UP with the count and M and takes the reassembler from IDLE
to RESYNC, and nothing else of the blocks changes (R123). Whatever wrong bits table memory still holds, a group record marked
damaged takes the group DOWN with reason DAMAGED whatever the count, before the command that finds it ends (R121, R122), and an
active entry marked damaged takes its pair to OFF with cause DAMAGED and QUIET, a draining one too, where neither the group record
nor another entry is marked, whose consequences the model takes before it (R12; log entry 12). The byte places of the details are
read from the layout (log entry 18). -/
def Obligations.GroupEvaluated : Prop :=
  (∀ s : State, s.tables.Sound →
    ((evaluateGroup s).groupUp = true ↔ s.minPairs ≤ s.activeCount)
      ∧ (s.groupUp = decide (s.minPairs ≤ s.activeCount) → evaluateGroup s = s)
      ∧ (s.groupUp = false → s.minPairs ≤ s.activeCount →
          (evaluateGroup s).event .groupUp = (s.event .groupUp).occur (detail1 (byteFields s.activeCount s.minPairs 0 0))
          ∧ (evaluateGroup s).reas = { s.reas with state := .resync, window := [], head := none, first := none
                                                   discarding := false, hold := none, resync := none }
          ∧ (evaluateGroup s).pairs = s.pairs ∧ (evaluateGroup s).dist = s.dist ∧ (evaluateGroup s).farm = s.farm
          ∧ (evaluateGroup s).tables = s.tables))
    ∧ (∀ s : State, s.tables.groupDamaged = true → s.groupUp = true →
      (evaluateGroup s).groupUp = false ∧ (finish s).groupUp = false
        ∧ (evaluateGroup s).event .groupDown
            = (s.event .groupDown).occur (detail1 (byteFields s.activeCount s.minPairs 2 0)))
    ∧ (∀ (s : State) (p : PairIx), s.tables.pairDamaged[p.val] = true → (s.pair p).state ≠ .off →
      ((s.pair p).state = .draining → s.tables.groupDamaged = false ∧ ∀ q, q ≠ p → s.tables.pairDamaged[q.val] = false) →
      LeftService (s.pair p) ((finish s).pair p) .off .damaged .quiet)

/-- The group's fall: GROUP_DOWN with the count, M and reason PAIRS; every store, the reroute list, the frame in progress
and the class queues emptied; the reassembler IDLE; the farm output queue and the numbering kept (R71, R91, R94, R122). The
byte places of the detail are read from the layout (log entry 18). -/
def Obligations.GroupFallEmpties : Prop :=
  ∀ s : State, s.tables.Sound →
    (groupFall s).groupUp = false
      ∧ (∀ p, ((groupFall s).pair p).txq = [] ∧ ((groupFall s).pair p).store = [] ∧ ((groupFall s).pair p).replay = none)
      ∧ (∀ p, (s.pair p).state = .draining → ((groupFall s).pair p).state = .off ∧ ((groupFall s).pair p).cause = .drained)
      ∧ (∀ p, (s.pair p).state ≠ .draining → ((groupFall s).pair p).state = (s.pair p).state)
      ∧ (groupFall s).dist = { nextGsn := s.dist.nextGsn, fip := none, reroute := [], wait := .none }
      ∧ (∀ c, (groupFall s).queue c = [])
      ∧ (groupFall s).reas.state = .idle ∧ (groupFall s).reas.window = [] ∧ (groupFall s).reas.head = none
      ∧ (groupFall s).farm.outQueue = s.farm.outQueue ∧ (groupFall s).tables = s.tables
      ∧ (groupFall s).event .groupDown
          = (s.event .groupDown).occur (detail1 (byteFields s.activeCount s.minPairs 1 0))

/-! ### Tables and control -/

/-- An epoch point for a commit that is pending: no frame in progress, and the hold flag clear (R132); elsewhere COMMIT_APPLY does
nothing of its own. A commit at an epoch point copies every shadow word into its active word, save GID and W, which keep their values, and
an AUTO entry's E, which becomes the measured latency once the pair has taken a sample; the shadow copies and the gate
record stay; the count rises, the state becomes IDLE and COMMIT_DONE is raised (R19, R117, R133, R134). Admin OFF takes a pair to
OFF, or in GRACEFUL mode from PROBATION and ACTIVE into a drain, which an empty pair ends at once, its deadline by the new limit
(R12, R13); admin ON takes one from OFF to DOWN with RETRAIN and ends a drain in ACTIVE or PROBATION (R12, R14); a pair on
probation that meets the new conditions becomes ACTIVE (R9). A locked guard below the new threshold unlocks (R53). Notice sides
set to NONE clear a notice owed, and set from NONE with a kind pending send a notice or owe one (R161), judged after COMMIT_DONE
and taking a notice it has sent for that one (log entry 25). The probation time and the notice interval end have passed when the
time base has reached them (log entry 20). -/
def Obligations.CommitApplied : Prop :=
  ∀ (s : State) (tm : Nat), s.tables.Sound →
    (s.epochPoint = true ↔ s.tables.commitPending = true ∧ s.dist.fip = none ∧ bitAt (s.tables.get .gate).val 16 = false)
    ∧ (s.tables.commitPending = false ∨ s.dist.fip ≠ none ∨ bitAt (s.tables.get .gate).val 16 = true →
      ∃ t, exec (.commitApply tm) s = .next t ∧ OnlyPlaced (s.atTime tm) t)
    ∧ (s.tables.commitPending = true → s.dist.fip = none → bitAt (s.tables.get .gate).val 16 = false →
    ∃ t, exec (.commitApply tm) s = .next t
      ∧ t.tables.commitPending = false ∧ t.tables.commitCount = satInc16 s.tables.commitCount
      ∧ (∀ i : Fin 19, (t.tables.get (.group .active i)).val
          = if i.val < 2 then (s.tables.get (.group .active i)).val else (s.tables.get (.group .shadow i)).val)
      ∧ (∀ p, (t.tables.get (.pair .active p 0)).val = (s.tables.get (.pair .shadow p 0)).val)
      ∧ (∀ p, (t.tables.get (.pair .active p 1)).val
          = if bitAt (s.tables.get (.pair .shadow p 0)).val 16 = false ∧ (s.pair p).sampled = true
            then asWord (s.pair p).latency else (s.tables.get (.pair .shadow p 1)).val)
      ∧ (∀ i j, (t.tables.get (.cls .active i j)).val = (s.tables.get (.cls .shadow i j)).val)
      ∧ (∀ r, r.isShadow = true → t.tables.get r = s.tables.get r) ∧ t.tables.get .gate = s.tables.get .gate
      ∧ t.event .commitDone = (s.event .commitDone).occur (detail1 (asWord (satInc16 s.tables.commitCount).toNat))
      ∧ (∀ p, bitAt (s.tables.get (.pair .shadow p 0)).val 0 = false →
          ((s.pair p).state = .off → (t.pair p).state = .off ∧ (t.pair p).cause = (s.pair p).cause
            ∧ (t.pair p).sent = (s.pair p).sent)
          ∧ ((s.pair p).state = .down ∨ (s.pair p).state = .training →
            LeftService (s.pair p) { (t.pair p) with guard := (s.pair p).guard } .off .adminOff .quiet)
          ∧ ((s.pair p).state.running = true → bitAt (s.tables.get (.pair .shadow p 0)).val 8 = true →
            LeftService (s.pair p) { (t.pair p) with guard := (s.pair p).guard } .off .adminOff .quiet)
          ∧ ((s.pair p).state = .probation ∨ (s.pair p).state = .active →
            bitAt (s.tables.get (.pair .shadow p 0)).val 8 = false →
            ((s.pair p).txq = [] ∧ (s.pair p).store = [] →
              LeftService (s.pair p) { (t.pair p) with guard := (s.pair p).guard } .off .drained .quiet)
            ∧ ((s.pair p).txq ≠ [] ∨ (s.pair p).store ≠ [] → t.groupUp = true →
              (t.pair p).state = .draining ∧ (t.pair p).store = (s.pair p).store ∧ (t.pair p).txq = (s.pair p).txq
                ∧ (t.pair p).drain = some { fromActive := decide ((s.pair p).state = .active)
                                            deadline := max s.now tm + t.drainLimit })))
      ∧ (∀ p, bitAt (s.tables.get (.pair .shadow p 0)).val 0 = true →
          ((s.pair p).state = .off → (t.pair p).state = .down ∧ (t.pair p).sent = (s.pair p).sent ++ [.retrain]
            ∧ (t.pair p).cause = (s.pair p).cause)
          ∧ (∀ d, (s.pair p).state = .draining → (s.pair p).drain = some d →
            (t.pair p).drain = none
            ∧ (d.fromActive = true → t.minRate ≤ (s.pair p).upRate →
                (t.pair p).state = .active ∧ (t.pair p).latency = (s.pair p).latency ∧ (t.pair p).samples = (s.pair p).samples)
            ∧ (d.fromActive = false ∨ (s.pair p).upRate < t.minRate →
                (t.pair p).state = .probation ∧ (t.pair p).probStart = max s.now tm ∧ (t.pair p).samples = 0))
          ∧ ((s.pair p).state = .probation →
            (t.pair p).state = if (s.pair p).probStart + t.probationTime ≤ max s.now tm ∧ 4 ≤ (s.pair p).samples
                ∧ t.minRate ≤ (s.pair p).upRate ∧ (s.pair p).bar = false then .active else .probation)
          ∧ ((s.pair p).state = .down ∨ (s.pair p).state = .training ∨ (s.pair p).state = .active →
            (t.pair p).state = (s.pair p).state))
      ∧ (∀ p, (t.pair p).guard = if (s.pair p).guard.locked = true ∧ (s.pair p).guard.confidence < t.guardThreshold
          then { (s.pair p).guard with locked := false, nextStart := none, window := none } else (s.pair p).guard)
      ∧ (t.noticeSides = 0 → t.events.owed = false)
      ∧ (s.noticeSides = 0 → t.noticeSides ≠ 0 → s.anyPending = true →
          (s.events.lastNotice = none ∨ (∃ l, s.events.lastNotice = some l ∧ l + t.noticeInterval ≤ max s.now tm) →
            t.events.lastNotice = some (max s.now tm))
          ∧ (∀ l, s.events.lastNotice = some l → max s.now tm < l + t.noticeInterval →
            t.events.owed = true ∧ t.events.lastNotice = some l)))

/-- A running digest completes DONE with the CRC-32 of the words of its range, or STALE where a write has landed in it, and
raises DIGEST_DONE in both cases with the state, the damaged flag and the result recorded; the damaged flag is set by a
finding, here by an earlier one, the words being sound now (R140). All words are read at the completion (the model's choice, log
entry 19); where a write has changed a word of the range the result is a free value (log entry 4). The byte places of the detail
are read from the layout (log entry 18). -/
def Obligations.DigestCompletes : Prop :=
  ∀ (s : State) (tm : Nat), s.tables.Sound → s.tables.digest.state = .running →
    ∃ t, exec (.digestDone tm) s = .next t
      ∧ (s.tables.digest.touched = false → s.tables.digest.altered = false → t.tables.digest.state = .done)
      ∧ (s.tables.digest.touched = true → t.tables.digest.state = .stale)
      ∧ t.tables.digest.damaged = s.tables.digest.damaged
      ∧ (s.tables.digest.altered = false →
          t.tables.digest.result = crc32 ((shadowRange s.tables.digest.start s.tables.digest.last).flatMap fun a =>
            wordBytes (s.statusWord (placeAt a))))
      ∧ t.event .digestDone = (s.event .digestDone).occur
          (detail2 (byteFields (if t.tables.digest.state = .stale then 3 else 2) (if s.tables.digest.damaged then 1 else 0) 0 0)
            t.tables.digest.result)
      ∧ (∀ r, t.tables.get r = s.tables.get r)

/-- The control frame at the head of the queue is executed and leaves the queue; a malformed one is counted, changes no table,
raises no event, and from FARM is answered MALFORMED with no records (R144, R145, R146, R157). A well-formed one has its requests
executed in order, and its response carries their records: from FARM it stands in the farm response slot, from LINE it is offered
to class queue 3, where a response without room is lost and the restarts that wait for it are due (R145, R146, R155). All requests
of a frame are executed at one moment, though R145 lets events fall between them (the model's choice, log entry 24). -/
def Obligations.ControlFrameExecuted : Prop :=
  ∀ (s : State) (tm : Nat) (f : CtlFrame), s.tables.Sound → s.nextFrame = some f →
    (∃ t, exec (.controlFrameExecute tm) s = .next t
      ∧ (∃ new, t.ctl.queue = s.ctl.queue.tail ++ new) ∧ t.ctl.nextResp = s.ctl.nextResp + 1
      ∧ (f.origin = .farm → ∃ b, t.ctl.respSlot = some { bytes := b, resp := s.ctl.nextResp })
      ∧ (parseControl f.bytes = none →
          t.ctl.queue = s.ctl.queue.tail ∧ t.counter .malformedFrames = satInc32 (s.counter .malformedFrames)
            ∧ t.tables = s.tables ∧ t.events = s.events
            ∧ (f.origin = .farm → t.ctl.respSlot = some
                { bytes := ownFrame (sourceOf f.bytes) s.station (responseBody .malformed []), resp := s.ctl.nextResp })))
    ∧ (∀ (rs : List Request) (done : State × List Record) (bytes : List Byte) (u : State), parseControl f.bytes = some rs →
      done = rs.foldl (frameRequest f.origin (some s.ctl.nextResp)) (s.atTime tm, []) →
      bytes = ownFrame (sourceOf f.bytes) done.1.station (responseBody .ok done.2) →
      u = done.1.updCtl (fun c => { c with queue := c.queue.tail, nextResp := s.ctl.nextResp + 1 }) →
      (f.origin = .farm →
        ∃ t, exec (.controlFrameExecute tm) s = .next t ∧ OnlyPlaced (u.updCtl fun c =>
          { c with respSlot := some { bytes := bytes, resp := s.ctl.nextResp }, farmOrder := c.farmOrder ++ [.response] }) t)
      ∧ (f.origin = .line → done.1.groupUp = true → done.1.internalRoom bytes.length = true →
        ∃ t, exec (.controlFrameExecute tm) s = .next t ∧ OnlyPlaced ((u.setQueue 3 (u.queue 3
          ++ [{ cut := 0, uncut := bytes, ended := true, resp := some s.ctl.nextResp }])).bump (.admitted 3)) t)
      ∧ (f.origin = .line → done.1.groupUp = true → done.1.internalRoom bytes.length = false →
        ∃ t, exec (.controlFrameExecute tm) s = .next t ∧ OnlyPlaced ((responseLeft s.ctl.nextResp u).bump (.queueFull 3)) t)
      ∧ (f.origin = .line → done.1.groupUp = false →
        ∃ t, exec (.controlFrameExecute tm) s = .next t ∧ OnlyPlaced ((responseLeft s.ctl.nextResp u).bump .groupDownDrops) t))

/-- A READ of 4 to 64 bytes in a region returns the words it covers as they stand, wrapping in the region; it changes no table
word and nothing else, and only the distributor's work may follow (R147, R150). The record stands in the model's own list of
answers (log entry 15). -/
def Obligations.ReadReturnsWords : Prop :=
  ∀ (s : State) (tm : Nat) (o : Origin) (tag : Byte) (addr : Word) (len : Nat), s.tables.Sound →
    4 ≤ len → len ≤ 64 → len % 4 = 0 → placeOf addr ≠ .vacant →
    ∃ t, exec (.read tm o tag addr len) s = .next t ∧ t.tables = s.tables
      ∧ OnlyPlaced ((s.atTime tm).answer
          { code := 0x01, tag := tag, status := .ok
            data := (blockAddrs addr.toNat (len / 4)).flatMap fun a => wordBytes ((s.atTime tm).statusWord (placeAt a)) }) t

/-- Each kind of write stores one word of a shadow copy, field by field with clamping, where the gate allows it, and returns
what its kind returns (R130, R149, R151, R152, R153). The record stands in the model's own list of answers (log entry 15). -/
def Obligations.ShadowWordWritten : Prop :=
  ∀ (s : State) (tm : Nat) (o : Origin) (tag : Byte) (r : TRef) (data : List Byte), s.tables.Sound → r.isShadow = true →
    (o = .farm → s.gateAllows r.addr = true) →
    (data.length = 4 →
      (∃ t, exec (.write tm o tag (asWord r.addr) data) s = .next t
        ∧ OnlyPlaced ((storeShadow r (be32 data 0) (s.atTime tm)).answer
            { code := 0x02, tag := tag, status := .ok, data := [] }) t)
      ∧ (∃ t, exec (.writePosted tm o tag (asWord r.addr) data) s = .next t
        ∧ OnlyPlaced (storeShadow r (be32 data 0) (s.atTime tm)) t)
      ∧ (∃ t, exec (.addSat tm o tag (asWord r.addr) data) s = .next t
        ∧ OnlyPlaced ((storeShadow r (saturate32 ((s.tables.get r).val.toInt + (be32 data 0).toInt)) (s.atTime tm)).answer
            { code := 0x07, tag := tag, status := .ok, data := wordBytes (s.tables.get r).val }) t)
      ∧ (∃ t, exec (.addSatPosted tm o tag (asWord r.addr) data) s = .next t
        ∧ OnlyPlaced (storeShadow r (saturate32 ((s.tables.get r).val.toInt + (be32 data 0).toInt)) (s.atTime tm)) t))
    ∧ (data.length = 8 →
      (∃ t, exec (.maskWrite tm o tag (asWord r.addr) data) s = .next t
        ∧ OnlyPlaced ((storeShadow r (mergeWord (be32 data 0) (be32 data 4) (s.tables.get r).val) (s.atTime tm)).answer
            { code := 0x04, tag := tag, status := .ok, data := wordBytes (s.tables.get r).val }) t)
      ∧ (∃ t, exec (.maskWritePosted tm o tag (asWord r.addr) data) s = .next t
        ∧ OnlyPlaced (storeShadow r (mergeWord (be32 data 0) (be32 data 4) (s.tables.get r).val) (s.atTime tm)) t)
      ∧ (∃ t, exec (.swapIf tm o tag (asWord r.addr) data) s = .next t
        ∧ OnlyPlaced (if (s.tables.get r).val = be32 data 0
            then (storeShadow r (be32 data 4) (s.atTime tm)).answer
              { code := 0x06, tag := tag, status := .ok, data := wordBytes (s.tables.get r).val }
            else (s.atTime tm).answer
              { code := 0x06, tag := tag, status := .compareFail, data := wordBytes (s.tables.get r).val }) t))

/-- Each shadow region needs its own flag, a counter word, the commit state word and the ECC status word need write counters, and
the gate record is closed to FARM whatever the flags; no other word is gated. A FARM request that lacks its flag, and any FARM write
into the gate record, is refused DENIED with no data and no effect: no restart is recorded, no table word changes, and only the distributor's work may follow (R149). A block is refused
whole where any of its words lacks its flag, and a posted form, which gives no record, raises POSTED_FAILED instead (R151, R153).
The record stands in the model's own list of answers (log entry 15). The byte places of the detail are read from the layout (log
entry 18). -/
def Obligations.GateDenies : Prop :=
  ∀ (s : State) (tm : Nat) (tag : Byte) (addr : Word) (data : List Byte), s.tables.Sound →
    (∀ i, s.gateFlag i = bitAt (s.tables.get .gate).val i)
    ∧ (∀ a, s.gateAllows a = false ↔ gateRefuses (s.tables.get .gate).val a)
    ∧ (∀ c code, ((c = .write tm .farm tag addr data ∧ code = 0x02 ∧ blockLen data.length = true ∧ placeOf addr ≠ .vacant
            ∧ ∃ a ∈ blockAddrs addr.toNat (data.length / 4), s.gateAllows a = false)
          ∨ (c = .maskWrite tm .farm tag addr data ∧ code = 0x04 ∧ data.length = 8 ∧ placeOf addr ≠ .vacant
            ∧ s.gateAllows addr.toNat = false)
          ∨ (c = .swapIf tm .farm tag addr data ∧ code = 0x06 ∧ data.length = 8 ∧ placeOf addr ≠ .vacant
            ∧ s.gateAllows addr.toNat = false)
          ∨ (c = .addSat tm .farm tag addr data ∧ code = 0x07 ∧ data.length = 4 ∧ placeOf addr ≠ .vacant
            ∧ s.gateAllows addr.toNat = false)
          ∨ (c = .commit tm .farm tag addr [] ∧ code = 0x10 ∧ s.gateFlag 4 = false)
          ∨ (∃ p : PairIx, c = .pairRestart tm .farm tag addr [byteOf p.val] ∧ code = 0x30 ∧ s.gateFlag 5 = false)
          ∨ (c = .groupRestart tm .farm tag addr [] ∧ code = 0x31 ∧ s.gateFlag 5 = false)
          ∨ (c = .partReset tm .farm tag addr [] ∧ code = 0x32 ∧ s.gateFlag 6 = false)) →
      ∃ t, exec c s = .next t
        ∧ OnlyPlaced ((s.atTime tm).answer { code := code, tag := tag, status := .denied, data := [] }) t
        ∧ t.tables = s.tables ∧ t.ctl.restarts.map Restart.kind = s.ctl.restarts.map Restart.kind)
    ∧ (∀ c code, ((c = .writePosted tm .farm tag addr data ∧ code = 0x03 ∧ blockLen data.length = true ∧ placeOf addr ≠ .vacant
            ∧ ∃ a ∈ blockAddrs addr.toNat (data.length / 4), s.gateAllows a = false)
          ∨ (c = .maskWritePosted tm .farm tag addr data ∧ code = 0x05 ∧ data.length = 8 ∧ placeOf addr ≠ .vacant
            ∧ s.gateAllows addr.toNat = false)
          ∨ (c = .addSatPosted tm .farm tag addr data ∧ code = 0x08 ∧ data.length = 4 ∧ placeOf addr ≠ .vacant
            ∧ s.gateAllows addr.toNat = false)) →
      ∃ t, exec c s = .next t
        ∧ OnlyPlaced (raiseEvent .postedFailed (detail2 (byteFields code 2 0 0) addr) (s.atTime tm)) t
        ∧ t.tables = s.tables ∧ t.ctl.answers = s.ctl.answers)

/-- A request at a vacant address reads and writes nothing: it is answered VACANT, with the vacant pattern where it returns
words, and VACANT_ACCESS is raised once (R147, R148). The record stands in the model's own list of answers (log entry 15).
The byte places of the detail are read from the layout (log entry 18). -/
def Obligations.VacantAccessAnswered : Prop :=
  ∀ (s : State) (tm : Nat) (o : Origin) (tag : Byte) (addr : Word) (data : List Byte), s.tables.Sound →
    placeOf addr = .vacant →
    (∀ c code n, ((∃ len, c = .read tm o tag addr len ∧ code = 0x01 ∧ n = len / 4 ∧ blockLen len = true)
        ∨ (c = .write tm o tag addr data ∧ code = 0x02 ∧ n = 0 ∧ blockLen data.length = true)
        ∨ (c = .maskWrite tm o tag addr data ∧ code = 0x04 ∧ n = 1 ∧ data.length = 8)
        ∨ (c = .swapIf tm o tag addr data ∧ code = 0x06 ∧ n = 1 ∧ data.length = 8)
        ∨ (c = .addSat tm o tag addr data ∧ code = 0x07 ∧ n = 1 ∧ data.length = 4)) →
      ∃ t, exec c s = .next t
        ∧ t.ctl.answers = s.ctl.answers
            ++ [{ code := code, tag := tag, status := .vacant, data := wordsBytes (List.replicate n 0x5A0F5A0F) }]
        ∧ t.event .vacantAccess
            = (s.event .vacantAccess).occur (detail2 (byteFields (originCode o) code 0 0) addr)
        ∧ t.tables = s.tables ∧ t.ctl.boxes = s.ctl.boxes
        ∧ ∀ p, ∃ fs, t.pair p = { s.pair p with txq := (s.pair p).txq ++ fs })

/-- A COMMIT with none pending makes one pending and is answered OK, and otherwise BUSY; a DIGEST over a range that starts
in a shadow region begins at once, and otherwise is refused MALFORMED or BUSY (R131, R139, R149). The record stands in the
model's own list of answers (log entry 15). -/
def Obligations.CommitAndDigestRequests : Prop :=
  ∀ (s : State) (tm : Nat) (o : Origin) (tag : Byte) (addr : Word) (data : List Byte), s.tables.Sound →
    ((o = .farm → s.gateFlag 4 = true) →
      ∃ t, exec (.commit tm o tag addr []) s = .next t
        ∧ OnlyPlaced (if s.tables.commitPending
            then (s.atTime tm).answer { code := 0x10, tag := tag, status := .busy, data := [] }
            else ((s.atTime tm).updTables fun x => { x with commitPending := true }).answer
              { code := 0x10, tag := tag, status := .ok, data := [] }) t)
    ∧ (data.length = 8 →
      ∃ t, exec (.digest tm o tag addr data) s = .next t
        ∧ OnlyPlaced
            (if (be32 data 4).toNat < (be32 data 0).toNat ∨ inShadowRegion (be32 data 0).toNat = false
             then (s.atTime tm).answer { code := 0x11, tag := tag, status := .malformed, data := [] }
             else if s.tables.digest.state = .running
             then (s.atTime tm).answer { code := 0x11, tag := tag, status := .busy, data := [] }
             else ((s.atTime tm).updTables fun x =>
               { x with digest := DigestRec.begin (be32 data 0).toNat (be32 data 4).toNat (max s.now tm) }).answer
               { code := 0x11, tag := tag, status := .ok, data := [] }) t)

/-- EVENT_NEXT takes the pending kind of lowest code: its code, count and detail are returned, its flag and count cleared;
with none pending it returns NONE. EVENT_CLEAR clears every flag and count and keeps enables and details (R160). The record
stands in the model's own list of answers (log entry 15). The byte places of the detail are read from the layout (log entry
18). -/
def Obligations.EventRequests : Prop :=
  ∀ (s : State) (tm : Nat) (o : Origin) (tag : Byte) (addr : Word), s.tables.Sound →
    (∀ i : Fin 15, s.events.kinds[i.val].isPending = true →
      (∀ j : Fin 15, j < i → s.events.kinds[j.val].isPending = false) →
      ∃ t, exec (.eventNext tm o tag addr []) s = .next t
        ∧ OnlyPlaced (((s.atTime tm).updEvents fun u =>
              { u with kinds := u.kinds.set i.val { s.events.kinds[i.val] with isPending := false, count := 0 } }).answer
            { code := 0x20, tag := tag, status := .ok
              data := wordsBytes [byteFields (i.val + 1) s.events.kinds[i.val].count.toNat 0 0,
                s.events.kinds[i.val].detail.w1, s.events.kinds[i.val].detail.w2, s.events.kinds[i.val].detail.w3] }) t)
    ∧ ((∀ i : Fin 15, s.events.kinds[i.val].isPending = false) →
      ∃ t, exec (.eventNext tm o tag addr []) s = .next t
        ∧ OnlyPlaced ((s.atTime tm).answer
            { code := 0x20, tag := tag, status := .ok, data := List.replicate 16 0 }) t)
    ∧ (∃ t, exec (.eventClear tm o tag addr []) s = .next t
        ∧ OnlyPlaced (((s.atTime tm).updEvents fun u =>
              { u with kinds := u.kinds.map fun r => { r with isPending := false, count := 0 } }).answer
            { code := 0x21, tag := tag, status := .ok, data := [] }) t)

/-- PAIR_RESTART sends a pair that is not in OFF out of service with cause RESTART and leaves one in OFF alone;
GROUP_RESTART and PART_RESET are recorded at the end of the restart list and have no other effect yet (R11, R20, R149, R155). As
commands of their own the two wait for no response (log entry 15). The byte places of the detail are read from the layout (log
entry 18). -/
def Obligations.RestartRequests : Prop :=
  ∀ (s : State) (tm : Nat) (o : Origin) (tag : Byte) (addr : Word), s.tables.Sound →
    ((o = .farm → s.gateFlag 5 = true) →
      (∀ p : PairIx, ∃ t, exec (.pairRestart tm o tag addr [byteOf p.val]) s = .next t
        ∧ t.ctl.answers = s.ctl.answers ++ [{ code := 0x30, tag := tag, status := .ok, data := [] }]
        ∧ ((s.pair p).state ≠ .off →
            LeftService (s.pair p) (t.pair p) (if s.adminOn p then .down else .off) .restart
              (if s.adminOn p then .retrain else .quiet)
            ∧ PairDownRaised s p .restart t)
        ∧ ((s.pair p).state = .off →
            OnlyPlaced ((s.atTime tm).answer { code := 0x30, tag := tag, status := .ok, data := [] }) t))
      ∧ ∃ t, exec (.groupRestart tm o tag addr []) s = .next t
        ∧ t.ctl.restarts.map Restart.kind = s.ctl.restarts.map Restart.kind ++ [.group]
        ∧ t.ctl.restarts.getLast? = some { kind := .group, awaits := none }
        ∧ OnlyPlaced (((s.atTime tm).updCtl fun c =>
              { c with restarts := c.restarts ++ [{ kind := .group, awaits := none }] }).answer
            { code := 0x31, tag := tag, status := .ok, data := [] }) t)
    ∧ ((o = .farm → s.gateFlag 6 = true) →
      ∃ t, exec (.partReset tm o tag addr []) s = .next t
        ∧ t.ctl.restarts.map Restart.kind = s.ctl.restarts.map Restart.kind ++ [.part]
        ∧ t.ctl.restarts.getLast? = some { kind := .part, awaits := none }
        ∧ OnlyPlaced (((s.atTime tm).updCtl fun c =>
              { c with restarts := c.restarts ++ [{ kind := .part, awaits := none }] }).answer
            { code := 0x32, tag := tag, status := .ok, data := [] }) t)

/-- The mailboxes: box 0 is posted by LINE and taken by FARM, box 1 the other way. A post into an EMPTY box stores the
message and raises BOX_ARRIVED; a take returns it and empties the box unless its keep flag is set; a release empties it; a
FULL box refuses a post, an EMPTY one a take or release, and a post from the taking side is DENIED (R156). The record stands in the
model's own list of answers (log entry 15). The byte places of the detail are read from the layout (log entry 18). -/
def Obligations.MailboxRequests : Prop :=
  ∀ (s : State) (tm : Nat) (tag : Byte) (b : Fin 2) (data : List Byte) (poster taker : Origin), s.tables.Sound →
    (b = 0 → poster = .line ∧ taker = .farm) → (b = 1 → poster = .farm ∧ taker = .line) →
    (1 ≤ data.length → data.length ≤ 64 →
      (s.ctl.boxes[b.val].message = [] →
        ∃ t, exec (.boxPost tm poster tag (asWord b.val) data) s = .next t
          ∧ t.ctl.boxes = s.ctl.boxes.set b.val { s.ctl.boxes[b.val] with message := data }
          ∧ t.ctl.answers = s.ctl.answers ++ [{ code := 0x40, tag := tag, status := .ok, data := [] }]
          ∧ t.event .boxArrived = (s.event .boxArrived).occur (detail1 (byteFields b.val data.length 0 0)))
      ∧ (s.ctl.boxes[b.val].message ≠ [] →
        ∃ t, exec (.boxPost tm poster tag (asWord b.val) data) s = .next t
          ∧ OnlyPlaced ((s.atTime tm).answer { code := 0x40, tag := tag, status := .boxFull, data := [] }) t)
      ∧ (∃ t, exec (.boxPost tm taker tag (asWord b.val) data) s = .next t
          ∧ OnlyPlaced ((s.atTime tm).answer { code := 0x40, tag := tag, status := .denied, data := [] }) t))
    ∧ (s.ctl.boxes[b.val].message ≠ [] →
      (∃ t, exec (.boxTake tm taker tag (asWord b.val) []) s = .next t
        ∧ OnlyPlaced ((if s.ctl.boxes[b.val].keep then s.atTime tm
              else setBox b { s.ctl.boxes[b.val] with message := [] } (s.atTime tm)).answer
            { code := 0x41, tag := tag, status := .ok, data := s.ctl.boxes[b.val].message }) t)
      ∧ (∃ t, exec (.boxRelease tm taker tag (asWord b.val) []) s = .next t
        ∧ OnlyPlaced ((setBox b { s.ctl.boxes[b.val] with message := [] } (s.atTime tm)).answer
            { code := 0x42, tag := tag, status := .ok, data := [] }) t))
    ∧ (s.ctl.boxes[b.val].message = [] →
      (∃ t, exec (.boxTake tm taker tag (asWord b.val) []) s = .next t
        ∧ OnlyPlaced ((s.atTime tm).answer { code := 0x41, tag := tag, status := .boxEmpty, data := [] }) t)
      ∧ (∃ t, exec (.boxRelease tm taker tag (asWord b.val) []) s = .next t
        ∧ OnlyPlaced ((s.atTime tm).answer { code := 0x42, tag := tag, status := .boxEmpty, data := [] }) t))

/-- A write into one word, past the gate: a shadow word is stored with clamping, the gate record's flags are stored, the ECC
values are cleared, enable flags are written kind by kind, a keep flag is stored, a counter or the commit count is stored as
written, and a read-only word is left alone (R130, R138, R141, R151, R156, R159). A store into a word of the range of a RUNNING
digest is noted, so that the digest ends STALE, and one outside leaves it alone (R140); that it is also noted whether the word now
feeds another value is the model's own (log entry 4). The store stands past the gate as a command of its own (log entry 21). -/
def Obligations.WordWrites : Prop :=
  ∀ (s : State) (tm : Nat) (v : Word), s.tables.Sound →
    (∀ r : TRef, r.isShadow = true → ∃ t, exec (.shadowTableWrite tm (asWord r.addr) v) s = .next t
      ∧ OnlyPlaced (storeShadow r v (s.atTime tm)) t ∧ t.tables.get r = { val := clampTable r v, wrong := .none }
      ∧ ((s.tables.digest.state = .running ∧ s.tables.digest.start ≤ r.addr ∧ r.addr ≤ s.tables.digest.last) →
          t.tables.digest = { s.tables.digest with
            touched := true, altered := s.tables.digest.altered || decide ((s.tables.get r).val ≠ clampTable r v) })
      ∧ ((s.tables.digest.state ≠ .running ∨ r.addr < s.tables.digest.start ∨ s.tables.digest.last < r.addr) →
          t.tables.digest = s.tables.digest)
      ∧ ∀ q, q ≠ r → t.tables.get q = s.tables.get q)
    ∧ (∃ t, exec (.gateRecordWrite tm v) s = .next t ∧ OnlyPlaced (storeGate v (s.atTime tm)) t
      ∧ ∀ i, i ∈ [0, 1, 2, 3, 4, 5, 6, 16] → t.gateFlag i = bitAt v i)
    ∧ (∀ second, ∃ t, exec (.eccStatusWrite tm second v) s = .next t
      ∧ OnlyPlaced ((s.atTime tm).updTables TableStore.clearEcc) t
      ∧ t.tables.corrected = 0 ∧ t.tables.uncorrectable = 0 ∧ t.tables.lastCorrected = none
      ∧ t.tables.firstUncorrectable = none)
    ∧ (∃ t, exec (.eventEnableWrite tm v) s = .next t
      ∧ ∀ i : Fin 15, t.events.kinds[i.val].enabled = bitAt v i.val
          ∧ t.events.kinds[i.val].count = s.events.kinds[i.val].count
          ∧ t.events.kinds[i.val].detail = s.events.kinds[i.val].detail
          ∧ t.events.kinds[i.val].isPending
              = (bitAt v i.val && (s.events.kinds[i.val].isPending
                  || (!s.events.kinds[i.val].enabled && decide (s.events.kinds[i.val].count ≠ 0)))))
    ∧ (∀ b, ∃ t, exec (.keepFlagWrite tm b v) s = .next t
      ∧ OnlyPlaced (setBox b { s.ctl.boxes[b.val] with keep := bitAt v 0 } (s.atTime tm)) t)
    ∧ (∀ addr q i, placeOf addr = .pairCounter q i → ∃ t, exec (.counterWrite tm addr v) s = .next t
      ∧ OnlyPlaced ((s.atTime tm).updPair q fun pp => { pp with counters := pp.counters.set i.val v }) t)
    ∧ (∀ addr i, placeOf addr = .groupCounter i → ∃ t, exec (.counterWrite tm addr v) s = .next t
      ∧ OnlyPlaced { s.atTime tm with counters := s.counters.set i.val v } t)
    ∧ (∀ addr, placeOf addr = .commitState → ∃ t, exec (.counterWrite tm addr v) s = .next t
      ∧ OnlyPlaced ((s.atTime tm).updTables fun x => { x with commitCount := BitVec.ofNat 16 (v.toNat / 65536) }) t)
    ∧ (∀ addr, readOnly (placeOf addr) = true → ∃ t, exec (.counterWrite tm addr v) s = .next t
      ∧ OnlyPlaced (s.atTime tm) t)

/-- A group restart whose response has left: every pair not in OFF goes to DOWN, or on to OFF, with cause GROUP_RESTART;
every guard is unlearnt; the group is DOWN, the numbering starts at 0, the reassembler is IDLE, GID and W come from the
shadow, and GROUP_DOWN is raised once with reason RESTART (R54, R93, R117, R125). The byte places of the detail are read
from the layout (log entry 18). -/
def Obligations.GroupRestartTaken : Prop :=
  ∀ (s : State) (tm : Nat), s.tables.Sound → s.ctl.dueRestart = some .group →
    ∃ t, exec (.groupRestartEffect tm) s = .next t
      ∧ (∀ p, (s.pair p).state ≠ .off → (t.pair p).cause = .groupRestart ∧ (t.pair p).rxn = 0 ∧ (t.pair p).nextTxn = 0
          ∧ (t.pair p).ldg = none ∧ (t.pair p).txq = [] ∧ (t.pair p).store = []
          ∧ (t.pair p).state = (if s.adminOn p then .down else .off)
          ∧ (t.pair p).sent = (s.pair p).sent ++ [if s.adminOn p then .retrain else .quiet])
      ∧ (∀ p, (s.pair p).state = .off → (t.pair p).state = .off ∧ (t.pair p).cause = (s.pair p).cause
          ∧ (t.pair p).sent = (s.pair p).sent)
      ∧ (∀ p, (t.pair p).guard = Guard.unlearnt ∧ (t.pair p).counters = (s.pair p).counters
          ∧ (t.pair p).latency = (s.pair p).latency ∧ (t.pair p).upRate = (s.pair p).upRate)
      ∧ t.groupUp = false ∧ t.dist = { nextGsn := 0, fip := none, reroute := [], wait := .none }
      ∧ (∀ c, t.queue c = []) ∧ t.reas.state = .idle ∧ t.reas.window = [] ∧ t.farm.outQueue = s.farm.outQueue
      ∧ (∀ i : Fin 19, i.val < 2 → (t.tables.get (.group .active i)).val = (s.tables.get (.group .shadow i)).val)
      ∧ (∀ r, r ≠ .group .active 0 → r ≠ .group .active 1 → t.tables.get r = s.tables.get r)
      ∧ t.tables.commitPending = s.tables.commitPending
      ∧ t.event .groupDown = (s.event .groupDown).occur (detail1 (byteFields 0 s.minPairs 3 0))

/-- The reset pin returns every block to its power-up values and starts the local time base; a part reset whose response
has left does the same with the time base running on (R6, R127). The command queue and the count of free values are the
model's own and stay. The model's choices among the values are these: what `PairPort.reset` and the digest of `TableStore.reset`
hold where the manual gives no value (log entry 6), the class words but for VALID (log entry 38), the reassembler's `size` of 0
(log entry 51), and the lists of the model's own outputs, which start again, a pair's with the RETRAIN of R6 (log entry 8). The
model's own bookkeeping starts at zero, empty or clear (log entry 37). What is left of a frame being received is read from R73
(log entry 33). -/
def Obligations.ResetsTaken : Prop :=
  ∀ (s : State) (tm : Nat) (straps : BitVec 5) (c : Instr) (now : Nat),
    ((c = .powerUpReset straps ∧ now = 0)
      ∨ (c = .partResetEffect tm straps ∧ s.ctl.dueRestart = some .part ∧ now = max s.now tm)) →
    ∃ t, exec c s = .next t ∧ t.now = now ∧ t.digit = straps.setWidth 4 ∧ t.farm.fast = straps.getLsbD 4
      ∧ (∀ p, t.pair p = PairPort.reset) ∧ (∀ q, t.queue q = [])
      ∧ t.dist = { nextGsn := 0, fip := none, reroute := [], wait := .none }
      ∧ t.reas = { state := .idle, size := 0, window := [], head := none, first := none, discarding := false, hold := none
                   resync := none, suspension := none }
      ∧ t.groupUp = false ∧ t.counters = Vector.replicate 43 0 ∧ t.tables = TableStore.reset (straps.setWidth 4)
      ∧ t.ctl = ControlEngine.reset ∧ t.events = EventUnit.reset
      ∧ t.farm.outQueue = [] ∧ t.farm.tx = none ∧ t.farm.pauseEnd = none
      ∧ (t.farm.rx = none ↔ s.farm.rx = none) ∧ (∀ r, t.farm.rx = some r → r.kind = .abandoned)
      ∧ t.pending = s.pending ∧ t.freeCount = s.freeCount

/-- When the notice interval end has passed with a notice owed, nothing is owed any more, and a notice is built at that
moment if a kind is pending and the notice sides are not NONE; otherwise nothing happens (R161). A deadline has passed when
the time base has reached it (log entry 20). -/
def Obligations.NoticeIntervalEnds : Prop :=
  ∀ (s : State) (tm : Nat), s.tables.Sound →
    (s.events.owed = true → (s.atTime tm).noticeAllowed = true →
      ∃ t, exec (.noticeIntervalEnd tm) s = .next t ∧ t.events.owed = false ∧ t.events.kinds = s.events.kinds
        ∧ (s.anyPending = true → s.noticeSides ≠ 0 → t.events.lastNotice = some (max s.now tm))
        ∧ ((s.anyPending = false ∨ s.noticeSides = 0) → t.events.lastNotice = s.events.lastNotice)
        ∧ (s.anyPending = true → s.noticeSides.testBit 1 = true →
            t.ctl.noticeSlot = some { bytes := noticeFrame s, sending := false }))
    ∧ ((s.events.owed = false ∨ (s.atTime tm).noticeAllowed = false) →
      ∃ t, exec (.noticeIntervalEnd tm) s = .next t ∧ OnlyPlaced (s.atTime tm) t)

/-- A word of table memory takes its wrong bits and keeps its value for a later read to find; no other word and nothing else
changes, and what ends every command follows, which with no damage owed and the group DOWN, or its distributor without a frame,
does nothing (R135). Three or more wrong bits count as uncorrectable (the model's choice, log entry 11). -/
def Obligations.MemoryErrorsTaken : Prop :=
  ∀ (s x : State) (tm : Nat) (r : TRef) (two : Bool),
    x = (s.atTime tm).updTables (fun t => if (t.get r).wrong = .two then t else
      t.put r { val := (t.get r).val, wrong := if (t.get r).wrong = .none ∧ two = false then .one else .two }) →
    exec (.tableMemoryError tm (asWord r.addr) two) s = .next (finish x)
      ∧ (s.damageOwed = false →
          s.groupUp = false ∨ ((∀ c, s.queue c = []) ∧ s.dist.fip = none) → finish x = x)
      ∧ x.tables.get r = { val := (s.tables.get r).val
                           wrong := if (s.tables.get r).wrong = .none ∧ two = false then .one else .two }
      ∧ (∀ q, q ≠ r → x.tables.get q = s.tables.get q)
end

