-- ==== Sys2Proof/Laws/State.lean ====
section
/-! SUPPORT. One lemma for each field of the state under each update, true by unfolding; the pairs, queues and counters of an
updated state. -/

namespace Sys2Proof.Machine

variable (s : State)

@[simp] theorem State.updPair_now (p : PairIx) (f : PairPort → PairPort) : (s.updPair p f).now = s.now := rfl
@[simp] theorem State.updPair_digit (p : PairIx) (f : PairPort → PairPort) : (s.updPair p f).digit = s.digit := rfl
@[simp] theorem State.updPair_farm (p : PairIx) (f : PairPort → PairPort) : (s.updPair p f).farm = s.farm := rfl
@[simp] theorem State.updPair_queues (p : PairIx) (f : PairPort → PairPort) : (s.updPair p f).queues = s.queues := rfl
@[simp] theorem State.updPair_dist (p : PairIx) (f : PairPort → PairPort) : (s.updPair p f).dist = s.dist := rfl
@[simp] theorem State.updPair_reas (p : PairIx) (f : PairPort → PairPort) : (s.updPair p f).reas = s.reas := rfl
@[simp] theorem State.updPair_groupUp (p : PairIx) (f : PairPort → PairPort) : (s.updPair p f).groupUp = s.groupUp := rfl
@[simp] theorem State.updPair_counters (p : PairIx) (f : PairPort → PairPort) : (s.updPair p f).counters = s.counters := rfl
@[simp] theorem State.updPair_tables (p : PairIx) (f : PairPort → PairPort) : (s.updPair p f).tables = s.tables := rfl
@[simp] theorem State.updPair_ctl (p : PairIx) (f : PairPort → PairPort) : (s.updPair p f).ctl = s.ctl := rfl
@[simp] theorem State.updPair_events (p : PairIx) (f : PairPort → PairPort) : (s.updPair p f).events = s.events := rfl
@[simp] theorem State.updPair_freeCount (p : PairIx) (f : PairPort → PairPort) : (s.updPair p f).freeCount = s.freeCount := rfl
@[simp] theorem State.updPair_pending (p : PairIx) (f : PairPort → PairPort) : (s.updPair p f).pending = s.pending := rfl
@[simp] theorem State.updFarm_now (f : FarmPort → FarmPort) : (s.updFarm f).now = s.now := rfl
@[simp] theorem State.updFarm_digit (f : FarmPort → FarmPort) : (s.updFarm f).digit = s.digit := rfl
@[simp] theorem State.updFarm_pairs (f : FarmPort → FarmPort) : (s.updFarm f).pairs = s.pairs := rfl
@[simp] theorem State.updFarm_farm (f : FarmPort → FarmPort) : (s.updFarm f).farm = f s.farm := rfl
@[simp] theorem State.updFarm_queues (f : FarmPort → FarmPort) : (s.updFarm f).queues = s.queues := rfl
@[simp] theorem State.updFarm_dist (f : FarmPort → FarmPort) : (s.updFarm f).dist = s.dist := rfl
@[simp] theorem State.updFarm_reas (f : FarmPort → FarmPort) : (s.updFarm f).reas = s.reas := rfl
@[simp] theorem State.updFarm_groupUp (f : FarmPort → FarmPort) : (s.updFarm f).groupUp = s.groupUp := rfl
@[simp] theorem State.updFarm_counters (f : FarmPort → FarmPort) : (s.updFarm f).counters = s.counters := rfl
@[simp] theorem State.updFarm_tables (f : FarmPort → FarmPort) : (s.updFarm f).tables = s.tables := rfl
@[simp] theorem State.updFarm_ctl (f : FarmPort → FarmPort) : (s.updFarm f).ctl = s.ctl := rfl
@[simp] theorem State.updFarm_events (f : FarmPort → FarmPort) : (s.updFarm f).events = s.events := rfl
@[simp] theorem State.updFarm_freeCount (f : FarmPort → FarmPort) : (s.updFarm f).freeCount = s.freeCount := rfl
@[simp] theorem State.updFarm_pending (f : FarmPort → FarmPort) : (s.updFarm f).pending = s.pending := rfl
@[simp] theorem State.updDist_now (f : Distributor → Distributor) : (s.updDist f).now = s.now := rfl
@[simp] theorem State.updDist_digit (f : Distributor → Distributor) : (s.updDist f).digit = s.digit := rfl
@[simp] theorem State.updDist_pairs (f : Distributor → Distributor) : (s.updDist f).pairs = s.pairs := rfl
@[simp] theorem State.updDist_farm (f : Distributor → Distributor) : (s.updDist f).farm = s.farm := rfl
@[simp] theorem State.updDist_queues (f : Distributor → Distributor) : (s.updDist f).queues = s.queues := rfl
@[simp] theorem State.updDist_dist (f : Distributor → Distributor) : (s.updDist f).dist = f s.dist := rfl
@[simp] theorem State.updDist_reas (f : Distributor → Distributor) : (s.updDist f).reas = s.reas := rfl
@[simp] theorem State.updDist_groupUp (f : Distributor → Distributor) : (s.updDist f).groupUp = s.groupUp := rfl
@[simp] theorem State.updDist_counters (f : Distributor → Distributor) : (s.updDist f).counters = s.counters := rfl
@[simp] theorem State.updDist_tables (f : Distributor → Distributor) : (s.updDist f).tables = s.tables := rfl
@[simp] theorem State.updDist_ctl (f : Distributor → Distributor) : (s.updDist f).ctl = s.ctl := rfl
@[simp] theorem State.updDist_events (f : Distributor → Distributor) : (s.updDist f).events = s.events := rfl
@[simp] theorem State.updDist_freeCount (f : Distributor → Distributor) : (s.updDist f).freeCount = s.freeCount := rfl
@[simp] theorem State.updDist_pending (f : Distributor → Distributor) : (s.updDist f).pending = s.pending := rfl
@[simp] theorem State.updReas_now (f : Reassembler → Reassembler) : (s.updReas f).now = s.now := rfl
@[simp] theorem State.updReas_digit (f : Reassembler → Reassembler) : (s.updReas f).digit = s.digit := rfl
@[simp] theorem State.updReas_pairs (f : Reassembler → Reassembler) : (s.updReas f).pairs = s.pairs := rfl
@[simp] theorem State.updReas_farm (f : Reassembler → Reassembler) : (s.updReas f).farm = s.farm := rfl
@[simp] theorem State.updReas_queues (f : Reassembler → Reassembler) : (s.updReas f).queues = s.queues := rfl
@[simp] theorem State.updReas_dist (f : Reassembler → Reassembler) : (s.updReas f).dist = s.dist := rfl
@[simp] theorem State.updReas_reas (f : Reassembler → Reassembler) : (s.updReas f).reas = f s.reas := rfl
@[simp] theorem State.updReas_groupUp (f : Reassembler → Reassembler) : (s.updReas f).groupUp = s.groupUp := rfl
@[simp] theorem State.updReas_counters (f : Reassembler → Reassembler) : (s.updReas f).counters = s.counters := rfl
@[simp] theorem State.updReas_tables (f : Reassembler → Reassembler) : (s.updReas f).tables = s.tables := rfl
@[simp] theorem State.updReas_ctl (f : Reassembler → Reassembler) : (s.updReas f).ctl = s.ctl := rfl
@[simp] theorem State.updReas_events (f : Reassembler → Reassembler) : (s.updReas f).events = s.events := rfl
@[simp] theorem State.updReas_freeCount (f : Reassembler → Reassembler) : (s.updReas f).freeCount = s.freeCount := rfl
@[simp] theorem State.updReas_pending (f : Reassembler → Reassembler) : (s.updReas f).pending = s.pending := rfl
@[simp] theorem State.updTables_now (f : TableStore → TableStore) : (s.updTables f).now = s.now := rfl
@[simp] theorem State.updTables_digit (f : TableStore → TableStore) : (s.updTables f).digit = s.digit := rfl
@[simp] theorem State.updTables_pairs (f : TableStore → TableStore) : (s.updTables f).pairs = s.pairs := rfl
@[simp] theorem State.updTables_farm (f : TableStore → TableStore) : (s.updTables f).farm = s.farm := rfl
@[simp] theorem State.updTables_queues (f : TableStore → TableStore) : (s.updTables f).queues = s.queues := rfl
@[simp] theorem State.updTables_dist (f : TableStore → TableStore) : (s.updTables f).dist = s.dist := rfl
@[simp] theorem State.updTables_reas (f : TableStore → TableStore) : (s.updTables f).reas = s.reas := rfl
@[simp] theorem State.updTables_groupUp (f : TableStore → TableStore) : (s.updTables f).groupUp = s.groupUp := rfl
@[simp] theorem State.updTables_counters (f : TableStore → TableStore) : (s.updTables f).counters = s.counters := rfl
@[simp] theorem State.updTables_tables (f : TableStore → TableStore) : (s.updTables f).tables = f s.tables := rfl
@[simp] theorem State.updTables_ctl (f : TableStore → TableStore) : (s.updTables f).ctl = s.ctl := rfl
@[simp] theorem State.updTables_events (f : TableStore → TableStore) : (s.updTables f).events = s.events := rfl
@[simp] theorem State.updTables_freeCount (f : TableStore → TableStore) : (s.updTables f).freeCount = s.freeCount := rfl
@[simp] theorem State.updTables_pending (f : TableStore → TableStore) : (s.updTables f).pending = s.pending := rfl
@[simp] theorem State.updCtl_now (f : ControlEngine → ControlEngine) : (s.updCtl f).now = s.now := rfl
@[simp] theorem State.updCtl_digit (f : ControlEngine → ControlEngine) : (s.updCtl f).digit = s.digit := rfl
@[simp] theorem State.updCtl_pairs (f : ControlEngine → ControlEngine) : (s.updCtl f).pairs = s.pairs := rfl
@[simp] theorem State.updCtl_farm (f : ControlEngine → ControlEngine) : (s.updCtl f).farm = s.farm := rfl
@[simp] theorem State.updCtl_queues (f : ControlEngine → ControlEngine) : (s.updCtl f).queues = s.queues := rfl
@[simp] theorem State.updCtl_dist (f : ControlEngine → ControlEngine) : (s.updCtl f).dist = s.dist := rfl
@[simp] theorem State.updCtl_reas (f : ControlEngine → ControlEngine) : (s.updCtl f).reas = s.reas := rfl
@[simp] theorem State.updCtl_groupUp (f : ControlEngine → ControlEngine) : (s.updCtl f).groupUp = s.groupUp := rfl
@[simp] theorem State.updCtl_counters (f : ControlEngine → ControlEngine) : (s.updCtl f).counters = s.counters := rfl
@[simp] theorem State.updCtl_tables (f : ControlEngine → ControlEngine) : (s.updCtl f).tables = s.tables := rfl
@[simp] theorem State.updCtl_ctl (f : ControlEngine → ControlEngine) : (s.updCtl f).ctl = f s.ctl := rfl
@[simp] theorem State.updCtl_events (f : ControlEngine → ControlEngine) : (s.updCtl f).events = s.events := rfl
@[simp] theorem State.updCtl_freeCount (f : ControlEngine → ControlEngine) : (s.updCtl f).freeCount = s.freeCount := rfl
@[simp] theorem State.updCtl_pending (f : ControlEngine → ControlEngine) : (s.updCtl f).pending = s.pending := rfl
@[simp] theorem State.updEvents_now (f : EventUnit → EventUnit) : (s.updEvents f).now = s.now := rfl
@[simp] theorem State.updEvents_digit (f : EventUnit → EventUnit) : (s.updEvents f).digit = s.digit := rfl
@[simp] theorem State.updEvents_pairs (f : EventUnit → EventUnit) : (s.updEvents f).pairs = s.pairs := rfl
@[simp] theorem State.updEvents_farm (f : EventUnit → EventUnit) : (s.updEvents f).farm = s.farm := rfl
@[simp] theorem State.updEvents_queues (f : EventUnit → EventUnit) : (s.updEvents f).queues = s.queues := rfl
@[simp] theorem State.updEvents_dist (f : EventUnit → EventUnit) : (s.updEvents f).dist = s.dist := rfl
@[simp] theorem State.updEvents_reas (f : EventUnit → EventUnit) : (s.updEvents f).reas = s.reas := rfl
@[simp] theorem State.updEvents_groupUp (f : EventUnit → EventUnit) : (s.updEvents f).groupUp = s.groupUp := rfl
@[simp] theorem State.updEvents_counters (f : EventUnit → EventUnit) : (s.updEvents f).counters = s.counters := rfl
@[simp] theorem State.updEvents_tables (f : EventUnit → EventUnit) : (s.updEvents f).tables = s.tables := rfl
@[simp] theorem State.updEvents_ctl (f : EventUnit → EventUnit) : (s.updEvents f).ctl = s.ctl := rfl
@[simp] theorem State.updEvents_events (f : EventUnit → EventUnit) : (s.updEvents f).events = f s.events := rfl
@[simp] theorem State.updEvents_freeCount (f : EventUnit → EventUnit) : (s.updEvents f).freeCount = s.freeCount := rfl
@[simp] theorem State.updEvents_pending (f : EventUnit → EventUnit) : (s.updEvents f).pending = s.pending := rfl
@[simp] theorem State.setQueue_now (c : ClassIx) (q : List QFrame) : (s.setQueue c q).now = s.now := rfl
@[simp] theorem State.setQueue_digit (c : ClassIx) (q : List QFrame) : (s.setQueue c q).digit = s.digit := rfl
@[simp] theorem State.setQueue_pairs (c : ClassIx) (q : List QFrame) : (s.setQueue c q).pairs = s.pairs := rfl
@[simp] theorem State.setQueue_farm (c : ClassIx) (q : List QFrame) : (s.setQueue c q).farm = s.farm := rfl
@[simp] theorem State.setQueue_dist (c : ClassIx) (q : List QFrame) : (s.setQueue c q).dist = s.dist := rfl
@[simp] theorem State.setQueue_reas (c : ClassIx) (q : List QFrame) : (s.setQueue c q).reas = s.reas := rfl
@[simp] theorem State.setQueue_groupUp (c : ClassIx) (q : List QFrame) : (s.setQueue c q).groupUp = s.groupUp := rfl
@[simp] theorem State.setQueue_counters (c : ClassIx) (q : List QFrame) : (s.setQueue c q).counters = s.counters := rfl
@[simp] theorem State.setQueue_tables (c : ClassIx) (q : List QFrame) : (s.setQueue c q).tables = s.tables := rfl
@[simp] theorem State.setQueue_ctl (c : ClassIx) (q : List QFrame) : (s.setQueue c q).ctl = s.ctl := rfl
@[simp] theorem State.setQueue_events (c : ClassIx) (q : List QFrame) : (s.setQueue c q).events = s.events := rfl
@[simp] theorem State.setQueue_freeCount (c : ClassIx) (q : List QFrame) : (s.setQueue c q).freeCount = s.freeCount := rfl
@[simp] theorem State.setQueue_pending (c : ClassIx) (q : List QFrame) : (s.setQueue c q).pending = s.pending := rfl
@[simp] theorem State.setGroup_now (b : Bool) : (s.setGroup b).now = s.now := rfl
@[simp] theorem State.setGroup_digit (b : Bool) : (s.setGroup b).digit = s.digit := rfl
@[simp] theorem State.setGroup_pairs (b : Bool) : (s.setGroup b).pairs = s.pairs := rfl
@[simp] theorem State.setGroup_farm (b : Bool) : (s.setGroup b).farm = s.farm := rfl
@[simp] theorem State.setGroup_queues (b : Bool) : (s.setGroup b).queues = s.queues := rfl
@[simp] theorem State.setGroup_dist (b : Bool) : (s.setGroup b).dist = s.dist := rfl
@[simp] theorem State.setGroup_reas (b : Bool) : (s.setGroup b).reas = s.reas := rfl
@[simp] theorem State.setGroup_groupUp (b : Bool) : (s.setGroup b).groupUp = b := rfl
@[simp] theorem State.setGroup_counters (b : Bool) : (s.setGroup b).counters = s.counters := rfl
@[simp] theorem State.setGroup_tables (b : Bool) : (s.setGroup b).tables = s.tables := rfl
@[simp] theorem State.setGroup_ctl (b : Bool) : (s.setGroup b).ctl = s.ctl := rfl
@[simp] theorem State.setGroup_events (b : Bool) : (s.setGroup b).events = s.events := rfl
@[simp] theorem State.setGroup_freeCount (b : Bool) : (s.setGroup b).freeCount = s.freeCount := rfl
@[simp] theorem State.setGroup_pending (b : Bool) : (s.setGroup b).pending = s.pending := rfl
@[simp] theorem State.atTime_now (t : Nat) : (s.atTime t).now = max s.now t := rfl
@[simp] theorem State.atTime_digit (t : Nat) : (s.atTime t).digit = s.digit := rfl
@[simp] theorem State.atTime_pairs (t : Nat) : (s.atTime t).pairs = s.pairs := rfl
@[simp] theorem State.atTime_farm (t : Nat) : (s.atTime t).farm = s.farm := rfl
@[simp] theorem State.atTime_queues (t : Nat) : (s.atTime t).queues = s.queues := rfl
@[simp] theorem State.atTime_dist (t : Nat) : (s.atTime t).dist = s.dist := rfl
@[simp] theorem State.atTime_reas (t : Nat) : (s.atTime t).reas = s.reas := rfl
@[simp] theorem State.atTime_groupUp (t : Nat) : (s.atTime t).groupUp = s.groupUp := rfl
@[simp] theorem State.atTime_counters (t : Nat) : (s.atTime t).counters = s.counters := rfl
@[simp] theorem State.atTime_tables (t : Nat) : (s.atTime t).tables = s.tables := rfl
@[simp] theorem State.atTime_ctl (t : Nat) : (s.atTime t).ctl = s.ctl := rfl
@[simp] theorem State.atTime_events (t : Nat) : (s.atTime t).events = s.events := rfl
@[simp] theorem State.atTime_freeCount (t : Nat) : (s.atTime t).freeCount = s.freeCount := rfl
@[simp] theorem State.atTime_pending (t : Nat) : (s.atTime t).pending = s.pending := rfl
@[simp] theorem State.drawFree_now : (s.drawFree).now = s.now := rfl
@[simp] theorem State.drawFree_digit : (s.drawFree).digit = s.digit := rfl
@[simp] theorem State.drawFree_pairs : (s.drawFree).pairs = s.pairs := rfl
@[simp] theorem State.drawFree_farm : (s.drawFree).farm = s.farm := rfl
@[simp] theorem State.drawFree_queues : (s.drawFree).queues = s.queues := rfl
@[simp] theorem State.drawFree_dist : (s.drawFree).dist = s.dist := rfl
@[simp] theorem State.drawFree_reas : (s.drawFree).reas = s.reas := rfl
@[simp] theorem State.drawFree_groupUp : (s.drawFree).groupUp = s.groupUp := rfl
@[simp] theorem State.drawFree_counters : (s.drawFree).counters = s.counters := rfl
@[simp] theorem State.drawFree_tables : (s.drawFree).tables = s.tables := rfl
@[simp] theorem State.drawFree_ctl : (s.drawFree).ctl = s.ctl := rfl
@[simp] theorem State.drawFree_events : (s.drawFree).events = s.events := rfl
@[simp] theorem State.drawFree_freeCount : (s.drawFree).freeCount = s.freeCount + 1 := rfl
@[simp] theorem State.drawFree_pending : (s.drawFree).pending = s.pending := rfl
@[simp] theorem State.bump_now (c : GroupCtr) : (s.bump c).now = s.now := rfl
@[simp] theorem State.bump_digit (c : GroupCtr) : (s.bump c).digit = s.digit := rfl
@[simp] theorem State.bump_pairs (c : GroupCtr) : (s.bump c).pairs = s.pairs := rfl
@[simp] theorem State.bump_farm (c : GroupCtr) : (s.bump c).farm = s.farm := rfl
@[simp] theorem State.bump_queues (c : GroupCtr) : (s.bump c).queues = s.queues := rfl
@[simp] theorem State.bump_dist (c : GroupCtr) : (s.bump c).dist = s.dist := rfl
@[simp] theorem State.bump_reas (c : GroupCtr) : (s.bump c).reas = s.reas := rfl
@[simp] theorem State.bump_groupUp (c : GroupCtr) : (s.bump c).groupUp = s.groupUp := rfl
@[simp] theorem State.bump_tables (c : GroupCtr) : (s.bump c).tables = s.tables := rfl
@[simp] theorem State.bump_ctl (c : GroupCtr) : (s.bump c).ctl = s.ctl := rfl
@[simp] theorem State.bump_events (c : GroupCtr) : (s.bump c).events = s.events := rfl
@[simp] theorem State.bump_freeCount (c : GroupCtr) : (s.bump c).freeCount = s.freeCount := rfl
@[simp] theorem State.bump_pending (c : GroupCtr) : (s.bump c).pending = s.pending := rfl

/-- The pairs of a state with one pair updated. -/
theorem State.updPair_pair (p q : PairIx) (f : PairPort → PairPort) :
    (s.updPair p f).pair q = if q = p then f (s.pair p) else s.pair q := by
  unfold State.updPair State.pair
  simp only [Vector.getElem_set]
  by_cases h : q = p
  · subst h; simp
  · have : p.val ≠ q.val := fun e => h (Fin.ext e.symm)
    simp [h, this]

@[simp] theorem State.updPair_pair_same (p : PairIx) (f : PairPort → PairPort) : (s.updPair p f).pair p = f (s.pair p) := by
  simp [State.updPair_pair]

theorem State.updPair_pair_ne (p q : PairIx) (f : PairPort → PairPort) (h : q ≠ p) : (s.updPair p f).pair q = s.pair q := by
  simp [State.updPair_pair, h]

/-- The pairs of a state depend on its field alone. -/
theorem State.pair_congr {s t : State} (h : t.pairs = s.pairs) (p : PairIx) : t.pair p = s.pair p := by
  unfold State.pair; rw [h]

/-- A class queue of a state with one replaced. -/
theorem State.setQueue_queue (c d : ClassIx) (q : List QFrame) :
    (s.setQueue c q).queue d = if d = c then q else s.queue d := by
  unfold State.setQueue State.queue
  simp only [Vector.getElem_set]
  by_cases h : d = c
  · subst h; simp
  · have : c.val ≠ d.val := fun e => h (Fin.ext e.symm)
    simp [h, this]

/-- The counters' places are distinct. -/
theorem GroupCtr.index_inj {c d : GroupCtr} (h : c.index = d.index) : c = d := by
  have hv : c.index.val = d.index.val := congrArg Fin.val h
  cases c <;> cases d <;> first
    | rfl
    | (rename_i a b; fin_cases a <;> fin_cases b <;> first | rfl | (revert hv; decide))
    | (rename_i a; fin_cases a <;> (revert hv; decide))
    | (revert hv; decide)

/-- A counter after one is raised. -/
theorem State.bump_counter (c d : GroupCtr) :
    (s.bump c).counter d = if d = c then satInc32 (s.counter c) else s.counter d := by
  unfold State.bump State.counter
  simp only [Vector.getElem_set]
  by_cases h : d = c
  · subst h; simp
  · have : c.index.val ≠ d.index.val := fun e => h (GroupCtr.index_inj (Fin.ext e)).symm
    simp [h, this]

@[simp] theorem State.bump_counter_same (c : GroupCtr) : (s.bump c).counter c = satInc32 (s.counter c) := by
  simp [State.bump_counter]

theorem State.bump_counter_ne (c d : GroupCtr) (h : d ≠ c) : (s.bump c).counter d = s.counter d := by
  simp [State.bump_counter, h]

/-- The counters of a state depend on its field alone. -/
theorem State.counter_congr {s t : State} (h : t.counters = s.counters) (c : GroupCtr) : t.counter c = s.counter c := by
  unfold State.counter; rw [h]

end Sys2Proof.Machine
end

