-- ==== Sys2Proof/Laws/Reports.lean ====
section
/-! SUPPORT. What reporting an event, sending a notice, offering an internal frame and meeting a word of table memory can
do (`OnlyReported`); on sound table memory meeting a word does nothing. -/

namespace Sys2Proof.Machine

/-- A change of the table store, the event unit or the farm notice slot alone. -/
theorem onlyReported_of (s : State) (x : TableStore) (u : EventUnit) (n : Option NoticeSlot) (o : List FarmSlot) :
    OnlyReported s { s with tables := x, events := u, ctl := { s.ctl with noticeSlot := n, farmOrder := o } } where
  now := rfl
  digit := rfl
  pairs := rfl
  farm := rfl
  dist := rfl
  reas := rfl
  groupUp := rfl
  queues _ _ := rfl
  offered := ⟨[], (List.append_nil _).symm⟩
  counters _ _ := rfl
  ctlQueue := rfl
  ctlResp := rfl
  nextResp := rfl
  answers := rfl
  restarts := rfl
  boxes := rfl
  freeCount := rfl
  pending := rfl

theorem OnlyReported.refl (s : State) : OnlyReported s s := onlyReported_of s _ _ _ _

theorem OnlyReported.trans {s t u : State} (h : OnlyReported s t) (k : OnlyReported t u) : OnlyReported s u := by
  constructor
  · exact k.now.trans h.now
  · exact k.digit.trans h.digit
  · exact k.pairs.trans h.pairs
  · exact k.farm.trans h.farm
  · exact k.dist.trans h.dist
  · exact k.reas.trans h.reas
  · exact k.groupUp.trans h.groupUp
  · exact fun c hc => (k.queues c hc).trans (h.queues c hc)
  · obtain ⟨a, ha⟩ := h.offered
    obtain ⟨b, hb⟩ := k.offered
    exact ⟨a ++ b, by rw [hb, ha, List.append_assoc]⟩
  · exact fun c hc => (k.counters c hc).trans (h.counters c hc)
  · exact k.ctlQueue.trans h.ctlQueue
  · exact k.ctlResp.trans h.ctlResp
  · exact k.nextResp.trans h.nextResp
  · exact k.answers.trans h.answers
  · exact k.restarts.trans h.restarts
  · exact k.boxes.trans h.boxes
  · exact k.freeCount.trans h.freeCount
  · exact k.pending.trans h.pending

theorem OnlyReported.pair {s t : State} (h : OnlyReported s t) (p : PairIx) : t.pair p = s.pair p :=
  State.pair_congr h.pairs p

/-- Updating the table store or the event unit reports only. -/
theorem onlyReported_updTables (s : State) (f : TableStore → TableStore) : OnlyReported s (s.updTables f) :=
  onlyReported_of s _ _ _ _

theorem onlyReported_updEvents (s : State) (f : EventUnit → EventUnit) : OnlyReported s (s.updEvents f) :=
  onlyReported_of s _ _ _ _

theorem onlyReported_putNotice (s : State) (b : List Byte) : OnlyReported s (s.updCtl fun c => c.putNotice b) :=
  onlyReported_of s _ _ _ _

/-- Raising a counter of the classifier's offers. -/
theorem onlyReported_bump (s : State) (c : GroupCtr) (hc : c ∈ offerCounters) : OnlyReported s (s.bump c) where
  now := rfl
  digit := rfl
  pairs := rfl
  farm := rfl
  dist := rfl
  reas := rfl
  groupUp := rfl
  queues _ _ := rfl
  offered := ⟨[], by simp [State.queue]⟩
  counters d hd := State.bump_counter_ne s c d fun e => hd (e ▸ hc)
  ctlQueue := rfl
  ctlResp := rfl
  nextResp := rfl
  answers := rfl
  restarts := rfl
  boxes := rfl
  freeCount := rfl
  pending := rfl

/-- A frame joining class queue 3. -/
theorem onlyReported_offer (s : State) (q : QFrame) : OnlyReported s (s.setQueue 3 (s.queue 3 ++ [q])) where
  now := rfl
  digit := rfl
  pairs := rfl
  farm := rfl
  dist := rfl
  reas := rfl
  groupUp := rfl
  queues c hc := by rw [State.setQueue_queue, if_neg hc]
  offered := ⟨[q], by rw [State.setQueue_queue, if_pos rfl]⟩
  counters _ _ := rfl
  ctlQueue := rfl
  ctlResp := rfl
  nextResp := rfl
  answers := rfl
  restarts := rfl
  boxes := rfl
  freeCount := rfl
  pending := rfl

section look

variable {look : TRef → State → State} (hl : ∀ r s, OnlyReported s (look r s))
include hl

/-- What offering an internal frame can do. -/
theorem onlyReported_admit (b : List Byte) (r : Option Nat) (s : State) : OnlyReported s (admitInternalWith look b r s).1 := by
  unfold admitInternalWith
  split
  · dsimp only
    split
    · exact (hl _ s).trans ((onlyReported_offer _ _).trans (onlyReported_bump _ _ (by decide)))
    · exact (hl _ s).trans (onlyReported_bump _ _ (by decide))
  · exact onlyReported_bump _ _ (by decide)

/-- What a notice's reads can do. -/
theorem onlyReported_touchNotice (s : State) : OnlyReported s (touchNotice look s) :=
  ((hl _ _).trans (hl _ _)).trans ((hl _ _).trans (hl _ _))

/-- What sending a built notice can do. -/
theorem onlyReported_sendSides (b : List Byte) (n : Nat) (s : State) : OnlyReported s (sendSides look b n s) := by
  unfold sendSides
  dsimp only
  have h : OnlyReported s (if n.testBit 1 then s.updCtl fun c => c.putNotice b else s) := by
    split
    · exact onlyReported_putNotice s b
    · exact OnlyReported.refl s
  split
  · exact h.trans (onlyReported_admit hl _ _ _)
  · exact h

/-- What building and sending a notice can do. -/
theorem onlyReported_sendNoticeWith (s : State) : OnlyReported s (sendNoticeWith look s) :=
  (onlyReported_updEvents s _).trans ((onlyReported_touchNotice hl _).trans (onlyReported_sendSides hl _ _ _))

/-- What a newly pending kind can bring. -/
theorem onlyReported_newPendingWith (s : State) : OnlyReported s (newPendingWith look s) := by
  unfold newPendingWith
  dsimp only
  split
  · exact hl _ s
  · split
    · exact (hl _ s).trans (onlyReported_sendNoticeWith hl _)
    · exact (hl _ s).trans (onlyReported_updEvents _ _)

end look

/-- What meeting a word can do, given what raising an event can. -/
theorem onlyReported_touchWith {re : EventKind → Detail → State → State} (hr : ∀ k d s, OnlyReported s (re k d s))
    (r : TRef) (s : State) : OnlyReported s (touchWith re r s) := by
  unfold touchWith
  split
  · exact OnlyReported.refl s
  · exact (onlyReported_updTables s _).trans (hr _ _ _)
  · split
    · exact onlyReported_updTables s _
    · exact (onlyReported_updTables s _).trans (hr _ _ _)

theorem onlyReported_raiseN (n : Nat) : ∀ k d s, OnlyReported s (raiseN n k d s) := by
  induction n with
  | zero =>
    intro k d s
    unfold raiseN
    dsimp only
    have h : OnlyReported s (s.setEvent k ((s.event k).occur d)) := onlyReported_updEvents s _
    split
    · exact h.trans (onlyReported_newPendingWith (fun _ s => OnlyReported.refl s) _)
    · exact h
  | succ n ih =>
    intro k d s
    unfold raiseN
    dsimp only
    have h : OnlyReported s (s.setEvent k ((s.event k).occur d)) := onlyReported_updEvents s _
    split
    · exact h.trans (onlyReported_newPendingWith (onlyReported_touchWith ih) _)
    · exact h

/-- What raising an event can do (R158, R161). -/
theorem onlyReported_raiseEvent (k : EventKind) (d : Detail) (s : State) : OnlyReported s (raiseEvent k d s) :=
  onlyReported_raiseN 8 k d s

/-- What meeting a word of table memory can do (R135..R137). -/
theorem onlyReported_touch (r : TRef) (s : State) : OnlyReported s (touch r s) :=
  onlyReported_touchWith onlyReported_raiseEvent r s

theorem onlyReported_touchAll (rs : List TRef) (s : State) : OnlyReported s (touchAll rs s) := by
  induction rs generalizing s with
  | nil => exact OnlyReported.refl s
  | cons r rs ih => exact (onlyReported_touch r s).trans (ih (touch r s))

theorem onlyReported_epochTest (s : State) : OnlyReported s (epochTest s) := by
  unfold epochTest
  split
  · exact onlyReported_touch _ s
  · exact OnlyReported.refl s

theorem onlyReported_admitInternal (b : List Byte) (r : Option Nat) (s : State) : OnlyReported s (admitInternal b r s).1 :=
  onlyReported_admit onlyReported_touch b r s

theorem onlyReported_sendNotice (s : State) : OnlyReported s (sendNotice s) :=
  onlyReported_sendNoticeWith onlyReported_touch s

theorem onlyReported_newPending (s : State) : OnlyReported s (newPending s) :=
  onlyReported_newPendingWith onlyReported_touch s

/-! ### Sound table memory -/

/-- Meeting a word without wrong bits does nothing. -/
theorem touch_clean {r : TRef} {s : State} (h : (s.tables.get r).wrong = .none) : touch r s = s := by
  unfold touch touchWith; rw [h]

@[simp] theorem touch_sound {r : TRef} {s : State} (h : s.tables.Sound) : touch r s = s := touch_clean (h.words r)

theorem touchGroup_sound {i : Fin 19} {s : State} (h : s.tables.Sound) : touchGroup i s = s := touch_sound h

theorem touchAll_sound {rs : List TRef} {s : State} (h : s.tables.Sound) : touchAll rs s = s := by
  induction rs with
  | nil => rfl
  | cons r rs ih => exact (congrArg (touchAll rs) (touch_sound h)).trans ih

theorem epochTest_sound {s : State} (h : s.tables.Sound) : epochTest s = s := by
  unfold epochTest
  split
  · exact touch_sound h
  · rfl

/-- A word of sound table memory reads as its value. -/
theorem word_sound {r : TRef} {s : State} (h : s.tables.Sound) : s.word? r = some (s.tables.get r).val := by
  unfold State.word? TableStore.word?; rw [h.words r]; simp

/-- Sound table memory owes no consequence. -/
theorem damageOwed_sound {s : State} (h : s.tables.Sound) : s.damageOwed = false := by
  unfold State.damageOwed
  rw [h.group]
  simp only [Bool.false_and, Bool.false_or, List.any_eq_false]
  intro p _
  rw [h.pairs p]
  exact Bool.false_ne_true

theorem settleOwed_sound {s : State} (h : s.tables.Sound) : settleOwed s = s := by
  unfold settleOwed; rw [damageOwed_sound h]; rfl

theorem useWord_sound {r : TRef} {s : State} (h : s.tables.Sound) : useWord r s = s := by
  unfold useWord; rw [touch_sound h, settleOwed_sound h]

theorem useGroup_sound {i : Fin 19} {s : State} (h : s.tables.Sound) : useGroup i s = s := useWord_sound h

/-- Table memory at its defaults is sound. -/
theorem sound_reset (digit : BitVec 4) : (TableStore.reset digit).Sound where
  words r := by
    rcases r with ⟨_ | _, i⟩ | ⟨_ | _, p, j⟩ | ⟨_ | _, i, j⟩ | _ <;> simp [TableStore.reset, TableStore.get]
  group := rfl
  pairs p := by simp [TableStore.reset]
  cls i := by simp [TableStore.reset]
  gate := rfl

end Sys2Proof.Machine
end

