-- ==== Sys2Proof/Laws/Placement.lean ====
section
/-! SUPPORT. What the distributor's work does on sound table memory: every attempt, every cut and every end of a command is a
sequence of the moves of `OnlyPlaced`, and what such a sequence leaves alone (`WorkFrame`). -/

namespace Sys2Proof.Machine

/-! ### Sequences of moves -/

theorem OnlyPlaced.trans {s t u : State} (h : OnlyPlaced s t) (k : OnlyPlaced t u) : OnlyPlaced s u := by
  induction k with
  | refl => exact h
  | cut _ up move ih => exact .cut ih up move
  | place _ up move ih => exact .place ih up move
  | hold w _ up reason ih => exact .hold w ih up reason
  | rest _ down ih => exact .rest ih down

/-- The counters that the distributor raises (R92). -/
def workCounters : List GroupCtr := [.voidFinals, .placed, .rePlaced, .ageDiscards, .skewHolds]

/-- What the distributor's work leaves alone: everything but the class queues, the distributor, the transmit queues of ACTIVE
pairs, which only grow, its own counters, and restarts whose response it loses. -/
structure WorkFrame (s t : State) : Prop where
  now : t.now = s.now
  digit : t.digit = s.digit
  pairs : ∀ p, ∃ fs, t.pair p = { s.pair p with txq := (s.pair p).txq ++ fs }
  idle : ∀ p, (s.pair p).state ≠ .active → t.pair p = s.pair p
  farm : t.farm = s.farm
  reas : t.reas = s.reas
  groupUp : t.groupUp = s.groupUp
  counters : ∀ c, c ∉ workCounters → t.counter c = s.counter c
  tables : t.tables = s.tables
  ctl : ∃ rs, t.ctl = { s.ctl with restarts := rs }
  kinds : t.ctl.restarts.map Restart.kind = s.ctl.restarts.map Restart.kind
  events : t.events = s.events
  freeCount : t.freeCount = s.freeCount
  pending : t.pending = s.pending
  down : s.groupUp = false → ∃ w, t = s.updDist fun d => { d with wait := w }

theorem WorkFrame.trans {s t u : State} (h : WorkFrame s t) (k : WorkFrame t u) : WorkFrame s u where
  now := k.now.trans h.now
  digit := k.digit.trans h.digit
  pairs p := by
    obtain ⟨a, ha⟩ := h.pairs p
    obtain ⟨b, hb⟩ := k.pairs p
    exact ⟨a ++ b, by rw [hb, ha]; simp⟩
  idle p hp := (k.idle p (by rw [h.idle p hp]; exact hp)).trans (h.idle p hp)
  farm := k.farm.trans h.farm
  reas := k.reas.trans h.reas
  groupUp := k.groupUp.trans h.groupUp
  counters c hc := (k.counters c hc).trans (h.counters c hc)
  tables := k.tables.trans h.tables
  ctl := by
    obtain ⟨a, ha⟩ := h.ctl
    obtain ⟨b, hb⟩ := k.ctl
    exact ⟨b, by rw [hb, ha]⟩
  kinds := k.kinds.trans h.kinds
  events := k.events.trans h.events
  freeCount := k.freeCount.trans h.freeCount
  pending := k.pending.trans h.pending
  down hd := by
    obtain ⟨a, ha⟩ := h.down hd
    obtain ⟨b, hb⟩ := k.down (h.groupUp.trans hd)
    exact ⟨b, by rw [hb, ha]; rfl⟩

/-- An update of the distributor alone, with the group UP. -/
theorem workFrame_updDist {s : State} (h : s.groupUp = true) (f : Distributor → Distributor) : WorkFrame s (s.updDist f) where
  now := rfl
  digit := rfl
  pairs p := ⟨[], by simp [State.pair]⟩
  idle _ _ := rfl
  farm := rfl
  reas := rfl
  groupUp := rfl
  counters _ _ := rfl
  tables := rfl
  ctl := ⟨_, rfl⟩
  kinds := rfl
  events := rfl
  freeCount := rfl
  pending := rfl
  down hd := by simp [h] at hd

/-- The wait reason set. -/
theorem workFrame_wait (s : State) (w : WaitReason) : WorkFrame s (s.updDist fun d => { d with wait := w }) where
  now := rfl
  digit := rfl
  pairs p := ⟨[], by simp [State.pair]⟩
  idle _ _ := rfl
  farm := rfl
  reas := rfl
  groupUp := rfl
  counters _ _ := rfl
  tables := rfl
  ctl := ⟨_, rfl⟩
  kinds := rfl
  events := rfl
  freeCount := rfl
  pending := rfl
  down _ := ⟨w, rfl⟩

theorem WorkFrame.refl (s : State) : WorkFrame s s := workFrame_wait s s.dist.wait

/-- A class queue changed, with the group UP. -/
theorem workFrame_setQueue {s : State} (h : s.groupUp = true) (c : ClassIx) (q : List QFrame) : WorkFrame s (s.setQueue c q) where
  now := rfl
  digit := rfl
  pairs p := ⟨[], by simp [State.pair]⟩
  idle _ _ := rfl
  farm := rfl
  reas := rfl
  groupUp := rfl
  counters _ _ := rfl
  tables := rfl
  ctl := ⟨_, rfl⟩
  kinds := rfl
  events := rfl
  freeCount := rfl
  pending := rfl
  down hd := by simp [h] at hd

/-- One of the distributor's counters raised, with the group UP. -/
theorem workFrame_bump {s : State} (h : s.groupUp = true) (c : GroupCtr) (hc : c ∈ workCounters) : WorkFrame s (s.bump c) where
  now := rfl
  digit := rfl
  pairs p := ⟨[], by simp [State.pair]⟩
  idle _ _ := rfl
  farm := rfl
  reas := rfl
  groupUp := rfl
  counters d hd := State.bump_counter_ne s c d fun e => hd (e ▸ hc)
  tables := rfl
  ctl := ⟨_, rfl⟩
  kinds := rfl
  events := rfl
  freeCount := rfl
  pending := rfl
  down hd := by simp [h] at hd

/-- Fragments appended to an ACTIVE pair's transmit queue, with the group UP. -/
theorem workFrame_append {s : State} (h : s.groupUp = true) (p : PairIx) (hp : (s.pair p).state = .active) (fs : List Frag) :
    WorkFrame s (s.updPair p fun pp => { pp with txq := pp.txq ++ fs }) where
  now := rfl
  digit := rfl
  pairs q := by
    by_cases e : q = p
    · subst e; exact ⟨fs, by simp⟩
    · exact ⟨[], by simp [State.updPair_pair_ne s p q _ e]⟩
  idle q hq := State.updPair_pair_ne s p q _ fun e => hq (e ▸ hp)
  farm := rfl
  reas := rfl
  groupUp := rfl
  counters _ _ := rfl
  tables := rfl
  ctl := ⟨_, rfl⟩
  kinds := rfl
  events := rfl
  freeCount := rfl
  pending := rfl
  down hd := by simp [h] at hd

/-- A lost response, with the group UP: the restarts that wait for it are due. -/
theorem workFrame_fragmentGone {s : State} (h : s.groupUp = true) (f : Frag) : WorkFrame s (fragmentGone f s) := by
  unfold fragmentGone
  split
  · exact
      { now := rfl, digit := rfl, pairs := fun p => ⟨[], by simp [State.pair, responseLeft]⟩
        idle := fun _ _ => rfl, farm := rfl, reas := rfl
        groupUp := rfl, counters := fun _ _ => rfl, tables := rfl, ctl := ⟨_, rfl⟩
        kinds := by
          simp only [responseLeft, State.updCtl_ctl, List.map_map]
          exact List.map_congr_left fun r _ => by simp only [Function.comp]; split <;> rfl
        events := rfl, freeCount := rfl
        pending := rfl, down := fun hd => by simp [h] at hd }
  · exact WorkFrame.refl s

/-- An eligible pair is ACTIVE (R85). -/
theorem eligible_active {s : State} {p : PairIx} (h : eligible s p = true) : (s.pair p).state = .active := by
  unfold eligible at h
  simp at h
  exact h.1.1

/-- What a cut leaves alone. -/
theorem DistCut.frame {s t : State} (hu : s.groupUp = true) (h : DistCut s t) : WorkFrame s t := by
  cases h with
  | take => exact workFrame_updDist hu _
  | part => exact (workFrame_setQueue hu _ _).trans (workFrame_updDist (by exact hu) _)
  | last => exact (workFrame_setQueue hu _ _).trans (workFrame_updDist (by exact hu) _)
  | void =>
    exact (workFrame_setQueue hu _ _).trans ((workFrame_updDist (by exact hu) _).trans
      (workFrame_bump (by exact hu) _ (by decide)))

/-- What a placement leaves alone. -/
theorem DistPlace.frame {s t : State} (hu : s.groupUp = true) (h : DistPlace s t) : WorkFrame s t := by
  cases h with
  | discard f rest _ _ =>
    have h1 := workFrame_updDist hu fun d => { d with reroute := rest }
    have h2 := workFrame_fragmentGone (s := s.updDist fun d => { d with reroute := rest }) hu f
    exact h1.trans (h2.trans (workFrame_bump (h2.groupUp.trans hu) _ (by decide)))
  | again f rest p _ _ chosen =>
    exact (workFrame_updDist hu _).trans ((workFrame_append (by exact hu) p (by exact eligible_active chosen.1.1) _).trans
      (workFrame_bump (by exact hu) _ (by decide)))
  | new f x p _ _ _ _ chosen =>
    exact (workFrame_updDist hu _).trans ((workFrame_append (by exact hu) p (by exact eligible_active chosen.1.1) _).trans
      (workFrame_bump (by exact hu) _ (by decide)))

/-- What recording a hold leaves alone. -/
theorem workFrame_recordHold {s : State} (hu : s.groupUp = true) (w : WaitReason) : WorkFrame s (recordHold w s) := by
  unfold recordHold
  dsimp only
  split
  · exact (workFrame_wait s w).trans (workFrame_bump (by exact hu) _ (by decide))
  · exact workFrame_wait s w

/-- What the distributor's work leaves alone. -/
theorem OnlyPlaced.frame {s t : State} (h : OnlyPlaced s t) : WorkFrame s t := by
  induction h with
  | refl => exact .refl s
  | cut _ up move ih => exact ih.trans (move.frame up)
  | place _ up move ih => exact ih.trans (move.frame up)
  | hold w _ up _ ih => exact ih.trans (workFrame_recordHold up w)
  | rest _ _ ih => exact ih.trans (workFrame_wait _ _)

/-- Table memory stays sound through the distributor's work. -/
theorem OnlyPlaced.sound {s t : State} (h : OnlyPlaced s t) (hs : s.tables.Sound) : t.tables.Sound := h.frame.tables ▸ hs

/-! ### Taking and cutting -/

/-- The distributor's reads of its class queues' heads do nothing on sound table memory. -/
theorem touchOffers_sound {s : State} (h : s.tables.Sound) (cs : List ClassIx) : cs.foldl touchOffer s = s := by
  induction cs with
  | nil => rfl
  | cons c cs ih =>
    have : touchOffer s c = s := by
      unfold touchOffer
      split
      · rfl
      · split
        · rfl
        · exact touchGroup_sound h
    rw [List.foldl_cons, this, ih]

/-- The highest class that satisfies a test (R66). -/
theorem highestClass {f : ClassIx → Bool} {c : ClassIx} (h : ([3, 2, 1, 0] : List ClassIx).find? f = some c) :
    f c = true ∧ ∀ d, c < d → f d = false := by
  simp only [List.find?] at h
  cases h3 : f 3 <;> cases h2 : f 2 <;> cases h1 : f 1 <;> cases h0 : f 0 <;>
    simp only [h3, h2, h1, h0, Option.some.injEq, reduceCtorEq] at h <;> subst h <;>
    refine ⟨by assumption, fun d hd => ?_⟩ <;> fin_cases d <;> first | assumption | exact absurd hd (by decide)

/-- Taking a frame is the move `take`, or nothing (R66). -/
theorem onlyPlaced_takeFrame {s : State} (h : s.tables.Sound) : OnlyPlaced s (takeFrame s) := by
  unfold takeFrame
  split
  · rename_i hd
    simp only [Bool.and_eq_true, State.distributing, Option.isNone_iff_eq_none, Bool.not_eq_true'] at hd
    rw [touchOffers_sound h]
    dsimp only
    split
    · exact .refl
    · rename_i c hc
      rw [touchGroup_sound h]
      obtain ⟨offered, highest⟩ := highestClass hc
      exact .cut .refl hd.1.1.1 (.take c hd.1.2 hd.2 offered highest)
  · exact .refl

/-- A due cut made into a free slot is one of the moves `part`, `last` and `void` (R67..R70, R76). -/
theorem distCut_makeCut {s : State} {f : Fip} {c : Cut} (hf : s.dist.fip = some f) (hc : s.cutDue = some c)
    (slot : 0 < s.freeSlots) : DistCut s (makeCut f c s) := by
  unfold State.cutDue at hc
  rw [hf] at hc
  dsimp only at hc
  split at hc
  · exact absurd hc (by simp)
  · rename_i hn
    simp only [Bool.or_eq_true, Option.isSome_iff_ne_none, ne_eq, not_or, not_not, Bool.not_eq_true] at hn
    split at hc
    · rename_i tail ht
      obtain rfl := Option.some.inj hc
      have : queueAfterCut (s.queue f.cls) f.size { payload := tail, final := true, void := true } = (s.queue f.cls).tail := by
        unfold queueAfterCut; split <;> simp_all
      unfold makeCut
      simp only [this, cutFrag, if_true]
      exact .void f tail hf hn.1 hn.2 ht slot
    · rename_i ht
      split at hc
      · exact absurd hc (by simp)
      · rename_i q rest hq
        unfold QFrame.cutDue at hc
        split at hc
        · rename_i he
          simp only [Bool.and_eq_true, decide_eq_true_eq] at he
          obtain rfl := Option.some.inj hc
          unfold makeCut
          simp only [hq, queueAfterCut, cutFrag, if_true, Bool.false_eq_true, if_false]
          have := DistCut.last f q rest hf hn.1 hn.2 ht hq he.1 he.2 slot
          simp only [Fip.fragment, ht] at this
          exact this
        · split at hc
          · rename_i he
            simp only [decide_eq_true_eq] at he
            obtain rfl := Option.some.inj hc
            unfold makeCut
            simp only [hq, queueAfterCut, cutFrag, Bool.false_eq_true, if_false]
            have := DistCut.part f q rest hf hn.1 hn.2 ht hq he slot
            simpa only [Fip.fragment, hn.2, ht] using this
          · exact absurd hc (by simp)

/-- Taking a frame and cutting (R66, R76). -/
theorem onlyPlaced_cutNext {s : State} (h : s.tables.Sound) : OnlyPlaced s (cutNext s).1 := by
  unfold cutNext
  have ht := onlyPlaced_takeFrame h
  dsimp only
  split
  · rename_i f c hf hc
    split
    · rename_i hd
      simp only [State.distributing, Bool.and_eq_true, decide_eq_true_eq] at hd
      exact .cut ht hd.1.1 (distCut_makeCut hf hc hd.2)
    · exact ht
  · exact ht

/-! ### Choosing -/

/-- The reads of a choice do nothing on sound table memory. -/
theorem touchChoice_sound {s : State} (h : s.tables.Sound) : touchChoice s = s := by
  unfold touchChoice
  simp only [touchAll_sound h, touchGroup_sound h, ite_self]

/-- On sound table memory a choice never asks to be taken again. -/
theorem choose_sound {s : State} (h : s.tables.Sound) (n : Nat) : choose s n ≠ .again := by
  unfold choose
  dsimp only
  split
  · rename_i hd
    simp [List.any_eq_true] at hd
    obtain ⟨p, _, hp⟩ := hd
    simp [h.pairs p] at hp
  · split
    · simp
    · split <;> simp

/-- No pair is found only among none. -/
theorem leastPair_none {s : State} {n : Nat} {ps : List PairIx} (h : leastPair s n ps = none) : ps = [] := by
  cases ps with
  | nil => rfl
  | cons p ps =>
    unfold leastPair at h
    split at h
    · simp at h
    · split at h <;> simp at h

/-- Among pairs listed in rising order, the one found has the least projected delivery time and the lowest number of equals
(R87). -/
theorem leastPair_spec {s : State} {n : Nat} {ps : List PairIx} {p : PairIx} (hs : ps.Pairwise (· < ·))
    (h : leastPair s n ps = some p) :
    p ∈ ps ∧ ∀ q ∈ ps, s.projected n p < s.projected n q ∨ (s.projected n p = s.projected n q ∧ p ≤ q) := by
  induction ps generalizing p with
  | nil => simp [leastPair] at h
  | cons r rs ih =>
    have hlt := (List.pairwise_cons.mp hs).1
    unfold leastPair at h
    split at h
    · rename_i hn
      obtain rfl := Option.some.inj h
      rw [leastPair_none hn]
      simp
    · rename_i r' hr
      obtain ⟨hm, hl⟩ := ih (List.pairwise_cons.mp hs).2 hr
      split at h
      · rename_i hle
        obtain rfl := Option.some.inj h
        refine ⟨List.mem_cons_self, fun q hq => ?_⟩
        rcases List.mem_cons.mp hq with rfl | hq
        · exact .inr ⟨rfl, le_refl _⟩
        · have hlq := le_of_lt (hlt q hq)
          rcases hl q hq with h1 | ⟨h1, _⟩
          · exact .inl (lt_of_le_of_lt hle h1)
          · rcases lt_or_eq_of_le hle with h2 | h2
            · exact .inl (h1 ▸ h2)
            · exact .inr ⟨h2.trans h1, hlq⟩
      · rename_i hle
        obtain rfl := Option.some.inj h
        refine ⟨List.mem_cons_of_mem _ hm, fun q hq => ?_⟩
        rcases List.mem_cons.mp hq with rfl | hq
        · exact .inl (not_le.mp hle)
        · exact hl q hq

/-- The eligible pairs, in rising order. -/
theorem eligible_sorted (s : State) : (allPairs.filter (eligible s)).Pairwise (· < ·) :=
  List.Pairwise.filter _ (by decide)

theorem mem_allPairs (p : PairIx) : p ∈ allPairs := by fin_cases p <;> decide

/-- The pair found is the eligible one of least projected delivery time (R85, R87). -/
theorem leastPair_eligible {s : State} {n : Nat} {p : PairIx} (h : leastPair s n (allPairs.filter (eligible s)) = some p) :
    LeastPair s n p := by
  obtain ⟨hm, hl⟩ := leastPair_spec (eligible_sorted s) h
  exact ⟨(List.mem_filter.mp hm).2, fun q hq => hl q (List.mem_filter.mpr ⟨mem_allPairs q, hq⟩)⟩

/-- A choice of a pair is one the rules allow (R81, R85, R87). -/
theorem choose_onto {s : State} {n : Nat} {p : PairIx} (h : choose s n = .onto p) : MayPlace s n p := by
  unfold choose at h
  dsimp only at h
  split at h
  · simp at h
  · split at h
    · simp at h
    · rename_i q hq
      split at h
      · simp at h
      · rename_i hk
        simp only [Choice.onto.injEq] at h
        subst h
        exact ⟨leastPair_eligible hq, not_lt.mp hk⟩

/-- A hold is for the reason the rules give (R81). -/
theorem choose_hold {s : State} {n : Nat} {w : WaitReason} (h : choose s n = .hold w) : HoldsFor s n w := by
  unfold choose at h
  dsimp only at h
  split at h
  · simp at h
  · split at h
    · rename_i hn
      simp only [Choice.hold.injEq] at h
      refine .inl ⟨h.symm, fun p => ?_⟩
      have := leastPair_none hn
      rw [List.filter_eq_nil_iff] at this
      simpa using this p (mem_allPairs p)
    · rename_i q hq
      split at h
      · rename_i hk
        simp only [Choice.hold.injEq] at h
        exact .inr ⟨h.symm, q, leastPair_eligible hq, hk⟩
      · simp at h

/-- The span test (R79). -/
theorem spanOk_iff (s : State) : s.spanOk = true ↔ SpanFree s := by
  unfold State.spanOk SpanFree
  simp [List.all_eq_true]

/-! ### Attempts -/

/-- A placement attempt and those that follow it (R76, R80..R84). -/
theorem onlyPlaced_attemptN (n : Nat) : ∀ s : State, s.tables.Sound → s.groupUp = true → OnlyPlaced s (attemptN n s) := by
  induction n with
  | zero => intro s _ _; exact .refl
  | succ n ih =>
    intro s hs hu
    have hc := onlyPlaced_cutNext hs
    unfold attemptN
    dsimp only
    generalize (cutNext s).1 = c at hc ⊢
    have cs : c.tables.Sound := hc.sound hs
    have cu : c.groupUp = true := hc.frame.groupUp.trans hu
    have go : ∀ t, DistPlace c t → OnlyPlaced s (attemptN n t) := fun t ht =>
      have hp := OnlyPlaced.place hc cu ht
      hp.trans (ih t (hp.sound hs) (hp.frame.groupUp.trans hu))
    simp only [touchGroup_sound cs, touchChoice_sound cs]
    split
    · exact hc
    · split
      · rename_i f rest hr
        have ht : c.dist.reroute.tail = rest := by rw [hr]; rfl
        split
        · rename_i ha
          refine go _ ?_
          have := DistPlace.discard f rest hr ha
          simpa only [discardHead, ht, State.updDist] using this
        · rename_i ha
          split
          · rename_i hch; exact absurd hch (choose_sound cs _)
          · rename_i w hch
            refine .hold w hc cu ?_
            unfold WaitsFor; rw [hr]
            exact choose_hold hch
          · rename_i p hch
            refine go _ ?_
            have := DistPlace.again f rest p hr (not_lt.mp ha) (choose_onto hch)
            simpa only [placeAgain, ht, State.updDist] using this
      · rename_i hr
        split
        · rename_i hf
          have h0 : c.waitsForSlot = false := by unfold State.waitsForSlot State.cutDue; rw [hf]; rfl
          have := OnlyPlaced.hold .none hc cu (by unfold WaitsFor; rw [hr, hf]; simp [h0])
          simpa [recordHold] using this
        · rename_i fp hf
          split
          · rename_i hp
            have := OnlyPlaced.hold (if c.waitsForSlot then .slot else .none) hc cu
              (by unfold WaitsFor; rw [hr, hf]; simp [hp])
            have hne : (if c.waitsForSlot then WaitReason.slot else WaitReason.none) ≠ .skew := by split <;> simp
            simpa [recordHold, hne] using this
          · rename_i x hp
            have hw : (c.dist.fip.bind Fip.pendingFrag) = some x := by rw [hf]; exact hp
            split
            · rename_i hsp
              refine .hold .span hc cu ?_
              unfold WaitsFor; rw [hr, hw]
              exact .inl ⟨by rw [← spanOk_iff]; simpa using hsp, rfl⟩
            · rename_i hsp
              have hspan : SpanFree c := (spanOk_iff c).mp (by simpa using hsp)
              split
              · rename_i hch; exact absurd hch (choose_sound cs _)
              · rename_i w hch
                refine .hold w hc cu ?_
                unfold WaitsFor; rw [hr, hw]
                exact .inr ⟨hspan, choose_hold hch⟩
              · rename_i p hch
                have hpl : DistPlace c (placeNew p x (c.updDist fun d => { d with fip := fp.afterPlacement })) :=
                  DistPlace.new fp x p hr hf hp hspan (choose_onto hch)
                rw [epochTest_sound ((OnlyPlaced.place .refl cu hpl).sound cs)]
                exact go _ hpl

/-- On sound table memory a placement attempt is one run. -/
theorem onlyPlaced_attemptRun {s : State} (h : s.tables.Sound) : OnlyPlaced s (attemptRun s) := by
  unfold attemptRun
  cases hu : s.groupUp
  · exact .rest .refl hu
  · exact onlyPlaced_attemptN 400 s h hu

/-- On sound table memory nothing is settled after the run. -/
theorem attempt_sound {s : State} (h : s.tables.Sound) : attempt s = attemptRun s := by
  unfold attempt attemptSettled
  dsimp only
  rw [damageOwed_sound ((onlyPlaced_attemptRun h).sound h)]
  rfl

/-- What a placement attempt can do (R80, R82). -/
theorem onlyPlaced_attempt {s : State} (h : s.tables.Sound) : OnlyPlaced s (attempt s) := by
  rw [attempt_sound h]; exact onlyPlaced_attemptRun h

/-- A placement attempt with the group DOWN makes the wait reason NONE and nothing else (R80). -/
theorem attempt_down {s : State} (hs : s.tables.Sound) (h : s.groupUp = false) :
    attempt s = s.updDist fun d => { d with wait := .none } := by
  rw [attempt_sound hs]; unfold attemptRun; simp [h]

/-- What the distributor's other work can do (R76, R82). -/
theorem onlyPlaced_serve {s : State} (h : s.tables.Sound) : OnlyPlaced s (serve s) := by
  unfold serve
  split
  · rename_i hu
    have hc := onlyPlaced_cutNext h
    have cs := hc.sound h
    dsimp only
    split
    · exact hc.trans (onlyPlaced_attempt cs)
    · split
      · rename_i hw
        simp only [Bool.and_eq_true, List.isEmpty_iff] at hw
        have hp : (cutNext s).1.dist.fip.bind Fip.pendingFrag = none := by
          have h1 := hw.1
          unfold State.waitsForSlot State.cutDue at h1
          split at h1
          · rename_i hf; rw [hf]; rfl
          · rename_i f hf
            rw [hf]
            cases hpf : f.pendingFrag
            · exact hpf
            · simp [hpf] at h1
        have := OnlyPlaced.hold .slot hc (hc.frame.groupUp.trans hu) (by unfold WaitsFor; rw [hw.2, hp]; simp [hw.1])
        simpa [recordHold] using this
      · exact hc
  · exact .refl

/-- On sound table memory a command ends with the distributor's work alone. -/
theorem finish_sound {s : State} (h : s.tables.Sound) : finish s = serve s := by
  unfold finish
  rw [settleOwed_sound h, settleOwed_sound ((onlyPlaced_serve h).sound h)]

/-- What the end of a command can do on sound table memory. -/
theorem onlyPlaced_finish {s : State} (h : s.tables.Sound) : OnlyPlaced s (finish s) := by
  rw [finish_sound h]; exact onlyPlaced_serve h

/-- With the group DOWN the distributor does nothing at the end of a command. -/
theorem serve_down {s : State} (h : s.groupUp = false) : serve s = s := by
  unfold serve; simp [h]

end Sys2Proof.Machine
end

