-- ==== Sys2Proof/Laws/Tables.lean ====
section
/-! SUPPORT. The laws of table memory: reading back a stored word, and the word at each table address. -/

namespace Sys2Proof.Machine

/-- The places of two words of pair entries are distinct. -/
theorem pairIx_inj {p q : PairIx} {i j : Fin 2} (h : (pairIx p i).val = (pairIx q j).val) : p = q ∧ i = j := by
  unfold pairIx at h
  simp only at h
  exact ⟨Fin.ext (by omega), Fin.ext (by omega)⟩

/-- The places of two words of class entries are distinct. -/
theorem clsIx_inj {p q : Fin 64} {i j : Fin 2} (h : (clsIx p i).val = (clsIx q j).val) : p = q ∧ i = j := by
  unfold clsIx at h
  simp only at h
  exact ⟨Fin.ext (by omega), Fin.ext (by omega)⟩

/-- A word reads back as it was put. -/
@[simp] theorem TableStore.get_put_same (t : TableStore) (r : TRef) (w : TWord) : (t.put r w).get r = w := by
  rcases r with ⟨_ | _, i⟩ | ⟨_ | _, p, j⟩ | ⟨_ | _, i, j⟩ | _ <;> simp [TableStore.put, TableStore.get]

/-- Putting a word leaves every other one alone. -/
theorem TableStore.get_put_ne (t : TableStore) {q r : TRef} (w : TWord) (h : q ≠ r) : (t.put r w).get q = t.get q := by
  rcases r with ⟨_ | _, i⟩ | ⟨_ | _, p, j⟩ | ⟨_ | _, i, j⟩ | _ <;>
  rcases q with ⟨_ | _, i'⟩ | ⟨_ | _, p', j'⟩ | ⟨_ | _, i', j'⟩ | _ <;>
  first
    | rfl
    | exact absurd rfl h
    | (simp only [TableStore.put, TableStore.get]
       refine Vector.getElem_set_ne _ _ fun e => h ?_
       first
         | (rw [Fin.ext e])
         | (obtain ⟨rfl, rfl⟩ := pairIx_inj e; rfl)
         | (obtain ⟨rfl, rfl⟩ := clsIx_inj e; rfl))

/-- A stored word reads back with its value and a fresh code, and every other word is unchanged. -/
theorem TableStore.get_store (t : TableStore) (q r : TRef) (v : Word) :
    (t.store r v).get q = if q = r then { val := v, wrong := .none } else t.get q := by
  unfold TableStore.store
  split
  · rename_i h; rw [h, TableStore.get_put_same]
  · rename_i h; exact TableStore.get_put_ne t _ h

/-- A store into sound table memory leaves it sound. -/
theorem TableStore.Sound.store {t : TableStore} (h : t.Sound) (r : TRef) (v : Word) : (t.store r v).Sound where
  words q := by
    rw [TableStore.get_store]
    split
    · rfl
    · exact h.words q
  group := by
    rcases r with ⟨_ | _, i⟩ | ⟨_ | _, p, j⟩ | ⟨_ | _, i, j⟩ | _ <;> exact h.group
  pairs p := by
    rcases r with ⟨_ | _, _⟩ | ⟨_ | _, _, _⟩ | ⟨_ | _, _, _⟩ | _ <;> exact h.pairs p
  cls i := by
    rcases r with ⟨_ | _, _⟩ | ⟨_ | _, _, _⟩ | ⟨_ | _, _, _⟩ | _ <;> exact h.cls i
  gate := by
    rcases r with ⟨_ | _, i⟩ | ⟨_ | _, p, j⟩ | ⟨_ | _, i, j⟩ | _ <;> first | exact h.gate | rfl

end Sys2Proof.Machine
end

