-- ==== Sys2Proof/WellFormed.lean ====
section
/-! DEFINITION. Which commands an outside agent can put to the part: requests carry at most 64 data bytes (R144), and the
rows that name one kind of word name a word of that kind. `exec` gives an ill-formed command a meaning too. -/

namespace Sys2Proof

/-- The data of a request: at most 64 bytes (R144). -/
def dataFits (data : List Byte) : Bool := decide (data.length ≤ 64)

/-- The address names an assigned word of a shadow copy (R130). -/
def isShadowWord (a : Word) : Bool :=
  match Machine.placeOf a with
  | .table (.group .shadow _) => true
  | .table (.pair .shadow _ _) => true
  | .table (.cls .shadow _ _) => true
  | _ => false

/-- The address names a word whose write has no row of its own (R151). -/
def isOtherWord (a : Word) : Bool :=
  match Machine.placeOf a with
  | .vacant => false
  | .table .gate => false
  | .eccCounts => false
  | .eccAddresses => false
  | .eventEnable => false
  | .boxKeep _ => false
  | _ => !isShadowWord a

/-- The address names a word of table memory (R135). -/
def isTableWord (a : Word) : Bool :=
  match Machine.placeOf a with
  | .table _ => true
  | _ => false

/-- A command is well-formed. -/
def WellFormed (i : Instr) : Bool :=
  match i with
  | .powerUpReset _ => true
  | .trainStart _ _ => true
  | .up _ _ _ _ => true
  | .rate _ _ _ _ => true
  | .down _ _ => true
  | .ready _ _ => true
  | .received _ _ _ => true
  | .probationTimeExpiry _ _ => true
  | .silence _ _ => true
  | .replayTimeout _ _ => true
  | .drainLimit _ _ => true
  | .guardWindowOpen _ _ => true
  | .guardWindowEnd _ _ => true
  | .farmByteArrival _ _ => true
  | .farmFrameEnd _ => true
  | .pauseEnd _ => true
  | .farmTransmitStart _ => true
  | .farmTransmitEnd _ => true
  | .rerouteAgeLimit _ => true
  | .holdDeadline _ => true
  | .resyncDeadline _ => true
  | .suspensionEnd _ => true
  | .commitApply _ => true
  | .digestDone _ => true
  | .controlFrameExecute _ => true
  | .read _ _ _ _ len => decide (len ≤ 64)
  | .write _ _ _ _ data => dataFits data
  | .writePosted _ _ _ _ data => dataFits data
  | .maskWrite _ _ _ _ data => dataFits data
  | .maskWritePosted _ _ _ _ data => dataFits data
  | .swapIf _ _ _ _ data => dataFits data
  | .addSat _ _ _ _ data => dataFits data
  | .addSatPosted _ _ _ _ data => dataFits data
  | .commit _ _ _ _ data => dataFits data
  | .digest _ _ _ _ data => dataFits data
  | .eventNext _ _ _ _ data => dataFits data
  | .eventClear _ _ _ _ data => dataFits data
  | .pairRestart _ _ _ _ data => dataFits data
  | .groupRestart _ _ _ _ data => dataFits data
  | .partReset _ _ _ _ data => dataFits data
  | .boxPost _ _ _ _ data => dataFits data
  | .boxTake _ _ _ _ data => dataFits data
  | .boxRelease _ _ _ _ data => dataFits data
  | .shadowTableWrite _ addr _ => isShadowWord addr
  | .gateRecordWrite _ _ => true
  | .eccStatusWrite _ _ _ => true
  | .eventEnableWrite _ _ => true
  | .keepFlagWrite _ _ _ => true
  | .counterWrite _ addr _ => isOtherWord addr
  | .groupRestartEffect _ => true
  | .partResetEffect _ _ => true
  | .noticeIntervalEnd _ => true
  | .tableMemoryError _ addr _ => isTableWord addr

end Sys2Proof
end

