-- ==== Sys2Proof/Tests/Slice0.lean ====
section
/-! SUPPORT. Tests: the manual's check values, tables and worked examples; ill-formed commands refused; and for every
statement with hypotheses a concrete state and operands that meet them (the `witness_` theorems). Every expected value is
the manual's own. -/

namespace Sys2Proof.Tests

open Sys2Proof.Machine

/-! ### Helpers -/

/-- The bytes of the ASCII string "123456789". -/
def checkString : List Byte := [0x31, 0x32, 0x33, 0x34, 0x35, 0x36, 0x37, 0x38, 0x39]

/-- The reset state with pair `p`'s port changed. -/
def withPair (p : PairIx) (f : PairPort → PairPort) : State := State.reset.updPair p f

/-- The reset state with its table store changed. -/
def withTables (f : TableStore → TableStore) : State := State.reset.updTables f

/-- The reset state with a command waiting. -/
def waiting (c : Instr) : State := { State.reset with pending := [c] }

/-- A word of table memory with wrong bits at reset. -/
def withWrong (r : TRef) (w : WrongBits) : State :=
  withTables fun t => t.put r { val := (t.get r).val, wrong := w }

/-- A field of the state a command answers with; `d` where it does not answer a next state. -/
def after {α : Type} (o : Host.Outcome State Fault Refusal) (f : State → α) (d : α) : α :=
  match o with
  | .next t => f t
  | _ => d

/-- Table memory is sound where it holds the words and marks of sound table memory. -/
theorem sound_of {t u : TableStore} (h : t.Sound) (hw : ∀ r, u.get r = t.get r) (hg : u.groupDamaged = t.groupDamaged)
    (hp : u.pairDamaged = t.pairDamaged) (hc : u.clsDamaged = t.clsDamaged) (hl : u.gateLost = t.gateLost) : u.Sound where
  words r := by rw [hw]; exact h.words r
  group := by rw [hg]; exact h.group
  pairs p := by simp only [hp]; exact h.pairs p
  cls i := by simp only [hc]; exact h.cls i
  gate := by rw [hl]; exact h.gate

/-- Sound table memory with a commit pending is sound. -/
theorem sound_pending {t : TableStore} (h : t.Sound) (b : Bool) : ({ t with commitPending := b } : TableStore).Sound :=
  sound_of h (fun r => by rcases r with ⟨_ | _, _⟩ | ⟨_ | _, _, _⟩ | ⟨_ | _, _, _⟩ | _ <;> rfl) rfl rfl rfl rfl

/-- Sound table memory with another digest record is sound. -/
theorem sound_digest {t : TableStore} (h : t.Sound) (d : DigestRec) : ({ t with digest := d } : TableStore).Sound :=
  sound_of h (fun r => by rcases r with ⟨_ | _, _⟩ | ⟨_ | _, _, _⟩ | ⟨_ | _, _, _⟩ | _ <;> rfl) rfl rfl rfl rfl

/-- A word with wrong bits, written again with its value, leaves the reset tables sound. -/
theorem sound_repaired (r : TRef) (w : WrongBits) :
    ((withWrong r w).tables.store r ((withWrong r w).tables.get r).val).Sound := by
  have h := sound_reset ((0 : BitVec 5).setWidth 4)
  refine sound_of (h.store r ((withWrong r w).tables.get r).val) (fun q => ?_) ?_ ?_ ?_ ?_
  · rw [TableStore.get_store, TableStore.get_store]
    split
    · rfl
    · rename_i hq; exact TableStore.get_put_ne _ _ hq
  all_goals rcases r with ⟨_ | _, _⟩ | ⟨_ | _, _, _⟩ | ⟨_ | _, _, _⟩ | _ <;> rfl

/-! ### Check values and layouts -/

/-- R24: the fragment check over "123456789" is 0x29B1. -/
theorem test_fragment_check_value : crc16 checkString = 0x29B1 := by decide +kernel

/-- R55 and R140: the FCS and the digest's CRC-32 over "123456789" are 0xCBF43926. -/
theorem test_fcs_check_value : crc32 checkString = 0xCBF43926 := by decide +kernel

/-- spec/11: a DATA fragment's header written out from the layout: GSN 16383, TXN 127, ACKN 1, LEN 2, GID 7, B and RRQ. -/
theorem test_fragment_header :
    ({ kind := .data, b := true, e := false, cls := 2, rrt := false, rrq := true, num := 16383 * 4, txn := 127, ackn := 1
       len := 2, gid := 7, payload := [1, 2] } : FragFields).header = [0x29, 0xFF, 0xFC, 0xFE, 0x02, 0x00, 0x80, 0x07] := by
  decide

/-- R147: a READ of 16 bytes at 0x011E covers 0x011E, 0x011F, 0x0100 and 0x0101. -/
theorem test_block_wraps : blockAddrs 0x011E 4 = [0x011E, 0x011F, 0x0100, 0x0101] := by decide

/-- R139: DIGEST(0x0100, 0x0FFF) is clamped to 0x04FF; a start in an active region lies in no shadow region. -/
theorem test_digest_range : clampEnd 0x0FFF = 0x04FF ∧ inShadowRegion 0x0180 = false ∧ inShadowRegion 0x04FF = true := by
  decide

/-- spec/11: the default pair entry reads 0x00000001 and 0x000007D0, the gate record 0x0000001C, the enable word
0x00007FFF. -/
theorem test_default_words :
    pairDefault 0 = 0x00000001 ∧ pairDefault 1 = 0x000007D0 ∧ gateDefault = 0x0000001C
      ∧ State.reset.statusWord .eventEnable = 0x00007FFF := by decide

/-- R116: the default station address 02:5A:00:00:00:0s takes its digit from the straps. -/
theorem test_station_digit : (State.powerUp 0x0B).station = 0x025A0000000B := by decide

/-! ### Worked examples -/

/-- R116: W 100, 1,000 and 2,000; silence limit 1,234 and 40; minimum usable rate 12,000. -/
theorem test_clamping_examples :
    clampGroup 1 100 = 64 ∧ clampGroup 1 1000 = 960 ∧ fieldAt (clampGroup 1 2000) 0 11 = 1024
      ∧ fieldAt (clampGroup 5 1234) 0 12 = 1230 ∧ fieldAt (clampGroup 5 40) 0 12 = 100 ∧ clampGroup 6 12000 = 10000 := by
  decide

/-- R62: F 40, 300 and 600. -/
theorem test_fragment_size_examples : clampF 40 = 64 ∧ clampF 300 = 288 ∧ clampF 600 = 512 := by decide

/-- spec/01, three samples: 2,400, then 2,410, then 2,384. -/
theorem test_latency_examples :
    nextLatency 1 1900 2400 = 2400 ∧ nextLatency 2 2400 2480 = 2410 ∧ nextLatency 3 2410 2200 = 2384 := by decide

/-- spec/03, learning a fence: after burst starts at 0, 1,004, 2,003, 3,005 and 4,006 ms P is 1,001 and the confidence
3. -/
theorem test_fence_learnt :
    let g := [0, 1004, 2003, 3005, 4006].foldl Guard.learn Guard.unlearnt
    g.period = 1001 ∧ g.confidence = 3 ∧ g.lastStart = some 4006 := by decide

/-- R46: an interval of 190 ms clears P = 200, though it would match. -/
theorem test_short_interval_clears : ({ Guard.unlearnt with period := 200 } : Guard).learnInterval 190 = (0, 0) := by decide

/-- spec/05, three pairs: the last terms of D for 266 wire bytes at 2,048, 1,024 and 512 kbit/s. -/
theorem test_projected_terms :
    1200 + ceilDiv (8000 * 266) 2048 = 2240 ∧ 1500 + ceilDiv (8000 * 266) 1024 = 3579 ∧ 3000 + ceilDiv (8000 * 266) 512 = 7157 := by
  decide

/-- A fragment on the reroute list. -/
def listed (g : Gsn) : Frag :=
  { payload := [0], b := true, e := true, cls := 0, void := false, gsn := some g, firstPlaced := some 0, rrt := false, resp := none }

/-- spec/05, merging a failed pair with next GSN 18: 16381, 16382, 16383, 0, 1, 2. -/
theorem test_reroute_merge :
    (([16382, 1, 16381, 16383, 0, 2] : List Gsn).foldl (fun l g => insertByGsn 18 (listed g) l) []).map Frag.gsn
      = ([16381, 16382, 16383, 0, 1, 2] : List Gsn).map some := by decide

/-- An arrival of one block. -/
def entry (g : Gsn) (b e : Bool) (t : Nat) : Entry :=
  { gsn := g, b := b, e := e, cls := 1, void := false, rrt := false, payload := [0], pair := 2, time := t }

/-- spec/06, resync: with 7002 first, the base of 7002, 7003, 6999, 7001 and 7004 is 6999. -/
theorem test_resync_base :
    resyncBase 7002 (([7002, 7003, 6999, 7001, 7004] : List Gsn).map fun g => entry g true true 0) = 6999 := by decide

/-- R103: an arrival W + 1 ahead of an empty head advances it, declaring two FORCED gaps. -/
theorem test_force_advance :
    let s := { State.reset with reas := { State.reset.reas with state := .reassemble, size := 512, head := some 100 } }
    let t := arriveWindow (entry 613 true true 0) s
    t.reas.head = some 102 ∧ t.counter .gapForced = 2 ∧ t.counter .forcedArrivals = 1 ∧ t.counter .stored = 1 := by
  decide

/-! ### Commands -/

/-- R3, R7: an UP in DOWN clamps both rates and enters PROBATION. -/
theorem test_up_clamps_rates :
    after (exec (.up 5 3 10 200000) State.reset) (fun t => ((t.pair 3).state, (t.pair 3).upRate, (t.pair 3).downRate)) (.off, 0, 0)
      = (.probation, 64, 100000) := by decide

/-- R16, R28, spec/11: the first READY in PROBATION hands out a PROBE: kind 2, STAMP in 10 µs units, ACKN 127, GID 1. -/
theorem test_first_ready_sends_probe :
    after (exec (.ready 12345 0) (withPair 0 fun pp => { pp with state := .probation }))
      (fun t => (t.pair 0).sent.getLast?.map fun c => match c with | .send bs => bs.take 8 | _ => []) none
      = some [0x80, 0x04, 0xD2, 0x00, 0xFE, 0x00, 0x00, 0x01] := by decide

/-- R40: a fragment of fewer than 10 bytes is bad and moves the receiver to RETRY_ASK. -/
theorem test_short_fragment_asks :
    after (exec (.received 0 0 [1, 2, 3]) (withPair 0 fun pp => { pp with state := .active }))
      (fun t => ((t.pair 0).rx, (t.pair 0).counter .bad)) (.inStep, 0) = (.retryAsk, 1) := by decide

/-- R7, R11: a TRAIN_START on a pair in service is taken as a loss of line. -/
theorem test_train_start_in_service :
    after (exec (.trainStart 9 1) (withPair 1 fun pp => { pp with state := .active }))
      (fun t => ((t.pair 1).state, (t.pair 1).cause, (t.pair 1).sent)) (.off, .none, []) = (.down, .lineLost, [.retrain, .retrain]) := by
  decide

/-- R127: the straps are read again. -/
theorem test_reset_reads_straps :
    after (exec (.powerUpReset 0x13) State.reset) (fun t => (t.digit, t.farm.fast)) (0, false) = (3, true) := by decide

/-- R152: ADD_SAT stops at 2,147,483,647. -/
theorem test_add_sat_saturates : saturate32 (2147483647 + 1) = 0x7FFFFFFF ∧ saturate32 (-2147483648 - 1) = 0x80000000 := by
  decide

/-- R152: a MASK_WRITE takes the value where the mask holds 1. -/
theorem test_mask_merge : mergeWord 0x0000FFFF 0x12345678 0xAABBCCDD = 0xAABB5678 := by decide

/-- spec/09, one farm frame: tag 1 is answered OK with 16 bytes, tag 2 DENIED, tag 4 VACANT, tag 5 READ_ONLY, tag 6 OK, and
the posted tag 3 gives no record. -/
theorem test_worked_farm_frame :
    let rs : List Request :=
      [{ code := 0x01, tag := 1, len := 16, addr := 0x011E, data := [] },
       { code := 0x02, tag := 2, len := 4, addr := 0x0105, data := [0, 0, 0, 0] },
       { code := 0x03, tag := 3, len := 8, addr := 0x0410, data := List.replicate 8 0 },
       { code := 0x01, tag := 4, len := 8, addr := 0x0300, data := [] },
       { code := 0x04, tag := 5, len := 8, addr := 0x0180, data := List.replicate 8 0 },
       { code := 0x40, tag := 6, len := 22, addr := 1, data := List.replicate 22 0x41 }]
    ((rs.foldl (frameRequest .farm none) (State.reset, [])).2).map (fun r => (r.tag, r.status, r.data.length))
      = [(1, .ok, 16), (2, .denied, 0), (4, .vacant, 8), (5, .readOnly, 4), (6, .ok, 0)] := by decide

/-- R144: version 2, no request, and a request running past the end are malformed. -/
theorem test_malformed_frames :
    parseControl (List.replicate 14 0 ++ [2, 1] ++ List.replicate 8 0) = none
      ∧ parseControl (List.replicate 14 0 ++ [1, 0] ++ List.replicate 8 0) = none
      ∧ parseControl (List.replicate 14 0 ++ [1, 1, 2, 0, 4, 0, 0, 0, 1, 0, 0]) = none := by decide

/-- R57: 65,535 quanta at 100 Mbit/s last 335,539.2 µs, rounded up, and one quantum at 1,000 Mbit/s 0.512 µs. -/
theorem test_pause_lengths : pauseLength false 65535 = 335540 ∧ pauseLength true 1 = 1 ∧ pauseLength true 0 = 0 := by decide

/-- R12, R82, R89: a READ that finds pair 0's entry uncorrectable sends it to OFF, and its fragment is placed on pair 1 at once. -/
theorem test_damage_reroutes_at_once :
    let s := (((withWrong (.pair .active 0 1) .two).setGroup true).updPair 0 fun pp =>
      { pp with state := .active, upRate := 1024, txq := [listed 3] }).updPair 1 fun pp => { pp with state := .active, upRate := 1024 }
    after (exec (.read 0 .line 1 0x0281 4) s) (fun t => ((t.pair 0).state, (t.pair 0).cause, (t.pair 1).txq.map Frag.rrt, t.dist.reroute))
      (.down, .none, [], []) = (.off, .damaged, [true], []) := by decide +kernel

/-- R69, R70: a cut-through frame that becomes a giant while it waits for a slot keeps its block until its void final is cut. -/
theorem test_failed_frame_keeps_blocks :
    let q : QFrame := { cut := 64, uncut := [1, 2], ended := false, resp := none }
    let f : Fip := { cls := 3, size := 64, cutAny := true, placedAny := true, pendingFrag := none, finalCut := false, voidTail := none }
    let s := (State.reset.setQueue 3 [q]).updDist fun d => { d with fip := some f }
    (failArriving 3 [1, 2] s).classBlocks 3 = 1 ∧ (failArriving 3 [1, 2] s).dist.fip.bind Fip.voidTail = some [1, 2] := by decide

/-- R71, R72: a failed frame that waits for its void final fragment is not counted under GROUP_DOWN when its queue is flushed; a
frame still arriving is. -/
theorem test_failed_frame_counted_once :
    let q : QFrame := { cut := 64, uncut := [1, 2], ended := false, resp := none }
    let f : Fip := { cls := 3, size := 64, cutAny := true, placedAny := true, pendingFrag := none, finalCut := false, voidTail := none }
    let s := (State.reset.setQueue 3 [q]).updDist fun d => { d with fip := some f }
    (flushQueue s 3).counter .groupDownDrops = 1 ∧ (flushQueue (failArriving 3 [1, 2] s) 3).counter .groupDownDrops = 0
      ∧ (flushQueue (failArriving 3 [1, 2] s) 3).queue 3 = [] := by decide

/-- R69, R77, R82: a cut-through frame dropped whole makes an attempt where its pending fragment's slot is freed, and none where it
has no pending fragment, so that a SKEW hold stands. -/
theorem test_drop_attempts_only_on_a_freed_slot :
    let q : QFrame := { cut := 64, uncut := [1, 2], ended := false, resp := none }
    let f (x : Option Frag) : Fip :=
      { cls := 3, size := 64, cutAny := x.isSome, placedAny := false, pendingFrag := x, finalCut := false, voidTail := none }
    let s (x : Option Frag) := ((State.reset.setGroup true).setQueue 3 [q]).updDist fun d => { d with fip := some (f x), wait := .skew }
    (failArriving 3 [1, 2] (s none)).dist.wait = .skew ∧ (failArriving 3 [1, 2] (s (some (listed 0)))).dist.wait = .none
      ∧ (failArriving 3 [1, 2] (s none)).dist.fip = none := by decide +kernel

/-! ### Ill-formed commands -/

/-- Data of 65 bytes. -/
def tooMuch : List Byte := List.replicate 65 0

/-- R144: a request of more than 64 data bytes is ill-formed, whatever its kind. -/
theorem test_ill_formed_lengths :
    WellFormed (.read 0 .farm 0 0 65) = false ∧ WellFormed (.write 0 .farm 0 0 tooMuch) = false
      ∧ WellFormed (.writePosted 0 .farm 0 0 tooMuch) = false ∧ WellFormed (.maskWrite 0 .farm 0 0 tooMuch) = false
      ∧ WellFormed (.maskWritePosted 0 .farm 0 0 tooMuch) = false ∧ WellFormed (.swapIf 0 .farm 0 0 tooMuch) = false
      ∧ WellFormed (.addSat 0 .farm 0 0 tooMuch) = false ∧ WellFormed (.addSatPosted 0 .farm 0 0 tooMuch) = false
      ∧ WellFormed (.commit 0 .farm 0 0 tooMuch) = false ∧ WellFormed (.digest 0 .farm 0 0 tooMuch) = false
      ∧ WellFormed (.eventNext 0 .farm 0 0 tooMuch) = false ∧ WellFormed (.eventClear 0 .farm 0 0 tooMuch) = false
      ∧ WellFormed (.pairRestart 0 .farm 0 0 tooMuch) = false ∧ WellFormed (.groupRestart 0 .farm 0 0 tooMuch) = false
      ∧ WellFormed (.partReset 0 .farm 0 0 tooMuch) = false ∧ WellFormed (.boxPost 0 .farm 0 0 tooMuch) = false
      ∧ WellFormed (.boxTake 0 .farm 0 0 tooMuch) = false ∧ WellFormed (.boxRelease 0 .farm 0 0 tooMuch) = false := by decide

/-- A shadow write at an active word, a counter write at a shadow word or at the gate record, and a memory error at an
identity word are ill-formed; at a word of their kind they are well-formed. -/
theorem test_ill_formed_addresses :
    WellFormed (.shadowTableWrite 0 0x0180 0) = false ∧ WellFormed (.shadowTableWrite 0 0x0100 0) = true
      ∧ WellFormed (.counterWrite 0 0x0100 0) = false ∧ WellFormed (.counterWrite 0 0x0E00 0) = false
      ∧ WellFormed (.counterWrite 0 0x0300 0) = false ∧ WellFormed (.counterWrite 0 0x0810 0) = true
      ∧ WellFormed (.tableMemoryError 0 0 false) = false ∧ WellFormed (.tableMemoryError 0 0x0E00 false) = true := by decide

/-! ### Witnesses: states and operands that meet the statements' hypotheses -/

/-- Reset tables are sound. -/
theorem reset_sound : State.reset.tables.Sound := sound_reset _

/-- Storing a word into sound table memory at reset leaves it sound. -/
theorem sound_store (r : TRef) (v : Word) : (State.reset.tables.store r v).Sound := reset_sound.store r v

/-- The reset state with the group UP. -/
def upState : State := State.reset.setGroup true

/-- The reset state with a word of table memory stored. -/
def withWord (r : TRef) (v : Word) : State := withTables fun t => t.store r v

/-- The reset state with a word of table memory stored and the group UP. -/
def upWith (r : TRef) (v : Word) : State := (withWord r v).setGroup true

/-- Its tables are sound. -/
theorem sound_upWith (r : TRef) (v : Word) : (upWith r v).tables.Sound := sound_store r v

/-- The bytes of a fragment. -/
def sentBytes (kind : FragKind) (gid : Nat) (txn : Txn) (payload : List Byte) : List Byte :=
  ({ plainFields kind 0 with gid := gid, txn := txn, len := payload.length, payload := payload } : FragFields).bytes false

/-- The bytes of a FILLER of group 1 with this ACKN and RRQ. -/
def fillerBytes (ackn : Txn) (rrq : Bool) : List Byte :=
  ({ plainFields .filler 0 with gid := 1, ackn := ackn, rrq := rrq } : FragFields).bytes false

/-- A request of no data from FARM. -/
def emptyRequest (addr : Word) : Request := { code := 0x03, tag := 0, len := 4, addr := addr, data := [0, 0, 0, 0] }

/-- A retry store entry with this TXN and replay count, sent at time 0. -/
def stored (txn : Txn) (count : Nat) : RetryEntry := { frag := listed 0, txn := txn, count := count, lastSent := 0 }

/-- Step: a waiting command. -/
theorem witness_StepRunsFrontCommand :
    (waiting (.trainStart 0 0)).pending = .trainStart 0 0 :: [] := rfl

/-- Step: no command waiting, with nothing due at reset and with a commit due. -/
theorem witness_StepWithoutCommand :
    State.reset.pending = [] ∧ dueList State.reset = []
      ∧ (withTables fun t => { t with commitPending := true }).pending = []
      ∧ dueList (withTables fun t => { t with commitPending := true }) = [.commitApply 0] := by decide

/-- The ranges hold of the reset state with an UP waiting, and it steps. -/
theorem witness_StepKeepsRanges :
    (waiting (.up 0 0 5 5)).InRange ∧ ∃ t, step (waiting (.up 0 0 5 5)) = .next t := by
  refine ⟨⟨fun p => ?_, by decide, by decide⟩, _, rfl⟩
  have h : (waiting (.up 0 0 5 5)).pair p = PairPort.reset := by simp [waiting, State.pair, State.reset, State.powerUp]
  rw [h]
  exact ⟨by decide, by decide, by decide, by decide, by decide, by decide⟩

/-- The emptiness of a DOWN group holds of the reset state with an UP waiting, and it steps. -/
theorem witness_StepKeepsEmptyWhenDown :
    (waiting (.up 0 0 5 5)).EmptyWhenDown ∧ ∃ t, step (waiting (.up 0 0 5 5)) = .next t := by
  have h : ∀ p, (waiting (.up 0 0 5 5)).pair p = PairPort.reset := fun p => by
    simp [waiting, State.pair, State.reset, State.powerUp]
  refine ⟨⟨fun p _ => ?_, fun _ p => ?_, fun _ => rfl, fun _ => rfl⟩, _, rfl⟩ <;> rw [h] <;> exact ⟨rfl, rfl⟩

/-- The bounds of the memories hold of the reset state with an UP waiting, and it steps. -/
theorem witness_StepKeepsWithinMemory :
    (waiting (.up 0 0 5 5)).WithinMemory ∧ ∃ t, step (waiting (.up 0 0 5 5)) = .next t :=
  ⟨⟨by decide, by decide, by decide⟩, _, rfl⟩

/-- A reset and a report that answer next states. -/
theorem witness_TimeNeverRunsBack :
    (∃ t, exec (.powerUpReset 0) State.reset = .next t) ∧ ∃ t, exec (.trainStart 7 0) State.reset = .next t :=
  ⟨⟨_, rfl⟩, ⟨_, rfl⟩⟩

/-- Sequence arithmetic at its boundaries: 8191 is ahead and 8192 not, 63 is ahead and 64 behind. -/
theorem witness_SequenceArithmetic :
    gsnAhead 8191 0 = true ∧ gsnAhead 8192 0 = false ∧ gsnAhead 0 0 = false ∧ txnAhead 63 0 = true ∧ txnAhead 64 0 = false
      ∧ txnBehind 64 0 = true ∧ txnBehind 0 0 = false ∧ txnBehind 65 0 = true ∧ (0 : Txn) ≠ 1 := by decide

/-- Clamping at both ends of 100..2550; the field W of the group record at the ends of its range, below, above and off its
step; and a bit outside the fields. -/
theorem witness_ClampingToRange :
    100 ≤ 2550 ∧ 99 < 100 ∧ 100 ≤ 100 ∧ 2550 ≤ 2550 ∧ 2550 < 2551 ∧ clampTo 100 2550 99 = 100 ∧ clampTo 100 2550 100 = 100
      ∧ clampTo 100 2550 2550 = 2550 ∧ clampTo 100 2550 2551 = 2550
      ∧ (⟨0, 11, 64, 1024, 64⟩ : FieldRange) ∈ tableFields (.group .shadow 1)
      ∧ ([63, 64, 100, 1024, 2047] : List Word).map (fun v => fieldAt (clampTable (.group .shadow 1) v) 0 11)
          = [64, 64, 64, 1024, 1024]
      ∧ ∀ f ∈ tableFields (.group .shadow 1), 31 < f.lo ∨ f.lo + f.width ≤ 31 := by decide

/-- A pair that is not ACTIVE, and an eligible one. -/
theorem witness_EligiblePairs :
    (State.reset.pair 0).state ≠ .active ∧ eligible (withPair 0 fun pp => { pp with state := .active }) 0 = true := by decide

/-- The reassembler is IDLE at reset. -/
theorem witness_IdleArrivalsDiscarded : State.reset.reas.state = .idle := rfl

/-- A posted request that succeeds, one refused READ_ONLY and one refused VACANT. -/
theorem witness_PostedRequests :
    (ReqKind.writePosted, ReqKind.write) ∈ [(ReqKind.writePosted, ReqKind.write), (.maskWritePosted, .maskWrite), (.addSatPosted, .addSat)]
      ∧ (runKind .write .farm none (emptyRequest 0x0400) State.reset).status = .ok
      ∧ (runKind .write .farm none (emptyRequest 0x0180) State.reset).status = .readOnly
      ∧ (runKind .write .farm none (emptyRequest 0x0300) State.reset).status = .vacant := by decide

/-- Fields at the ends of their ranges, with payloads of 0 and 1,023 bytes. -/
theorem witness_FragmentRoundTrip :
    3 < 4 ∧ 65535 < 65536 ∧ 255 < 256 ∧ ([] : List Byte).length ≤ 1023 ∧ (List.replicate 1023 (0 : Byte)).length ≤ 1023 := by
  rw [List.length_replicate]
  decide

/-- DATA of 0, 1, 512 and 513 bytes, and the other kinds with and without payload. -/
theorem witness_SentFragmentClass :
    1 ≤ ([0] : List Byte).length ∧ (List.replicate 512 (0 : Byte)).length ≤ 512 ∧ 512 < (List.replicate 513 (0 : Byte)).length
      ∧ (List.replicate 513 (0 : Byte)).length ≤ 1023 ∧ FragKind.filler ≠ .data ∧ ([] : List Byte).length = 0
      ∧ ([0] : List Byte).length ≠ 0 := by
  rw [List.length_replicate, List.length_replicate]
  decide

/-- A later sample; a good PROBE and a good ECHO of group 1 for a pair in PROBATION and one in ACTIVE, with no sample yet and
with one, the latency at the end of its range. -/
theorem witness_LatencyMovesTowardSample :
    let s := withPair 0 fun pp => { pp with state := .probation }
    let a := withPair 0 fun pp => { pp with state := .active, samples := 1, latency := 20000 }
    s.tables.Sound ∧ a.tables.Sound ∧ (2 : Nat) ≠ 1 ∧ (s.pair 0).state = .probation ∧ (a.pair 0).state = .active
      ∧ classify (sentBytes .probe 1 0 []) = .good ∧ (FragFields.parse (sentBytes .probe 1 0 [])).kind = .probe
      ∧ classify (sentBytes .echo 1 0 []) = .good ∧ (FragFields.parse (sentBytes .echo 1 0 [])).kind = .echo
      ∧ (FragFields.parse (sentBytes .echo 1 0 [])).gid = s.gid ∧ (FragFields.parse (sentBytes .probe 1 0 [])).gid = a.gid
      ∧ (s.pair 0).samples = 0 ∧ (a.pair 0).samples ≠ 0 ∧ (a.pair 0).latency ≤ 20000 ∧ a.autoE 0 = true := by
  refine ⟨sound_reset _, sound_reset _, ?_⟩
  decide +kernel

/-- The group UP, notice sides BOTH. -/
def noticing : State := upWith (.group .active 0x12) (pack [(0, 10), (8, 3)])

/-- Its tables are sound. -/
theorem sound_noticing : noticing.tables.Sound := sound_upWith _ _

/-- A kind newly pending with notices allowed, class queue 3 with room and without; with the interval not over; a kind not
enabled, one already pending, and notice sides NONE. -/
theorem witness_EventOccurrence :
    let full := noticing.setQueue 3 [{ cut := 0, uncut := List.replicate 8192 0, ended := true, resp := none }]
    let sent := { noticing with events := { noticing.events with lastNotice := some 0 } }
    let other (r : EventRec) := noticing.setEvent .groupUp r
    noticing.tables.Sound ∧ full.tables.Sound ∧ EventKind.groupUp ≠ .groupDown ∧ (noticing.event .groupUp).enabled = true
      ∧ (noticing.event .groupUp).isPending = false ∧ noticing.noticeSides ≠ 0 ∧ noticing.noticeAllowed = true
      ∧ noticing.noticeSides.testBit 1 = true ∧ noticing.noticeSides.testBit 0 = true ∧ noticing.groupUp = true
      ∧ noticing.internalRoom (noticeFrame (raiseEvent .groupUp (detail1 0) noticing)).length = true
      ∧ full.internalRoom (noticeFrame (raiseEvent .groupUp (detail1 0) full)).length = false
      ∧ (sent.atTime 9999999).noticeAllowed = false ∧ (sent.atTime 10000000).noticeAllowed = true
      ∧ ((other { noticing.event .groupUp with enabled := false }).event .groupUp).enabled = false
      ∧ ((other { noticing.event .groupUp with isPending := true }).event .groupUp).isPending = true
      ∧ State.reset.noticeSides = 0 := by
  refine ⟨sound_noticing, sound_noticing, ?_⟩
  decide +kernel

/-- One wrong bit in an active word of the group record, and an uncorrectable word of each kind of unit, one of them read by a
notice, every other word sound. -/
theorem witness_WrongBitsFound :
    ((withWrong (.group .active 3) .one).tables.get (.group .active 3)).wrong = .one
      ∧ ((withWrong (.group .active 3) .one).tables.store (.group .active 3)
          ((withWrong (.group .active 3) .one).tables.get (.group .active 3)).val).Sound
      ∧ ∀ r ∈ ([.group .active 3, .group .active 0x12, .pair .active 7 1, .cls .active 63 0, .cls .shadow 0 0, .gate] : List TRef),
          ((withWrong r .two).tables.get r).wrong = .two
            ∧ ((withWrong r .two).tables.store r ((withWrong r .two).tables.get r).val).Sound
            ∧ (withWrong r .two).tables.marked r = false ∧ (withWrong r .two).tables.gateLost = false := by
  refine ⟨by decide, sound_repaired _ _, fun r hr => ⟨?_, sound_repaired _ _, ?_, ?_⟩⟩ <;> revert r <;> decide

/-- An uncorrectable word, every other word sound. -/
theorem witness_DamagedRead :
    ((withWrong (.pair .active 7 1) .two).tables.get (.pair .active 7 1)).wrong = .two
      ∧ ((withWrong (.pair .active 7 1) .two).tables.store (.pair .active 7 1)
          ((withWrong (.pair .active 7 1) .two).tables.get (.pair .active 7 1)).val).Sound :=
  ⟨by decide, sound_repaired _ _⟩

/-- A pair in each of the three states of R3's table that do not run the link protocol. -/
theorem witness_ReportsIgnored :
    (withPair 7 fun pp => { pp with state := .off }).tables.Sound
      ∧ ((withPair 7 fun pp => { pp with state := .off }).pair 7).state = .off ∧ (State.reset.pair 0).state = .down
      ∧ ((withPair 7 fun pp => { pp with state := .training }).pair 7).state = .training :=
  ⟨sound_reset _, by decide, by decide, by decide⟩

/-- A pair in DOWN. -/
theorem witness_TrainStartBeginsTraining : State.reset.tables.Sound ∧ (State.reset.pair 0).state = .down :=
  ⟨reset_sound, by decide⟩

/-- A pair in DOWN, and one in TRAINING. -/
theorem witness_UpEntersProbation :
    State.reset.tables.Sound ∧ (State.reset.pair 0).state = .down
      ∧ (withPair 0 fun pp => { pp with state := .training }).tables.Sound
      ∧ ((withPair 0 fun pp => { pp with state := .training }).pair 0).state = .training :=
  ⟨reset_sound, by decide, sound_reset _, by decide⟩

/-- An ACTIVE pair below the minimum usable rate and at it, with the group UP: alone, so that the group falls without it, and
beside another ACTIVE pair, so that it stays UP. -/
theorem witness_RateReportTaken :
    let s := (withPair 0 fun pp => { pp with state := .active, txq := [listed 0] }).setGroup true
    let two := s.updPair 1 fun pp => { pp with state := .active }
    s.tables.Sound ∧ two.tables.Sound ∧ (s.pair 0).state.running = true ∧ (s.pair 0).state = .active
      ∧ max 64 (min 100000 255) < s.minRate ∧ s.minRate ≤ max 64 (min 100000 256)
      ∧ s.groupUp = true ∧ s.othersActive 0 < s.minPairs ∧ two.groupUp = true ∧ two.minPairs ≤ two.othersActive 0 :=
  ⟨sound_reset _, sound_reset _, by decide, by decide, by decide, by decide, by decide, by decide, by decide, by decide⟩

/-- A running pair at its silence deadline of 500 ms and not before it, a draining pair at its drain deadline and not before it,
and with the group UP a pair without which it falls and one without which it stays UP, no other pair draining. -/
theorem witness_PairsLeaveService :
    let s := withPair 0 fun pp => { pp with state := .active }
    let two := (s.setGroup true).updPair 1 fun pp => { pp with state := .active, txq := [listed 0] }
    let d := withPair 0 fun pp => { pp with state := .draining, drain := some { fromActive := true, deadline := 9 } }
    s.tables.Sound ∧ two.tables.Sound ∧ d.tables.Sound ∧ (s.pair 0).state ≠ .off ∧ (s.pair 0).state ≠ .down
      ∧ (s.pair 0).state.running = true ∧ (s.pair 0).lastHeard + s.silenceLimit = max s.now 500000
      ∧ max s.now 499999 < (s.pair 0).lastHeard + s.silenceLimit ∧ (State.reset.pair 0).state.running = false
      ∧ (d.pair 0).state = .draining ∧ (d.pair 0).drain = some { fromActive := true, deadline := 9 } ∧ max d.now 8 < 9
      ∧ (∀ q, (s.pair q).state ≠ .draining)
      ∧ (s.setGroup true).groupUp = true ∧ (s.setGroup true).othersActive 0 < (s.setGroup true).minPairs
      ∧ two.minPairs ≤ two.othersActive 1 := by
  refine ⟨sound_reset _, sound_reset _, sound_reset _, ?_⟩
  decide

/-- An ACTIVE pair for each clause: an ECHO pending; a PROBE due and not due; a replay's cursor at an entry below and at the
retry limit; a queue head with retry on, and with retry off one that ends a drain; a FILLER due for each of its three reasons,
and nothing to send. -/
theorem witness_ReadyHandsOut :
    let idle : PairPort := { PairPort.reset with state := .active, probeDue := 100000 }
    let replaying (n : Nat) : PairPort := { idle with store := [stored 0 n], replay := some { cursor := 0, base := 127 } }
    let retryOff := withWord (.group .active 4) 0
    (withPair 0 fun _ => idle).tables.Sound ∧ retryOff.tables.Sound ∧ idle.state.running = true ∧ idle.echo = none
      ∧ { idle with echo := some 5 }.echo = some 5 ∧ idle.probeDue ≤ 100000 ∧ 99999 < idle.probeDue
      ∧ (replaying 3).store = [] ++ stored 0 3 :: [] ∧ (stored 0 3).txn = 0 ∧ (stored 0 3).count < State.reset.retryLimit
      ∧ State.reset.retryLimit ≤ (stored 0 4).count ∧ idle.replay = none ∧ { idle with txq := [listed 0] }.txq = listed 0 :: []
      ∧ retryOff.retryLimit = 0 ∧ { idle with state := .draining, txq := [listed 0] }.state = .draining
      ∧ idle.txq = [] ∧ { idle with owedAck := true }.owedAck = true ∧ { idle with rx := .retryAsk }.rx = .retryAsk
      ∧ idle.lastHandoff + 50000 ≤ 50000 ∧ idle.owedAck = false ∧ idle.rx = .inStep ∧ 49999 < idle.lastHandoff + 50000 := by
  refine ⟨sound_reset _, sound_store (.group .active 4) 0, ?_⟩
  decide

/-- Good DATA fragments of group 1 for a pair in PROBATION and for one in DRAINING: with TXN equal to RXN 0, behind it by 1 and
by 64, and ahead of it by 1 and by 63. -/
theorem witness_ReceivedInStep :
    let s := withPair 0 fun pp => { pp with state := .probation }
    let d := withPair 0 fun pp => { pp with state := .draining, txq := [listed 0] }
    s.tables.Sound ∧ d.tables.Sound ∧ (s.pair 0).state = .probation ∧ (d.pair 0).state = .draining ∧ (d.pair 0).txq ≠ []
      ∧ (∀ t ∈ ([0, 127, 64, 1, 63] : List Txn), classify (sentBytes .data 1 t [7]) ≠ .bad
          ∧ (FragFields.parse (sentBytes .data 1 t [7])).gid = s.gid ∧ (FragFields.parse (sentBytes .data 1 t [7])).kind = .data
          ∧ (FragFields.parse (sentBytes .data 1 t [7])).txn = t)
      ∧ (s.pair 0).rxn = 0 ∧ 1 ≤ ((s.pair 0).rxn - 127).toNat ∧ ((s.pair 0).rxn - 64).toNat ≤ 64
      ∧ 1 ≤ ((1 : Txn) - (s.pair 0).rxn).toNat ∧ ((63 : Txn) - (s.pair 0).rxn).toNat ≤ 63 := by
  refine ⟨sound_reset _, sound_reset _, ?_⟩
  decide +kernel

/-- A guard with its last bad check at 0, and its last burst start at 0 with this period. -/
def heardGuard (period confidence : Nat) : Guard :=
  { Guard.unlearnt with lastBad := some 0, lastStart := some 0, period := period, confidence := confidence }

/-- A locked guard's window: next predicted start 5,007 ms, opening at 5,002 ms, end at 5,022 ms. -/
def lockedGuard (w : Option GuardWindow) : Guard :=
  { Guard.unlearnt with period := 1001, confidence := 3, locked := true, nextStart := some 5007, window := w }

/-- A bad fragment on a pair in PROBATION and on an ACTIVE one; 20,000 µs after the last bad check and 20,001; a locked guard in
its window and 1 µs after it, not met and met; and each case of learning, with a confidence below the threshold of 3 and at it. -/
theorem witness_ReceivedBad :
    let s := withPair 0 fun pp => { pp with state := .probation }
    s.tables.Sound ∧ (s.pair 0).state.running = true ∧ (s.pair 0).state = .probation ∧ classify [1, 2, 3] = .bad
      ∧ PairState.active.running = true ∧ PairState.active ≠ .probation
      ∧ (heardGuard 0 0).lastBad = some 0 ∧ 20000 ≤ 0 + 20000 ∧ 0 + 20000 < 20001
      ∧ (∀ m, (lockedGuard (some { endMs := 5022, met := m })).locked = true) ∧ 5022000 ≤ 5022 * 1000 ∧ 5022 * 1000 < 5022001
      ∧ Guard.unlearnt.locked = false ∧ (heardGuard 1000 2).locked = false
      ∧ Guard.unlearnt.Learns 0 0 0 ∧ (heardGuard 1000 2).Learns 199 0 0 ∧ (heardGuard 1000 2).Learns 5001 0 0
      ∧ (heardGuard 0 0).Learns 200 200 0 ∧ (heardGuard 1000 2).Learns 1062 1015 3 ∧ (heardGuard 1000 2).Learns 1063 1063 0
      ∧ s.guardThreshold ≤ 3 ∧ ¬s.guardThreshold ≤ 0 := by
  refine ⟨sound_reset _, by decide, by decide, by decide, by decide, by decide, by decide, by decide, by decide, fun _ => rfl,
    by decide, by decide, by decide, by decide, .first rfl rfl rfl, .outOfRange 0 rfl (by decide) rfl rfl,
    .outOfRange 0 rfl (by decide) rfl rfl, .firstPeriod 0 rfl (by decide) rfl rfl rfl,
    .agrees 0 rfl (by decide) (by decide) (by decide) rfl rfl, .differs 0 rfl (by decide) (by decide) (by decide) rfl rfl,
    by decide, by decide⟩

/-- A fragment of group 9, for a pair in PROBATION, in ACTIVE and in DRAINING. -/
theorem witness_IdentityMismatch :
    (withPair 0 fun pp => { pp with state := .probation }).tables.Sound ∧ classify (sentBytes .data 9 0 [7]) ≠ .bad
      ∧ (FragFields.parse (sentBytes .data 9 0 [7])).gid ≠ (withPair 0 fun pp => { pp with state := .probation }).gid
      ∧ ((withPair 0 fun pp => { pp with state := .probation }).pair 0).state = .probation
      ∧ (FragFields.parse (sentBytes .data 9 0 [7])).gid ≠ (withPair 0 fun pp => { pp with state := .draining }).gid
      ∧ ((withPair 0 fun pp => { pp with state := .active }).pair 0).state = .active
      ∧ ((withPair 0 fun pp => { pp with state := .draining }).pair 0).state = .draining := by
  refine ⟨sound_reset _, ?_⟩
  decide +kernel

/-- A pair that has served its probation of 10 s with 4 samples at the minimum usable rate; one µs earlier it may not. -/
theorem witness_ProbationEnds :
    let s := withPair 0 fun pp => { pp with state := .probation, samples := 4, upRate := 256 }
    s.tables.Sound ∧ (s.pair 0).state = .probation ∧ (s.pair 0).probStart + s.probationTime ≤ max s.now 10000000
      ∧ 4 ≤ (s.pair 0).samples ∧ s.minRate ≤ (s.pair 0).upRate ∧ (s.pair 0).bar = false
      ∧ (s.atTime 9999999).mayActivate 0 = false := by
  refine ⟨sound_reset _, ?_⟩
  decide

/-- A retry store past its timeout of 30 ms, a window that opens, one that ends met and one that ends as a miss. -/
theorem witness_ReplayTimeoutAndWindows :
    let r := withPair 0 fun pp => { pp with store := [stored 0 0] }
    let g (w : Option GuardWindow) : State := withPair 6 fun pp => { pp with guard := lockedGuard w }
    r.tables.Sound ∧ (r.pair 0).replay = none ∧ (r.pair 0).store = [stored 0 0]
      ∧ (stored 0 0).lastSent + r.replayTimeout + 1 = max r.now 30001 ∧ (r.pair 1).store = []
      ∧ ((g none).pair 6).guard.locked = true ∧ ((g none).pair 6).guard.window = none
      ∧ ((g none).pair 6).guard.nextStart = some 5007 ∧ 5007 * 1000 = max (g none).now 5002000 + (g none).guardLead * 1000
      ∧ max (g none).now 5001999 + (g none).guardLead * 1000 < 5007 * 1000 ∧ ((g none).pair 0).guard.locked = false
      ∧ (∀ met, ((g (some { endMs := 5022, met := met })).pair 6).guard.window = some { endMs := 5022, met := met })
      ∧ 5022 * 1000 ≤ max (g none).now 5022000 ∧ max (g none).now 5021999 < 5022 * 1000
      ∧ State.reset.guardThreshold ≤ (lockedGuard none).confidence
      ∧ (lockedGuard none).confidence - 1 < State.reset.guardThreshold := by
  refine ⟨sound_reset _, ?_⟩
  decide

/-- FILLERs for a pair whose store holds TXN 126, 127 and 0: acknowledging none and two of them, with and without RRQ; one that
acknowledges all of it, on a draining pair and on one that may rewind; a replay of the same base and of another. -/
theorem witness_ReplayTimeoutAndWindows_filler :
    let st := [stored 126 0, stored 127 0, stored 0 0]
    let s := withPair 0 fun pp => { pp with state := .active, store := st, nextTxn := 1 }
    s.tables.Sound ∧ (s.pair 0).state.running = true ∧ (s.pair 0).store.length ≤ 32
      ∧ (∀ i (hi : i < (s.pair 0).store.length), ((s.pair 0).store[i]).txn = 126 + BitVec.ofNat 7 i)
      ∧ (∀ a ∈ ([125, 127, 0] : List Txn), ∀ q, classify (fillerBytes a q) = .good
          ∧ (FragFields.parse (fillerBytes a q)).gid = s.gid ∧ (FragFields.parse (fillerBytes a q)).kind = .filler
          ∧ (FragFields.parse (fillerBytes a q)).ackn = a ∧ (FragFields.parse (fillerBytes a q)).rrq = q)
      ∧ st = [] ++ st ∧ (∀ x ∈ st, x.txn ≠ 125) ∧ (∃ x ∈ st, x.txn = 125 + 1)
      ∧ st = [stored 126 0, stored 127 0] ++ [stored 0 0] ∧ ([stored 126 0, stored 127 0].getLast?.map RetryEntry.txn) = some 127
      ∧ (∃ x ∈ [stored 0 0], x.txn = 127 + 1) ∧ (st.getLast?.map RetryEntry.txn) = some 0
      ∧ (∀ x ∈ ([] : List RetryEntry), x.txn ≠ 0 + 1) ∧ ¬(1 ≤ ((s.pair 0).nextTxn - (0 + 1)).toNat)
      ∧ 1 ≤ ((64 : Txn) - (0 + 1)).toNat ∧ ((64 : Txn) - (0 + 1)).toNat ≤ 63 ∧ (s.pair 0).rewindMark = none := by
  refine ⟨sound_reset _, ?_⟩
  decide +kernel

/-- A report on pair 0 that answers a next state. -/
theorem witness_PairCommandsFrame :
    State.reset.tables.Sound ∧ atPair (.trainStart 7 0) = some 0 ∧ ∃ t, exec (.trainStart 7 0) State.reset = .next t :=
  ⟨reset_sound, rfl, _, rfl⟩

/-- The reset state while a farm frame of this kind, `n` bytes so far, is being received; its FCS matches. -/
def receivingFrame (n : Nat) (k : RxKind) (held : List Byte) : RxFrame :=
  { count := n, kind := k, held := held, check := fcsBytes (crc32Out crc32Init), crc := crc32Init }

/-- A frame being received, on the state `s`. -/
def receivingOn (r : RxFrame) (s : State) : State := s.updFarm fun f => { f with rx := some r }

/-- The reset state with a frame being received. -/
def receiving (r : RxFrame) : State := receivingOn r State.reset

/-- Seventeen bytes of a frame: this destination byte 1, and this type. -/
def headFrame (dest : Byte) (type : List Byte) : RxFrame :=
  { count := 17, kind := .head, held := dest :: 0x5A :: List.replicate 10 0 ++ type.take 1, check := type.drop 1 ++ [0, 0, 0], crc := crc32Init }

/-- The eighteen bytes of `headFrame`, the last one 0. -/
def headBytes (dest : Byte) (type : List Byte) : List Byte := (headFrame dest type).held ++ (headFrame dest type).check ++ [0]

/-- No valid entry of the reset class table matches a frame. -/
theorem reset_matches_none (bs : List Byte) (i : Fin 64) : ¬upState.entryMatches bs i := fun h => by
  have hw : (upState.tables.get (.cls .active i 0)).val = 0 := by
    simp [upState, State.setGroup, State.reset, State.powerUp, TableStore.reset, TableStore.get, clsDefault]
  have h1 := h.1
  rw [hw] at h1
  exact absurd h1 (by decide)

/-- A first class entry that is valid, with MATCH any, decides for every frame. -/
theorem first_decides (v : Word) (bs : List Byte) (valid : bitAt v 31 = true) (all : fieldAt v 24 2 = 0) :
    (upWith (.cls .active 0 0) v).entryDecides bs 0 := by
  have hv : ((upWith (.cls .active 0 0) v).tables.get (.cls .active 0 0)).val = v :=
    congrArg TWord.val (TableStore.get_put_same State.reset.tables (.cls .active 0 0) { val := v, wrong := .none })
  refine ⟨?_, fun j h => absurd h (by omega)⟩
  unfold State.entryMatches
  simp [hv, valid, all]

/-- A frame of 18 bytes of each judgement: link-control, control, and for classification with the group DOWN; with the group UP
decided by a DISCARD entry, by a FORWARD entry and by the default class, its class queue with room and without. -/
theorem witness_FarmBytesCounted :
    let up (v : Word) : State := upWith (.cls .active 0 0) v
    let full := (upWith (.group .active 9) (pack [(0, 512), (24, 2)])).setQueue 0
      [{ cut := 0, uncut := List.replicate 1921 0, ended := true, resp := none }]
    let crowded := (upState.setQueue 1 (List.replicate 512 { cut := 0, uncut := [0], ended := true, resp := none })).updDist fun d =>
      { d with fip := some { cls := 1, size := 64, cutAny := false, placedAny := false, pendingFrag := none, finalCut := false, voidTail := none } }
    State.reset.tables.Sound ∧ (∀ v, (up v).tables.Sound) ∧ full.tables.Sound ∧ State.reset.farm.rx = none
      ∧ (headFrame 2 [0x88, 0x08]).kind ≠ .abandoned ∧ (headFrame 2 [0x88, 0x08]).kind = .head ∧ (headFrame 2 [0x88, 0x08]).count = 17
      ∧ (headFrame 2 [0x88, 0x08]).held.length = 13 ∧ (headFrame 2 [0x88, 0x08]).check = [0x08, 0, 0, 0]
      ∧ be16 (headBytes 2 [0x88, 0x08]) 12 = 0x8808
      ∧ be16 (headBytes 3 [0xA6, 0xC4]) 12 ≠ 0x8808 ∧ isControlFrame State.reset.station (headBytes 3 [0xA6, 0xC4]) = true
      ∧ be16 (headBytes 2 [0x08, 0]) 12 ≠ 0x8808 ∧ isControlFrame State.reset.station (headBytes 2 [0x08, 0]) = false
      ∧ State.reset.groupUp = false ∧ (up 0x80120000).groupUp = true
      ∧ (up 0x80120000).entryDecides (headBytes 2 [0x08, 0]) 0 ∧ bitAt ((up 0x80120000).tables.get (.cls .active 0 0)).val 20 = true
      ∧ (up 0x80020000).entryDecides (headBytes 2 [0x08, 0]) 0 ∧ bitAt ((up 0x80020000).tables.get (.cls .active 0 0)).val 20 = false
      ∧ (2 : ClassIx).val = fieldAt ((up 0x80020000).tables.get (.cls .active 0 0)).val 16 2
      ∧ (∀ i, ¬upState.entryMatches (headBytes 2 [0x08, 0]) i) ∧ upState.defaultClass = 0 ∧ (∀ q ∈ upState.queue 0, q.ended = true)
      ∧ upState.classBytes 0 + 128 ≤ upState.byteLimit 0 ∧ 0 < upState.freeQueueBlocks
      ∧ ¬(full.classBytes 0 + 128 ≤ full.byteLimit 0) ∧ full.queue 0 ≠ []
      ∧ crowded.tables.Sound ∧ ¬(0 < crowded.freeQueueBlocks) ∧ crowded.queue 0 = []
      ∧ (∀ f, crowded.dist.fip = some f → f.cls = 0 → f.finalCut = true ∨ f.voidTail ≠ none) := by
  refine ⟨reset_sound, fun v => sound_upWith _ v, sound_upWith (.group .active 9) (pack [(0, 512), (24, 2)]), by decide, by decide, by decide, by decide, by decide, by decide,
    by decide, by decide, by decide, by decide, by decide, by decide, by decide, first_decides _ _ (by decide) (by decide),
    by decide, first_decides _ _ (by decide) (by decide), by decide, by decide, reset_matches_none _, by decide,
    by decide, by decide, by decide, by decide +kernel, by decide, sound_reset _, by decide +kernel, rfl,
    fun f h hc => by obtain rfl := Option.some.inj h
                     exact absurd hc (by decide)⟩

/-- Later bytes: a class queue's frame still arriving that has room in its last block, one that needs a block and may take it and
one that may not; and the 2,005th byte of such a frame, of a control frame and of one already dropped. -/
theorem witness_FarmBytesCounted_later :
    let arriving (n : Nat) : QFrame := { cut := 0, uncut := List.replicate n 0, ended := false, resp := none }
    let full := (upWith (.group .active 9) (pack [(0, 512), (24, 2)])).setQueue 0 [arriving 2048]
    let r (n : Nat) (k : RxKind) : RxFrame := { receivingFrame n k [] with check := [1, 2, 3, 4] }
    full.tables.Sound ∧ (receivingOn (r 20 (.upstream 0)) upState).farm.rx = some (r 20 (.upstream 0))
      ∧ (r 2003 (.upstream 0)).count < 2004 ∧ (r 20 (.upstream 0)).check = [1, 2, 3, 4]
      ∧ (upState.setQueue 0 [arriving 127]).queue 0 = [] ++ [arriving 127] ∧ (arriving 127).ended = false
      ∧ (arriving 127).stored % 128 ≠ 0 ∧ ¬(arriving 128).stored % 128 ≠ 0
      ∧ (upState.setQueue 0 [arriving 128]).classBytes 0 + 128 ≤ (upState.setQueue 0 [arriving 128]).byteLimit 0
      ∧ 0 < (upState.setQueue 0 [arriving 128]).freeQueueBlocks ∧ ¬(arriving 2048).stored % 128 ≠ 0
      ∧ ¬(full.classBytes 0 + 128 ≤ full.byteLimit 0) ∧ (r 2004 (.upstream 0)).count = 2004
      ∧ (r 2004 .control).kind ∈ [RxKind.head, .link, .control, .dropped .table] ∧ (r 2004 (.dropped .lack)).kind = .dropped .lack := by
  refine ⟨sound_upWith (.group .active 9) (pack [(0, 512), (24, 2)]), ?_⟩
  decide +kernel

/-- A pause request's bytes up to its quanta. -/
def pauseBytes : List Byte := List.replicate 12 0 ++ [0x88, 0x08, 0, 1, 0xFF, 0xFF]

/-- A good upstream frame and one with an FCS error, ending in its class queue; a good control frame with room in the queue and
with none, a good pause request, a runt of 63 bytes, frames whose FCS does and does not match, and dropped frames. -/
theorem witness_FarmFrameEnds :
    let s := (receiving (receivingFrame 64 (.upstream 0) [])).setQueue 0 [{ cut := 0, uncut := [], ended := false, resp := none }]
    let bad : RxFrame := { receivingFrame 64 (.upstream 0) [] with check := [9, 9, 9, 9] }
    s.tables.Sound ∧ s.farm.rx = some (receivingFrame 64 (.upstream 0) [])
      ∧ s.queue 0 = [] ++ [{ cut := 0, uncut := [], ended := false, resp := none }]
      ∧ (receivingFrame 64 (.upstream 0) []).verdict = .good ∧ bad.verdict = .fcsError
      ∧ bad.check ≠ (wordBytes (crc32Out bad.crc)).reverse ∧ (receivingFrame 2004 .control []).verdict = .good
      ∧ State.reset.ctl.queue.length < 4 ∧ 4 ≤ (List.replicate 4 ({ origin := .line, bytes := [] } : CtlFrame)).length
      ∧ (receivingFrame 64 .link pauseBytes).verdict = .good ∧ be16 (receivingFrame 64 .link pauseBytes).held 14 = 1
      ∧ (receivingFrame 63 .head []).count < 64 ∧ (receivingFrame 63 .head []).kind = .head
      ∧ (receivingFrame 64 (.dropped .table) []).kind ∈ [RxKind.head, .link, .control, .dropped .table]
      ∧ (receivingFrame 64 (.dropped .table) []).kind ∈ [RxKind.head, .dropped .table, .dropped .lack]
      ∧ 64 ≤ (receivingFrame 64 (.dropped .table) []).count
      ∧ (receivingFrame 64 (.dropped .table) []).check = (wordBytes (crc32Out (receivingFrame 64 (.dropped .table) []).crc)).reverse
      ∧ (receivingFrame 63 (.dropped .lack) []).kind = .dropped .lack
      ∧ (receivingFrame 63 .abandoned []).kind ∈ [RxKind.dropped .silent, .abandoned] := by
  refine ⟨sound_reset _, ?_⟩
  decide

/-- A pause end reached and one not reached; the port free with a response ready first, with a notice ready first and with a
queued frame, and not free; nothing to send; and a transmission of each kind under way. -/
theorem witness_FarmTransmission :
    let paused := State.reset.updFarm fun f => { f with pauseEnd := some 9 }
    let ready (o : List FarmSlot) := State.reset.updCtl fun c =>
      { c with farmOrder := o, respSlot := some { bytes := [1], resp := 0 }, noticeSlot := some { bytes := [2], sending := false } }
    let q := State.reset.updFarm fun f => { f with outQueue := [{ bytes := [1], blocks := 1 }] }
    let sending (x : FarmTx) := (ready []).updFarm fun f => { f with tx := some x }
    State.reset.tables.Sound ∧ paused.tables.Sound ∧ (∀ o, (ready o).tables.Sound) ∧ q.tables.Sound ∧ (∀ x, (sending x).tables.Sound)
      ∧ paused.farm.pauseEnd = some 9 ∧ 9 ≤ max paused.now 9 ∧ max paused.now 8 < 9
      ∧ State.reset.farm.tx = none ∧ State.reset.farm.pauseEnd = none
      ∧ (ready [.response, .notice]).ctl.farmOrder = .response :: [.notice]
      ∧ (ready [.notice, .response]).ctl.farmOrder = .notice :: [.response]
      ∧ (ready [.response]).ctl.respSlot = some { bytes := [1], resp := 0 }
      ∧ (ready [.notice]).ctl.noticeSlot = some { bytes := [2], sending := false }
      ∧ q.ctl.farmOrder = [] ∧ q.farm.outQueue = [{ bytes := [1], blocks := 1 }] ∧ (sending (.queued [1])).farm.tx ≠ none
      ∧ State.reset.ctl.farmOrder = [] ∧ State.reset.farm.outQueue = [] ∧ ∀ x, (sending x).farm.tx = some x := by
  refine ⟨reset_sound, sound_reset _, fun _ => sound_reset _, sound_reset _, fun _ => sound_reset _, ?_⟩
  refine ⟨rfl, by decide, by decide, rfl, rfl, rfl, rfl, rfl, rfl, rfl, rfl, by decide, rfl, rfl, fun _ => rfl⟩

/-- The group DOWN and UP with no more held than the slots; an ended frame at a queue's head; a pair with a rate, without a
replay and with one; a reroute list in order. -/
theorem witness_DistributorWork :
    let pp : PairPort := { PairPort.reset with upRate := 1, store := [stored 0 0, stored 1 0], replay := some { cursor := 1, base := 0 } }
    State.reset.tables.Sound ∧ upState.tables.Sound ∧ State.reset.groupUp = false ∧ upState.groupUp = true ∧ upState.heldSlots ≤ 256
      ∧ 0 < pp.upRate ∧ PairPort.reset.replay = none ∧ pp.store = [stored 0 0] ++ [stored 1 0] ∧ (∀ x ∈ [stored 0 0], x.txn ≠ 1)
      ∧ [stored 1 0].head? = some (stored 1 0) ∧ (stored 1 0).txn = 1
      ∧ ([listed 16382, listed 1] : List Frag).Pairwise (fun x y => behindBy 18 y ≤ behindBy 18 x) := by
  refine ⟨reset_sound, sound_reset _, ?_⟩
  decide

/-- A reroute list head placed 60.001 ms ago, waiting for a pair; at 60 ms it does not exceed the limit. -/
theorem witness_RerouteHeadDiscarded :
    let s := { upState with dist := { State.reset.dist with reroute := [listed 0, listed 1], wait := .noPair } }
    s.tables.Sound ∧ s.groupUp = true ∧ s.dist.reroute = listed 0 :: [listed 1] ∧ s.dist.wait ∈ [WaitReason.noPair, .skew]
      ∧ (listed 0).firstPlaced = some 0 ∧ 0 + s.rerouteAge + 1 = max s.now 60001 ∧ max s.now 60000 ≤ 0 + s.rerouteAge
      ∧ State.reset.groupUp = false := by
  refine ⟨sound_reset _, ?_⟩
  decide

/-- The reset state with the reassembler in this state, its head and first arrival at `h`, and these window entries. -/
def reassembling (st : ReasState) (h : Gsn) (es : List Entry) : State :=
  State.reset.updReas fun r => { r with state := st, size := 512, head := some h, first := some h, window := es }

/-- The window's rule holds of a state in REASSEMBLE with W = 512, its head at 5, entries 0 and 511 ahead of it and an UP
waiting, and that state steps. -/
theorem witness_StepKeepsWindow :
    let s := { (reassembling .reassemble 5 [entry 5 true false 0, entry 516 true true 0]) with pending := [.up 0 0 5 5] }
    s.WindowKept ∧ s.reas.state = .reassemble ∧ ∃ t, step s = .next t :=
  ⟨⟨fun c => by cases c <;> decide, by decide, by decide, fun _ => ⟨5, by decide, by decide⟩⟩, by decide, _, rfl⟩

/-- A frame in progress before the awaited GSN; every receiving pair's LDG past it, no entry and two entries ahead of it, the hold
deadline worked out reached and not; a hold deadline, a resync deadline and a suspension end reached and not; the base of a resync
whose first arrival is 6 and whose window holds 5 and 6. -/
theorem witness_ReassemblerDeadlines :
    let s := (reassembling .reassemble 5 [entry 5 true false 0, entry 8 true true 9, entry 7 true true 4]).updReas fun r =>
      { r with hold := some 20000, suspension := some 30 }
    let e := reassembling .reassemble 5 []
    let c := e.updPair 0 fun pp => { pp with state := .probation, ldg := some 6 }
    let r := (reassembling .resync 6 [entry 6 true true 0, entry 5 true true 0]).updReas fun r => { r with resync := some 20000 }
    s.tables.Sound ∧ s.reas.state = .reassemble ∧ s.reas.head = some 5 ∧ s.reas.entry (5 + BitVec.ofNat 14 0) ≠ none
      ∧ s.reas.entry (5 + BitVec.ofNat 14 1) = none ∧ s.reas.awaited = some 6 ∧ c.shortcutHolds = true ∧ s.shortcutHolds = false
      ∧ entry 7 true true 4 ∈ s.reas.window ∧ 1 ≤ (((7 : Gsn) - 6).toNat) ∧ (entry 7 true true 4).time ≤ (entry 8 true true 9).time
      ∧ e.reas.window = [] ∧ (setHold s).reas.hold = some (4 + s.holdTime) ∧ s.now < 4 + s.holdTime
      ∧ 4 + s.holdTime ≤ (s.atTime 20004).now ∧ s.reas.hold = some 20000 ∧ r.tables.Sound
      ∧ r.reas.state = .resync ∧ r.reas.resync = some 20000 ∧ r.reas.first = some 6 ∧ IsBase r.reas.window 6 5
      ∧ s.reas.suspension = some 30 ∧ e.reas.suspension = none ∧ e.reas.hold = none := by
  refine ⟨sound_reset _, by decide, by decide, by decide, by decide, by decide, by decide +kernel, by decide +kernel, by decide,
    by decide, by decide, by decide, by decide, by decide, by decide, by decide, sound_reset _, by decide, by decide, by decide,
    ⟨.inr ⟨entry 5 true true 0, by decide, by decide⟩, by decide, by decide⟩, by decide, by decide, by decide⟩

/-- An entry at `g` with this payload. -/
def carrying (g : Gsn) (b e : Bool) (payload : List Byte) : Entry := { entry g b e 0 with payload := payload }

/-- Arrivals in RESYNC, new and duplicate, with memory and without; in REASSEMBLE at distances 8,191 and 8,192 from the head, one
below W and W, duplicate and new; of class 0 with the reserve left and not. -/
theorem witness_ReassemblerArrivals :
    let r := reassembling .resync 5 [entry 5 true true 0]
    let s := reassembling .reassemble 5 [entry 5 true false 0]
    let fullBut (n : Nat) (u : State) : State := u.updFarm fun f => { f with outQueue := [{ bytes := [], blocks := 1023 - n }] }
    let zero := { entry 7 true true 0 with cls := 0 }
    r.tables.Sound ∧ s.tables.Sound ∧ r.reas.state = .resync ∧ (entry 6 true true 0).rrt = false
      ∧ { entry 6 true true 0 with rrt := true }.rrt = true
      ∧ (r.reas.entry 5).isSome = true ∧ (r.reas.entry 6).isSome = false ∧ (storeArrival (entry 6 true true 0) r).2 = true
      ∧ (storeArrival (entry 6 true true 0) (fullBut 0 r)).2 = false
      ∧ s.reas.state = .reassemble ∧ s.reas.head = some 5 ∧ 8192 ≤ ((5 + 8192 : Gsn) - 5).toNat ∧ ((5 + 8191 : Gsn) - 5).toNat < 8192
      ∧ s.reas.size = 512 ∧ ((5 + 511 : Gsn) - 5).toNat < s.reas.size ∧ s.reas.size ≤ ((5 + 512 : Gsn) - 5).toNat
      ∧ (s.reas.entry 5).isSome = true ∧ (s.reas.entry (5 + 511)).isSome = false
      ∧ (∀ e ∈ s.reas.window, (e.gsn - 5).toNat < s.reas.size)
      ∧ (fullBut 0 s).freeDownBlocks < zero.blocks ∧ zero.blocks ≤ s.freeDownBlocks ∧ zero.cls = 0
      ∧ (fullBut 64 s).freeDownBlocks - zero.blocks < s.reserve ∧ s.reserve ≤ (fullBut 65 s).freeDownBlocks - zero.blocks := by
  refine ⟨sound_reset _, sound_reset _, ?_⟩
  decide

/-- R100, R101: the resync deadline takes the active W into use; an arrival after it goes by that W, also where the active word has
changed since (the window of 64 below would make the arrival 100 ahead a forced one). -/
theorem test_window_size_in_use :
    let r := ((reassembling .resync 6 [entry 6 true true 0]).updReas fun r => { r with resync := some 9, size := 0 }).atTime 9
    let s := (reassembling .reassemble 5 []).updTables fun t => t.store (.group .active 1) 64
    (resyncNow 6 r).reas.size = 512 ∧ s.windowSize = 64 ∧ (arrive (entry 105 true true 0) s).counter .forcedArrivals = 0
      ∧ (arrive (entry 105 true true 0) s).reas.window = [entry 105 true true 0] := by
  decide +kernel

/-- Runs at the head 5: broken by another B, complete and good, complete with a void fragment, in progress; complete and too long
at 2,001 bytes and not at 2,000; a control frame for all parts; no entry at the head, one without B; and an awaited GSN. -/
theorem witness_ReassemblerArrivals_runs :
    let run (es : List Entry) : State := reassembling .reassemble 5 es
    let long (n : Nat) : List Entry := [carrying 5 true false (List.replicate 512 0), carrying 6 false false (List.replicate 512 0),
      carrying 7 false false (List.replicate 512 0), carrying 8 false true (List.replicate n 0)]
    let ctl : List Byte := [3, 0x5A, 0, 0, 0, 0, 0, 0, 0, 0, 0, 0, 0xA6, 0xC4]
    (run [entry 5 true true 0]).tables.Sound
      ∧ (run [entry 5 true true 0]).reas.IsRun 5 [entry 5 true true 0]
      ∧ (run [entry 5 true false 0, entry 6 true true 0]).reas.IsRun 5 [entry 5 true false 0]
      ∧ ((run [entry 5 true false 0, entry 6 true true 0]).reas.entry (5 + BitVec.ofNat 14 1)).map Entry.b = some true
      ∧ (run [entry 5 true false 0]).reas.IsRun 5 [entry 5 true false 0]
      ∧ (run [entry 5 true false 0]).reas.entry (5 + BitVec.ofNat 14 1) = none
      ∧ [entry 5 true true 0].any Entry.void = false ∧ [{ entry 5 true true 0 with void := true }].any Entry.void = true
      ∧ ((long 464).flatMap Entry.payload).length = 2000 ∧ 2000 < ((long 465).flatMap Entry.payload).length
      ∧ isControlFrame State.reset.station ctl = true ∧ isControlFrame State.reset.station [0] = false
      ∧ (run []).reas.entry 5 = none ∧ ((run [entry 5 false true 0]).reas.entry 5).map Entry.b = some false
      ∧ (run [entry 5 true false 0]).reas.awaited = some 6 ∧ (run []).reas.discarding = false := by
  have one : ∀ (r : Reassembler) (e : Entry), r.entry (5 + BitVec.ofNat 14 0) = some e → e.b = true → r.IsRun 5 [e] := fun r e h hb =>
    ⟨List.cons_ne_nil _ _, fun i hi => by obtain rfl : i = 0 := by simpa using hi
                                          exact h,
      fun _ => hb, fun i hi h0 => by simp at hi; omega, fun i hi h1 => by simp at h1⟩
  refine ⟨sound_reset _, one _ _ (by decide) rfl, one _ _ (by decide) rfl, by decide, one _ _ (by decide) rfl, by decide, by decide,
    by decide, by decide +kernel, by decide +kernel, by decide, by decide, by decide, by decide, by decide, by decide⟩

/-- A lane command that answers a next state. -/
theorem witness_LaneCommandsFrame :
    State.reset.tables.Sound ∧ isLaneCommand (.pauseEnd 7) = true ∧ ∃ t, exec (.pauseEnd 7) State.reset = .next t :=
  ⟨reset_sound, rfl, _, rfl⟩

/-- At reset the group state recorded agrees with the count; a DOWN group with as many ACTIVE pairs as M; a group record and a pair
entry marked damaged, an uncorrectable word of the unit in place, the group UP and the pair ACTIVE and draining. -/
theorem witness_GroupEvaluated :
    let s := withPair 0 fun pp => { pp with state := .active }
    let lost (r : TRef) (u : State) : State := u.updTables fun t => { (t.put r { val := 0, wrong := .two }) with groupDamaged := true }
    let lostE (st : PairState) : State := (withPair 0 fun pp => { pp with state := st }).updTables fun t =>
      { (t.put (.pair .active 0 1) { val := 0, wrong := .two }) with pairDamaged := t.pairDamaged.set 0 true }
    State.reset.tables.Sound ∧ State.reset.groupUp = decide (State.reset.minPairs ≤ State.reset.activeCount)
      ∧ s.tables.Sound ∧ s.groupUp = false ∧ s.minPairs ≤ s.activeCount
      ∧ (lost (.group .active 5) upState).tables.groupDamaged = true ∧ (lost (.group .active 5) upState).groupUp = true
      ∧ (∀ st, ((lostE st).pair 0).state = st) ∧ (lostE .active).tables.pairDamaged[0] = true
      ∧ (lostE .draining).tables.pairDamaged[0] = true ∧ (lostE .draining).tables.groupDamaged = false
      ∧ (∀ q : PairIx, q ≠ 0 → (lostE .draining).tables.pairDamaged[q.val] = false) := by
  refine ⟨reset_sound, by decide, sound_reset _, by decide, by decide, by decide, by decide, fun st => ?_, by decide, by decide,
    by decide, by decide⟩
  cases st <;> decide

/-- A draining pair and one that is not. -/
theorem witness_GroupFallEmpties :
    (withPair 0 fun pp => { pp with state := .draining }).tables.Sound
      ∧ ((withPair 0 fun pp => { pp with state := .draining }).pair 0).state = .draining
      ∧ ((withPair 0 fun pp => { pp with state := .draining }).pair 1).state ≠ .draining :=
  ⟨sound_reset _, by decide, by decide⟩

/-- A pending commit at an epoch point, shadow admin OFF in both drain modes and ON, for a pair in each state; a locked guard below
the new threshold and one at it; notice sides NONE before and after, and changed from NONE with a kind pending. -/
theorem witness_CommitApplied :
    let s (f : PairPort → PairPort) (v : Word) : State :=
      (withPair 0 f).updTables fun t => { t.store (.pair .shadow 0 0) v with commitPending := true }
    (∀ f v, (s f v).tables.Sound)
      ∧ (∀ f v, (s f v).tables.commitPending = true ∧ (s f v).dist.fip = none ∧ bitAt ((s f v).tables.get .gate).val 16 = false)
      ∧ State.reset.tables.commitPending = false
      ∧ bitAt ((s id 0).tables.get (.pair .shadow 0 0)).val 0 = false ∧ bitAt ((s id 0x100).tables.get (.pair .shadow 0 0)).val 8 = true
      ∧ bitAt ((s id 0).tables.get (.pair .shadow 0 0)).val 8 = false ∧ bitAt ((s id 1).tables.get (.pair .shadow 0 0)).val 0 = true
      ∧ ((s id 0).pair 0).state = .down
      ∧ (∀ st, ((s (fun pp => { pp with state := st }) 0).pair 0).state = st)
      ∧ ((s (fun pp => { pp with state := .active }) 0).pair 0).txq = [] ∧ ((s (fun pp => { pp with state := .active }) 0).pair 0).store = []
      ∧ ((s (fun pp => { pp with state := .active, txq := [listed 0] }) 0).pair 0).txq ≠ []
      ∧ (∀ d, ((s (fun pp => { pp with state := .draining, drain := some d }) 1).pair 0).drain = some d)
      ∧ (lockedGuard none).locked = true ∧ (lockedGuard none).confidence < 4 ∧ ¬(lockedGuard none).confidence < 3
      ∧ State.reset.noticeSides = 0 ∧ (State.reset.setEvent .groupUp { State.reset.event .groupUp with isPending := true }).anyPending = true := by
  refine ⟨fun f v => sound_pending (reset_sound.store _ v) true,
    fun f v => ⟨rfl, rfl, show bitAt gateDefault 16 = false by decide⟩, rfl, by decide, by decide, by decide, by decide, by decide,
    fun st => rfl, by decide, by decide, by decide, fun d => rfl, by decide, by decide, by decide, by decide, by decide⟩

/-- A running digest of the whole shadow space, touched by a write and not, with a word altered and not. -/
theorem witness_DigestCompletes :
    ∀ b c : Bool, let s := withTables fun t => { t with digest := { DigestRec.begin 0x0100 0x04FF 0 with touched := b, altered := c } }
      s.tables.Sound ∧ s.tables.digest.state = .running ∧ s.tables.digest.touched = b ∧ s.tables.digest.altered = c :=
  fun _ _ => ⟨sound_digest (sound_reset _) _, rfl, rfl, rfl⟩

/-- A control frame of one EVENT_CLEAR. -/
def clearFrame : List Byte := List.replicate 14 0 ++ [1, 1, 0x21, 0, 0, 0] ++ List.replicate 4 0

/-- A malformed FARM frame, a well-formed frame from FARM, and one from LINE with the group DOWN, UP, and UP without room in class
queue 3. -/
theorem witness_ControlFrameExecuted :
    let q (o : Origin) (bs : List Byte) (s : State) : State := s.updCtl fun c => { c with queue := [{ origin := o, bytes := bs }] }
    let full := upState.setQueue 3 [{ cut := 0, uncut := List.replicate 8192 0, ended := true, resp := none }]
    (q .farm [] State.reset).tables.Sound ∧ (q .farm [] State.reset).nextFrame = some { origin := .farm, bytes := [] }
      ∧ parseControl [] = none ∧ (q .farm clearFrame State.reset).nextFrame = some { origin := .farm, bytes := clearFrame }
      ∧ parseControl clearFrame = some [{ code := 0x21, tag := 0, len := 0, addr := 0, data := [] }]
      ∧ (q .line clearFrame upState).nextFrame = some { origin := .line, bytes := clearFrame }
      ∧ upState.groupUp = true ∧ upState.internalRoom 60 = true ∧ full.groupUp = true ∧ full.internalRoom 60 = false
      ∧ State.reset.groupUp = false := by
  refine ⟨sound_reset _, ?_⟩
  decide +kernel

/-- READs of the least and greatest lengths, at the first and last address. -/
theorem witness_ReadReturnsWords :
    State.reset.tables.Sound ∧ 4 ≤ 4 ∧ 64 ≤ 64 ∧ 4 % 4 = 0 ∧ 64 % 4 = 0 ∧ placeOf 0x0000 ≠ .vacant ∧ placeOf 0x0E0F ≠ .vacant := by
  refine ⟨reset_sound, ?_⟩
  decide

/-- A shadow word the default gate opens to FARM, and data of 4 and 8 bytes. -/
theorem witness_ShadowWordWritten :
    State.reset.tables.Sound ∧ (TRef.cls .shadow 63 1).isShadow = true ∧ State.reset.gateAllows (TRef.cls .shadow 63 1).addr = true
      ∧ ([0, 0, 0, 0] : List Byte).length = 4 ∧ ([0, 0, 0, 0, 0, 0, 0, 0] : List Byte).length = 8 := by
  refine ⟨reset_sound, ?_⟩
  decide

/-- The gate record with every flag set, and with none. -/
def withGate (v : Word) : State := withWord .gate v

/-- Words the default gate withholds, the gate record itself, a block whose words the gate withholds, and the flags of the requests
withheld. -/
theorem witness_GateDenies :
    State.reset.tables.Sound ∧ State.reset.gateAllows (0x0100 : Word).toNat = false
      ∧ State.reset.gateAllows (0x0E00 : Word).toNat = false ∧ placeOf 0x0100 ≠ .vacant ∧ placeOf 0x0E00 ≠ .vacant
      ∧ blockLen (List.replicate 8 (0 : Byte)).length = true
      ∧ (∃ a ∈ blockAddrs (0x0E0F : Word).toNat 2, State.reset.gateAllows a = false)
      ∧ ([0, 0, 0, 0] : List Byte).length = 4 ∧ ([0, 0, 0, 0, 0, 0, 0, 0] : List Byte).length = 8
      ∧ (withGate 0).tables.Sound ∧ (withGate 0).gateFlag 4 = false ∧ (withGate 0).gateFlag 5 = false ∧ (withGate 0).gateFlag 6 = false := by
  refine ⟨reset_sound, by decide, by decide, by decide, by decide, by decide, ⟨0x0E00, by decide, by decide⟩,
    by decide, by decide, sound_store .gate 0, by decide, by decide, by decide⟩

/-- Vacant addresses within and past the 16-bit space, and data of each length. -/
theorem witness_VacantAccessAnswered :
    State.reset.tables.Sound ∧ placeOf 0x0300 = .vacant ∧ placeOf 0x00010000 = .vacant ∧ blockLen 4 = true ∧ blockLen 64 = true
      ∧ ([0, 0, 0, 0] : List Byte).length = 4 ∧ ([0, 0, 0, 0, 0, 0, 0, 0] : List Byte).length = 8 := by
  refine ⟨reset_sound, ?_⟩
  decide

/-- A COMMIT with none pending and with one pending, DIGEST operands of both outcomes, and a running digest. -/
theorem witness_CommitAndDigestRequests :
    State.reset.tables.Sound ∧ State.reset.gateFlag 4 = true ∧ State.reset.tables.commitPending = false
      ∧ (withTables fun t => { t with commitPending := true }).tables.Sound
      ∧ (withTables fun t => { t with commitPending := true }).tables.commitPending = true
      ∧ ([0, 0, 1, 0, 0, 0, 4, 255] : List Byte).length = 8
      ∧ inShadowRegion (be32 [0, 0, 1, 0, 0, 0, 4, 255] 0).toNat = true ∧ State.reset.tables.digest.state ≠ .running :=
  ⟨reset_sound, by decide, by decide, sound_pending (sound_reset _) true, by decide, by decide, by decide, by decide⟩

/-- The reset state with the kind at place `i` pending. -/
def withPendingKind (i : Fin 15) : State :=
  State.reset.updEvents fun u =>
    { u with kinds := u.kinds.set i.val { u.kinds[i.val] with isPending := true, count := 3 } }

/-- A pending kind with none before it, and no pending kind at all. -/
theorem witness_EventRequests :
    (withPendingKind 14).tables.Sound ∧ (withPendingKind 14).events.kinds[14].isPending = true
      ∧ (∀ j : Fin 15, j < 14 → (withPendingKind 14).events.kinds[j.val].isPending = false)
      ∧ (∀ i : Fin 15, State.reset.events.kinds[i.val].isPending = false) :=
  ⟨sound_reset _, by decide, by decide, by decide⟩

/-- Pairs in OFF and not in OFF, with the restart flags granted. -/
theorem witness_RestartRequests :
    (withGate 0x7F).tables.Sound ∧ (withGate 0x7F).gateFlag 5 = true ∧ (withGate 0x7F).gateFlag 6 = true
      ∧ ((withGate 0x7F).pair 0).state ≠ .off
      ∧ (((withGate 0x7F).updPair 0 fun pp => { pp with state := .off }).pair 0).state = .off :=
  ⟨sound_store .gate 0x7F, by decide, by decide, by decide, by decide⟩

/-- Both boxes EMPTY at reset, a FULL one, and messages of 1 and 64 bytes. -/
theorem witness_MailboxRequests :
    State.reset.tables.Sound ∧ (∀ b : Fin 2, State.reset.ctl.boxes[b.val].message = [])
      ∧ (setBox 1 { message := [1], keep := true } State.reset).tables.Sound
      ∧ (setBox 1 { message := [1], keep := true } State.reset).ctl.boxes[1].message ≠ []
      ∧ 1 ≤ ([1] : List Byte).length ∧ (List.replicate 64 (1 : Byte)).length ≤ 64 :=
  ⟨reset_sound, by decide, sound_reset _, by decide, by decide, by decide⟩

/-- Addresses of each kind of counter, of the commit state word and of a read-only word. -/
theorem witness_WordWrites :
    let d : DigestRec := DigestRec.begin 0x0110 0x0205 0
    State.reset.tables.Sound ∧ (State.reset.updTables fun t => { t with digest := d }).tables.Sound ∧ d.state = .running
      ∧ d.start = (TRef.group .shadow 0x10).addr ∧ d.last = (TRef.pair .shadow 1 1).addr
      ∧ (TRef.group .shadow 0x0F).addr < d.start ∧ d.last < (TRef.pair .shadow 2 0).addr
      ∧ State.reset.tables.digest.state ≠ .running ∧ placeOf 0x0810 = .pairCounter 0 0 ∧ placeOf 0x08F9 = .pairCounter 7 9
      ∧ placeOf 0x0A10 = .groupCounter 0 ∧ placeOf 0x0A3A = .groupCounter 42 ∧ placeOf 0x0E01 = .commitState
      ∧ readOnly (placeOf 0x0180) = true ∧ (TRef.pair .shadow 7 1).isShadow = true := by
  refine ⟨reset_sound, ⟨reset_sound.words, reset_sound.group, reset_sound.pairs, reset_sound.cls, reset_sound.gate⟩, ?_⟩
  decide +kernel

/-- A group restart that is due, and pairs in OFF and not. -/
theorem witness_GroupRestartTaken :
    (recordRestart .group none State.reset).tables.Sound ∧ (recordRestart .group none State.reset).ctl.dueRestart = some .group
      ∧ (State.reset.pair 0).state ≠ .off ∧ ((withPair 0 fun pp => { pp with state := .off }).pair 0).state = .off :=
  ⟨sound_reset _, by decide, by decide, by decide⟩

/-- A part reset that is due. -/
theorem witness_ResetsTaken : (recordRestart .part none State.reset).ctl.dueRestart = some .part := by decide

/-- A notice owed with a kind pending and notice sides FARM, its interval end passed; and nothing owed at reset. -/
theorem witness_NoticeIntervalEnds :
    let s := ((withPendingKind 2).updEvents fun u => { u with owed := true, lastNotice := some 0 }).updTables fun t =>
      t.store (.group .active 0x12) (pack [(0, 10), (8, 2)])
    s.tables.Sound ∧ s.events.owed = true ∧ (s.atTime 10000000).noticeAllowed = true
      ∧ (s.atTime 9999999).noticeAllowed = false ∧ s.anyPending = true ∧ s.noticeSides ≠ 0 ∧ s.noticeSides.testBit 1 = true
      ∧ State.reset.events.owed = false ∧ State.reset.anyPending = false := by
  refine ⟨sound_store (.group .active 0x12) (pack [(0, 10), (8, 2)]), ?_⟩
  decide +kernel

/-- No damage owed, with the group DOWN, and with it UP and no frame for the distributor. -/
theorem witness_MemoryErrorsTaken :
    State.reset.damageOwed = false ∧ State.reset.groupUp = false ∧ upState.damageOwed = false ∧ upState.groupUp = true
      ∧ (∀ c, upState.queue c = []) ∧ upState.dist.fip = none := by decide

end Sys2Proof.Tests
end

section
/-! PROOFS of the family 00 (scope): sequence arithmetic (R1) and the fields of a stored table word (R2, R130). -/

namespace Sys2Proof.Machine

/-! ### Differences of sequence numbers -/

/-- A difference of two `w`-bit numbers read as R1 reads it: the integer difference modulo `2 ^ w`. -/
theorem toNat_sub_eq_emod {w : Nat} (a b : BitVec w) :
    ((a - b).toNat : Int) = ((a.toNat : Int) - b.toNat) % (2 ^ w : Nat) := by
  rw [BitVec.toNat_sub, Int.natCast_emod, Nat.cast_add, Nat.cast_sub b.isLt.le]
  rw [show ((2 ^ w : Nat) : Int) - b.toNat + a.toNat = (a.toNat - b.toNat) + (2 ^ w : Nat) by ring, Int.add_emod_right]

/-- The two differences of distinct numbers go once around the circle together. -/
theorem toNat_sub_add_toNat_sub_swap {w : Nat} {a b : BitVec w} (h : a ≠ b) :
    (a - b).toNat + (b - a).toNat = 2 ^ w := by
  have hne : (a - b).toNat ≠ 0 := fun h0 => h (sub_eq_zero.mp (BitVec.eq_of_toNat_eq h0))
  have hlt : 2 ^ w - (a - b).toNat < 2 ^ w := by omega
  rw [← neg_sub a b, BitVec.toNat_neg, Nat.mod_eq_of_lt hlt]
  exact Nat.add_sub_of_le (a - b).isLt.le

/-- Settles O11: each comparison bounds a wrapped difference, and distinct TXNs differ by `d` one way and by `128 - d` the
other. -/
theorem sequenceArithmetic : Obligations.SequenceArithmetic := by
  refine ⟨fun a b => ?_, fun a b => ?_, fun a b => ?_, fun a b hab => ?_⟩
  · have hd := toNat_sub_eq_emod a b
    simp only [gsnAhead, Bool.and_eq_true, decide_eq_true_eq]
    omega
  · have hd := toNat_sub_eq_emod a b
    simp only [txnAhead, Bool.and_eq_true, decide_eq_true_eq]
    omega
  · have hd := toNat_sub_eq_emod b a
    simp only [txnBehind, Bool.and_eq_true, decide_eq_true_eq]
    omega
  · have hsum := toNat_sub_add_toNat_sub_swap hab
    have hlt : (a - b).toNat < 2 ^ 7 := (a - b).isLt
    rw [Ne, Bool.eq_iff_iff]
    simp only [txnAhead, txnBehind, Bool.and_eq_true, decide_eq_true_eq]
    omega

/-! ### A value in its range -/

/-- A value in its range is kept (R2). -/
theorem clampTo_of_mem {lo hi v : Nat} (hlo : lo ≤ v) (hhi : v ≤ hi) : clampTo lo hi v = v := by
  rw [clampTo, min_eq_right hhi, max_eq_right hlo]

/-- R2, the three places a value can stand in against its range. -/
theorem clampTo_cases {lo hi : Nat} (v : Nat) (h : lo ≤ hi) :
    (v < lo → clampTo lo hi v = lo) ∧ (lo ≤ v → v ≤ hi → clampTo lo hi v = v) ∧ (hi < v → clampTo lo hi v = hi) := by
  refine ⟨fun hv => ?_, clampTo_of_mem, fun hv => ?_⟩ <;> unfold clampTo <;> omega

/-- A step of 1 rounds nothing away. -/
theorem stepDown_one (v : Nat) : stepDown 1 v = v := by simp [stepDown]

theorem stepDown_of_dvd {k v : Nat} (h : k ∣ v) : stepDown k v = v := Nat.div_mul_cancel h

theorem dvd_stepDown (k v : Nat) : k ∣ stepDown k v := Nat.dvd_mul_left k (v / k)

theorem fieldAt_lt (w : Word) (lo n : Nat) : fieldAt w lo n < 2 ^ n := Nat.mod_lt _ (Nat.two_pow_pos n)

/-- A range that takes every value of a field leaves the field as it is. -/
theorem clampTo_fieldAt {hi n : Nat} (w : Word) (lo : Nat) (h : 2 ^ n ≤ hi + 1) :
    clampTo 0 hi (fieldAt w lo n) = fieldAt w lo n :=
  have hlt := fieldAt_lt w lo n
  clampTo_of_mem (Nat.zero_le _) (by omega)

/-- The whole word as one field. -/
theorem pack_whole_word (w : Word) : pack [(0, fieldAt w 0 32)] = w :=
  BitVec.eq_of_toNat_eq (by simp [pack, fieldAt, w.isLt])

/-- Bit `j` of a field is the word's bit `j` above the field's lowest. -/
theorem testBit_fieldAt (w : Word) (lo n j : Nat) : (fieldAt w lo n).testBit j = (decide (j < n) && bitAt w (lo + j)) := by
  rw [fieldAt, Nat.testBit_mod_two_pow, Nat.testBit_div_two_pow, Nat.add_comm j lo, bitAt]

/-! ### A field and its range -/

/-- A field's value as stored when `x` is written: rounded down to the step, then brought into the range. -/
def FieldRange.stored (f : FieldRange) (x : Nat) : Nat := clampTo f.least f.greatest (stepDown f.step x)

/-- A range with both ends on the field's step and within its width. -/
structure FieldRange.Proper (f : FieldRange) : Prop where
  ordered : f.least ≤ f.greatest
  fits : f.greatest < 2 ^ f.width
  leastOnStep : f.step ∣ f.least
  greatestOnStep : f.step ∣ f.greatest

/-- A field lies wholly below another. -/
abbrev FieldRange.Below (f g : FieldRange) : Prop := f.lo + f.width ≤ g.lo

namespace FieldRange

variable {f : FieldRange}

theorem least_le_stored (f : FieldRange) (x : Nat) : f.least ≤ f.stored x := Nat.le_max_left ..

theorem Proper.stored_le (hf : f.Proper) (x : Nat) : f.stored x ≤ f.greatest :=
  Nat.max_le.mpr ⟨hf.ordered, Nat.min_le_left ..⟩

theorem Proper.stored_lt (hf : f.Proper) (x : Nat) : f.stored x < 2 ^ f.width := (hf.stored_le x).trans_lt hf.fits

/-- The stored value is one of the two ends or the rounded value, and each is on the step. -/
theorem Proper.step_dvd_stored (hf : f.Proper) (x : Nat) : f.step ∣ f.stored x := by
  unfold stored clampTo
  rcases max_choice f.least (min f.greatest (stepDown f.step x)) with h | h <;> rw [h]
  · exact hf.leastOnStep
  · rcases min_choice f.greatest (stepDown f.step x) with h | h <;> rw [h]
    · exact hf.greatestOnStep
    · exact dvd_stepDown f.step x

theorem stored_of_mem {x : Nat} (hlo : f.least ≤ x) (hhi : x ≤ f.greatest) (hx : f.step ∣ x) :
    f.stored x = x := by
  rw [stored, stepDown_of_dvd hx]
  exact clampTo_of_mem hlo hhi

theorem Proper.stored_stored (hf : f.Proper) (x : Nat) : f.stored (f.stored x) = f.stored x :=
  stored_of_mem (f.least_le_stored x) (hf.stored_le x) (hf.step_dvd_stored x)

end FieldRange

/-! ### Packing fields that lie apart -/

/-- Fields in rising order, each with a proper range, all within a word. -/
structure LaidOut (fs : List FieldRange) : Prop where
  rising : fs.Pairwise FieldRange.Below
  proper : ∀ f ∈ fs, f.Proper
  inWord : ∀ f ∈ fs, f.lo + f.width ≤ 32

/-- Two different fields share no bit. -/
theorem LaidOut.apart {fs : List FieldRange} (hl : LaidOut fs) {f g : FieldRange} (hf : f ∈ fs) (hg : g ∈ fs) (hne : f ≠ g) :
    f.Below g ∨ g.Below f :=
  have : Std.Symm fun f g : FieldRange => f.Below g ∨ g.Below f := ⟨fun _ _ => Or.symm⟩
  List.Pairwise.forall (R := fun f g => f.Below g ∨ g.Below f) (hl.rising.imp Or.inl) hf hg hne

/-- What the ranges store fits the fields. -/
theorem LaidOut.stored_lt {fs : List FieldRange} (hl : LaidOut fs) (x : FieldRange → Nat) :
    ∀ f ∈ fs, f.stored (x f) < 2 ^ f.width := fun f hf => (hl.proper f hf).stored_lt (x f)

/-- The word with value `x f` in each field `f`. -/
def packFields (fs : List FieldRange) (x : FieldRange → Nat) : Word := pack (fs.map fun f => (f.lo, x f))

/-- A packed word depends only on its own fields' values. -/
theorem packFields_congr {fs : List FieldRange} {x y : FieldRange → Nat} (h : ∀ f ∈ fs, x f = y f) :
    packFields fs x = packFields fs y :=
  congrArg pack (List.map_congr_left fun f hf => by rw [h f hf])

/-- A set bit of a field's value lies within the field's width. -/
theorem lt_width_of_testBit {n x i : Nat} (hx : x < 2 ^ n) (hbit : x.testBit i = true) : i < n :=
  (Nat.pow_lt_pow_iff_right one_lt_two).mp ((Nat.ge_two_pow_of_testBit hbit).trans_lt hx)

/-- Adding a field above a number shifts its bits in and keeps those below. -/
theorem testBit_add_field {a lo : Nat} (x i : Nat) (ha : a < 2 ^ lo) :
    (a + x * 2 ^ lo).testBit i = true ↔ a.testBit i = true ∨ (lo ≤ i ∧ x.testBit (i - lo) = true) := by
  rw [Nat.add_comm, Nat.mul_comm, Nat.testBit_two_pow_mul_add x ha]
  split
  · next hi => simp [Nat.not_le.mpr hi]
  · next hi =>
    have hi : lo ≤ i := Nat.le_of_not_lt hi
    simp [hi, Nat.testBit_lt_two_pow (ha.trans_le (Nat.pow_le_pow_right two_pos hi))]

/-- A field added above a number ends at the field's own end. -/
theorem add_field_lt {a lo x n : Nat} (ha : a < 2 ^ lo) (hx : x < 2 ^ n) : a + x * 2 ^ lo < 2 ^ (lo + n) :=
  calc a + x * 2 ^ lo < 2 ^ lo + x * 2 ^ lo := Nat.add_lt_add_right ha _
    _ = 2 ^ lo * (x + 1) := by ring
    _ ≤ 2 ^ lo * 2 ^ n := Nat.mul_le_mul_left _ hx
    _ = 2 ^ (lo + n) := (Nat.pow_add ..).symm

/-- The bits of a number to which rising fields are added one by one, each above all that is there. -/
theorem testBit_foldl_fields {x : FieldRange → Nat} (i : Nat) :
    ∀ (fs : List FieldRange) (a : Nat), fs.Pairwise FieldRange.Below → (∀ f ∈ fs, x f < 2 ^ f.width) →
      (∀ f ∈ fs, a < 2 ^ f.lo) →
      (((fs.map fun f => (f.lo, x f)).foldl (fun a f => a + f.2 * 2 ^ f.1) a).testBit i = true
        ↔ a.testBit i = true ∨ ∃ f ∈ fs, f.lo ≤ i ∧ (x f).testBit (i - f.lo) = true)
  | [], a, _, _, _ => by simp
  | f :: fs, a, hrise, hfit, ha => by
    obtain ⟨hbelow, hrise⟩ := List.pairwise_cons.mp hrise
    obtain ⟨hx, hfit⟩ := List.forall_mem_cons.mp hfit
    obtain ⟨haf, -⟩ := List.forall_mem_cons.mp ha
    have habove : ∀ g ∈ fs, a + x f * 2 ^ f.lo < 2 ^ g.lo := fun g hg =>
      (add_field_lt haf hx).trans_le (Nat.pow_le_pow_right two_pos (hbelow g hg))
    rw [List.map_cons, List.foldl_cons, testBit_foldl_fields i fs _ hrise hfit habove, testBit_add_field _ _ haf]
    simp [or_assoc]

section
variable {fs : List FieldRange} {x : FieldRange → Nat} (hl : LaidOut fs) (hx : ∀ f ∈ fs, x f < 2 ^ f.width)
include hl hx

/-- Bit `i` of a packed word is set exactly where a field has it set. -/
theorem bitAt_packFields {i : Nat} (hi : i < 32) :
    bitAt (packFields fs x) i = true ↔ ∃ f ∈ fs, f.lo ≤ i ∧ (x f).testBit (i - f.lo) = true := by
  have h0 : ∀ f ∈ fs, 0 < 2 ^ f.lo := fun f _ => Nat.two_pow_pos f.lo
  simp only [bitAt, packFields, pack, BitVec.toNat_ofNat, Nat.testBit_mod_two_pow, hi, decide_true, Bool.true_and,
    testBit_foldl_fields i fs 0 hl.rising hx h0, Nat.zero_testBit, Bool.false_eq_true, false_or]

/-- No field reaches a bit outside the fields, so it is clear. -/
theorem bitAt_packFields_outside {i : Nat} (hi : i < 32) (hout : ∀ f ∈ fs, i < f.lo ∨ f.lo + f.width ≤ i) :
    bitAt (packFields fs x) i = false := by
  rw [← Bool.not_eq_true, bitAt_packFields hl hx hi]
  rintro ⟨f, hf, hlo, hbit⟩
  have hwidth := lt_width_of_testBit (hx f hf) hbit
  have := hout f hf
  omega

/-- Each field of a packed word reads back. -/
theorem fieldAt_packFields {f : FieldRange} (hf : f ∈ fs) : fieldAt (packFields fs x) f.lo f.width = x f := by
  refine Nat.eq_of_testBit_eq fun j => ?_
  rw [testBit_fieldAt]
  by_cases hj : j < f.width
  · have hword : f.lo + j < 32 := by have := hl.inWord f hf; omega
    rw [decide_eq_true hj, Bool.true_and, Bool.eq_iff_iff, bitAt_packFields hl hx hword]
    constructor
    · rintro ⟨g, hg, hlo, hbit⟩
      have hwidth := lt_width_of_testBit (hx g hg) hbit
      have hfg : f = g := by
        by_contra hne
        have := hl.apart hf hg hne
        omega
      subst hfg
      rwa [Nat.add_sub_cancel_left] at hbit
    · exact fun hbit => ⟨f, hf, Nat.le_add_right .., by rwa [Nat.add_sub_cancel_left]⟩
  · rw [decide_eq_false hj, Bool.false_and]
    exact (Bool.eq_false_of_not_eq_true fun hbit => hj (lt_width_of_testBit (hx f hf) hbit)).symm
end

/-! ### The table words -/

/-- The conditions of a layout as one closed proposition that evaluates. -/
theorem laidOut_of_checks {fs : List FieldRange}
    (h : fs.Pairwise FieldRange.Below ∧ ∀ f ∈ fs,
      (f.least ≤ f.greatest ∧ f.greatest < 2 ^ f.width ∧ f.step ∣ f.least ∧ f.step ∣ f.greatest) ∧ f.lo + f.width ≤ 32) :
    LaidOut fs where
  rising := h.1
  proper f hf := have ⟨⟨hord, hfit, hleast, hgreatest⟩, _⟩ := h.2 f hf; ⟨hord, hfit, hleast, hgreatest⟩
  inWord f hf := (h.2 f hf).2

/-- The fields of every table word are laid out apart, each with a proper range (R62, R116, R118, R141). -/
theorem laidOut_tableFields : ∀ r : TRef, LaidOut (tableFields r)
  | .group _ i => laidOut_of_checks (fs := groupFields i) (by revert i; decide)
  | .pair _ _ j => laidOut_of_checks (fs := tableFields (.pair .shadow 0 j)) (by revert j; decide)
  | .cls _ _ j => laidOut_of_checks (fs := tableFields (.cls .shadow 0 j)) (by revert j; decide)
  | .gate => laidOut_of_checks (by decide)

/-- The group record word by word: a step of 1 and a range that fills its field drop out of the stored value (R116, R130). -/
theorem clampGroup_eq_packFields (i : Fin 19) (v : Word) :
    clampGroup i v = packFields (groupFields i) fun f => f.stored (fieldAt v f.lo f.width) := by
  fin_cases i <;>
    simp [clampGroup, groupFields, classFields, clampF, packFields, FieldRange.stored, stepDown_one, clampTo_fieldAt,
      pack_whole_word]

/-- Every table word is stored field by field (R130). -/
theorem clampTable_eq_packFields (r : TRef) (v : Word) :
    clampTable r v = packFields (tableFields r) fun f => f.stored (fieldAt v f.lo f.width) := by
  cases r with
  | group c i => exact clampGroup_eq_packFields i v
  | pair c p j =>
    fin_cases j <;> simp [clampTable, clampPair, tableFields, packFields, FieldRange.stored, stepDown_one, clampTo_fieldAt]
  | cls c i j =>
    fin_cases j <;>
      simp [clampTable, clampCls, tableFields, packFields, FieldRange.stored, stepDown_one, clampTo_fieldAt, pack_whole_word]
  | gate => simp [clampTable, clampGate, tableFields, packFields, FieldRange.stored, stepDown_one, clampTo_fieldAt]

/-- A field of a stored table word is the written field as its range stores it. -/
theorem fieldAt_clampTable {r : TRef} {f : FieldRange} (hf : f ∈ tableFields r) (v : Word) :
    fieldAt (clampTable r v) f.lo f.width = f.stored (fieldAt v f.lo f.width) := by
  have hl := laidOut_tableFields r
  rw [clampTable_eq_packFields, fieldAt_packFields hl (hl.stored_lt _) hf]

/-- The bits of a stored table word outside its fields are 0 (R166). -/
theorem bitAt_clampTable_outside (r : TRef) (v : Word) {i : Nat} (hi : i < 32)
    (hout : ∀ f ∈ tableFields r, i < f.lo ∨ f.lo + f.width ≤ i) : bitAt (clampTable r v) i = false := by
  have hl := laidOut_tableFields r
  rw [clampTable_eq_packFields]
  exact bitAt_packFields_outside hl (hl.stored_lt _) hi hout

/-- A stored table word, written again as it reads, stays as it is. -/
theorem clampTable_clampTable (r : TRef) (v : Word) : clampTable r (clampTable r v) = clampTable r v := by
  rw [clampTable_eq_packFields r (clampTable r v), clampTable_eq_packFields r v]
  refine packFields_congr fun f hf => ?_
  rw [← clampTable_eq_packFields, fieldAt_clampTable hf, ((laidOut_tableFields r).proper f hf).stored_stored]

/-- Settles O12: every table word is stored field by field, and each field's range keeps what it has stored. -/
theorem clampingToRange : Obligations.ClampingToRange := by
  refine ⟨fun lo hi v h => clampTo_cases v h, fun r v f hf => ?_, fun r v i => bitAt_clampTable_outside r v,
    clampTable_clampTable⟩
  have hproper : f.Proper := (laidOut_tableFields r).proper f hf
  rw [fieldAt_clampTable hf v]
  exact ⟨rfl, f.least_le_stored _, hproper.stored_le _, hproper.step_dvd_stored _, FieldRange.stored_of_mem⟩

end Sys2Proof.Machine
end

section
/-! PROOFS of the family 01 (pairs and their transceivers), first layer: what meeting a word and raising an event leave of
table memory and of the event records (R135..R137, R158). -/

namespace Sys2Proof.Machine

/-! ### Ports under the updates of other parts -/

@[simp] theorem State.updReas_pair (s : State) (f : Reassembler → Reassembler) (p : PairIx) : (s.updReas f).pair p = s.pair p := rfl
@[simp] theorem State.updTables_pair (s : State) (f : TableStore → TableStore) (p : PairIx) : (s.updTables f).pair p = s.pair p := rfl
@[simp] theorem State.atTime_pair (s : State) (t : Nat) (p : PairIx) : (s.atTime t).pair p = s.pair p := rfl

/-! ### Event records -/

/-- The kinds in code order (R158). -/
def EventKind.inOrder : List EventKind :=
  [.tableDamaged, .groupDown, .pairDown, .retryExhausted, .miswired, .memoryExhausted, .postedFailed, .vacantAccess, .groupUp,
   .pairActive, .commitDone, .digestDone, .boxArrived, .guardLocked, .eccCorrected]

theorem EventKind.inOrder_index (k : EventKind) : EventKind.inOrder[k.index.val]? = some k := by cases k <;> rfl

/-- The kinds' places are distinct. -/
theorem EventKind.index_inj {j k : EventKind} (h : j.index = k.index) : j = k :=
  Option.some.inj (by rw [← EventKind.inOrder_index j, h, EventKind.inOrder_index])

/-- The record of a kind after one is replaced. -/
theorem State.setEvent_event (s : State) (j k : EventKind) (r : EventRec) :
    (s.setEvent k r).event j = if j = k then r else s.event j := by
  unfold State.setEvent State.event
  simp only [State.updEvents_events, Vector.getElem_set]
  by_cases h : j = k
  · subst h; simp
  · have : k.index.val ≠ j.index.val := fun e => h (EventKind.index_inj (Fin.ext e.symm))
    simp [h, this]

/-- The records of a state depend on its event kinds alone. -/
theorem State.event_congr {s t : State} (h : t.events.kinds = s.events.kinds) (k : EventKind) : t.event k = s.event k := by
  unfold State.event; rw [h]

/-! ### Table memory met by reads -/

/-- What a read's findings leave of table memory and of the event records: every word reads as it did, damage marks stay, and
only the two kinds of finding are raised. -/
structure MetTables (s t : State) : Prop where
  words : ∀ r, t.word? r = s.word? r
  groupMark : s.tables.groupDamaged = true → t.tables.groupDamaged = true
  pairMark : ∀ p : PairIx, s.tables.pairDamaged[p.val] = true → t.tables.pairDamaged[p.val] = true
  events : ∀ k, k ≠ .tableDamaged → k ≠ .eccCorrected → t.event k = s.event k

theorem MetTables.of_same {s t : State} (ht : t.tables = s.tables) (hk : t.events.kinds = s.events.kinds) : MetTables s t where
  words r := by unfold State.word?; rw [ht]
  groupMark h := by rwa [ht]
  pairMark p h := by simpa only [ht] using h
  events k _ _ := State.event_congr hk k

theorem MetTables.refl (s : State) : MetTables s s := .of_same rfl rfl

theorem MetTables.trans {s t u : State} (h : MetTables s t) (k : MetTables t u) : MetTables s u where
  words r := (k.words r).trans (h.words r)
  groupMark hs := k.groupMark (h.groupMark hs)
  pairMark p hs := k.pairMark p (h.pairMark p hs)
  events e h1 h2 := (k.events e h1 h2).trans (h.events e h1 h2)

/-- Raising one of the two kinds of finding changes no other record. -/
theorem metTables_setFinding (s : State) {k : EventKind} (hk : k = .tableDamaged ∨ k = .eccCorrected) (r : EventRec) :
    MetTables s (s.setEvent k r) where
  words _ := rfl
  groupMark h := h
  pairMark _ h := h
  events j h1 h2 := by
    have hj : j ≠ k := by rintro rfl; exact hk.elim h1 h2
    rw [State.setEvent_event, if_neg hj]

/-- A corrected word reads as it did (R135). -/
theorem TableStore.word?_correct {t : TableStore} {r : TRef} (h : (t.get r).wrong = .one) (q : TRef) :
    (t.correct r).word? q = t.word? q := by
  have hget : (t.correct r).get q = if q = r then { val := (t.get r).val, wrong := .none } else t.get q := by
    rw [← TableStore.get_store]
    rcases q with ⟨_ | _, i⟩ | ⟨_ | _, p, j⟩ | ⟨_ | _, i, j⟩ | _ <;> rfl
  unfold TableStore.word?
  rw [hget]
  split
  · next e => subst e; simp [h]
  · rfl

/-- Neither counting a finding nor marking its unit changes a word (R136, R137). -/
theorem TableStore.word?_mark (t : TableStore) (r q : TRef) (n : Nat) :
    ((t.countUncorrectable n).mark r).word? q = t.word? q ∧ (t.countUncorrectable n).word? q = t.word? q := by
  have hget : ((t.countUncorrectable n).mark r).get q = t.get q := by
    rcases r with ⟨_ | _, i⟩ | ⟨_ | _, p, j⟩ | ⟨_ | _, i, j⟩ | _ <;>
      rcases q with ⟨_ | _, i⟩ | ⟨_ | _, p, j⟩ | ⟨_ | _, i, j⟩ | _ <;> rfl
  have hcount : (t.countUncorrectable n).get q = t.get q := by
    rcases q with ⟨_ | _, i⟩ | ⟨_ | _, p, j⟩ | ⟨_ | _, i, j⟩ | _ <;> rfl
  exact ⟨by unfold TableStore.word?; rw [hget], by unfold TableStore.word?; rw [hcount]⟩

/-- Correcting a word leaves the damage marks alone. -/
theorem TableStore.marks_correct (t : TableStore) (r : TRef) :
    (t.correct r).groupDamaged = t.groupDamaged ∧ (t.correct r).pairDamaged = t.pairDamaged := by
  rcases r with ⟨_ | _, i⟩ | ⟨_ | _, p, j⟩ | ⟨_ | _, i, j⟩ | _ <;> exact ⟨rfl, rfl⟩

theorem metTables_correct {s : State} {r : TRef} (h : (s.tables.get r).wrong = .one) :
    MetTables s (s.updTables fun t => t.correct r) where
  words q := TableStore.word?_correct h q
  groupMark hs := (s.tables.marks_correct r).1.trans hs
  pairMark p hs := by
    have e : (s.updTables fun t => t.correct r).tables.pairDamaged = s.tables.pairDamaged := (s.tables.marks_correct r).2
    simpa only [e] using hs
  events _ _ _ := rfl

theorem metTables_count (s : State) (n : Nat) : MetTables s (s.updTables fun t => t.countUncorrectable n) where
  words q := (s.tables.word?_mark .gate q n).2
  groupMark hs := hs
  pairMark _ hs := hs
  events _ _ _ := rfl

theorem metTables_mark (s : State) (r : TRef) (n : Nat) : MetTables s (s.updTables fun t => (t.countUncorrectable n).mark r) where
  words q := (s.tables.word?_mark r q n).1
  groupMark hs := by
    rcases r with ⟨_ | _, i⟩ | ⟨_ | _, p, j⟩ | ⟨_ | _, i, j⟩ | _
    case group.active => rfl
    all_goals exact hs
  pairMark p hs := by
    rcases r with ⟨_ | _, i⟩ | ⟨_ | _, q, j⟩ | ⟨_ | _, i, j⟩ | _
    case pair.active =>
      simp only [State.updTables_tables, TableStore.mark, Vector.getElem_set]
      split
      · rfl
      · exact hs
    all_goals exact hs
  events _ _ _ := rfl

section look

variable {look : TRef → State → State} (hl : ∀ r s, MetTables s (look r s))
include hl

theorem metTables_admit (b : List Byte) (r : Option Nat) (s : State) : MetTables s (admitInternalWith look b r s).1 := by
  unfold admitInternalWith
  split
  · dsimp only
    split
    · exact (hl _ s).trans (.of_same rfl rfl)
    · exact (hl _ s).trans (.of_same rfl rfl)
  · exact .of_same rfl rfl

theorem metTables_sendSides (b : List Byte) (n : Nat) (s : State) : MetTables s (sendSides look b n s) := by
  unfold sendSides
  dsimp only
  have h : MetTables s (if n.testBit 1 then s.updCtl fun c => c.putNotice b else s) := by
    split <;> exact .of_same rfl rfl
  split
  · exact h.trans (metTables_admit hl _ _ _)
  · exact h

theorem metTables_sendNoticeWith (s : State) : MetTables s (sendNoticeWith look s) := by
  have stamped : MetTables s (stampNotice s) := .of_same rfl rfl
  have read : MetTables (stampNotice s) (touchNotice look (stampNotice s)) :=
    ((hl _ _).trans (hl _ _)).trans ((hl _ _).trans (hl _ _))
  exact stamped.trans (read.trans (metTables_sendSides hl _ _ _))

theorem metTables_newPendingWith (s : State) : MetTables s (newPendingWith look s) := by
  unfold newPendingWith
  dsimp only
  split
  · exact hl _ s
  · split
    · exact (hl _ s).trans (metTables_sendNoticeWith hl _)
    · exact (hl _ s).trans (.of_same rfl rfl)

end look

/-- What meeting a word leaves of table memory, given what raising an event does after its record is set. -/
theorem metTables_touchWith {re : EventKind → Detail → State → State}
    (hr : ∀ k d s, MetTables (s.setEvent k ((s.event k).occur d)) (re k d s)) (r : TRef) (s : State) :
    MetTables s (touchWith re r s) := by
  unfold touchWith
  split
  · exact .refl s
  · next h => exact (metTables_correct h).trans ((metTables_setFinding _ (.inr rfl) _).trans (hr _ _ _))
  · split
    · exact metTables_count s _
    · exact (metTables_mark s r _).trans ((metTables_setFinding _ (.inl rfl) _).trans (hr _ _ _))

theorem metTables_raiseN (n : Nat) :
    ∀ k d s, MetTables (s.setEvent k ((s.event k).occur d)) (raiseN n k d s) := by
  induction n with
  | zero =>
    intro k d s
    unfold raiseN
    dsimp only
    split
    · exact metTables_newPendingWith (fun _ s => .refl s) _
    · exact .refl _
  | succ n ih =>
    intro k d s
    unfold raiseN
    dsimp only
    split
    · exact metTables_newPendingWith (metTables_touchWith ih) _
    · exact .refl _

/-- What raising an event leaves of table memory and of the records, once its own record is set. -/
theorem metTables_raiseEvent (k : EventKind) (d : Detail) (s : State) :
    MetTables (s.setEvent k ((s.event k).occur d)) (raiseEvent k d s) := metTables_raiseN 8 k d s

/-- What meeting a word leaves of table memory and of the records. -/
theorem metTables_touch (r : TRef) (s : State) : MetTables s (touch r s) := metTables_touchWith metTables_raiseEvent r s

/-! ### Raising an event on any table memory -/

/-- The records after a kind that is no finding is raised. -/
theorem raiseEvent_event {k : EventKind} (d : Detail) (s : State) (j : EventKind) (h1 : j ≠ .tableDamaged)
    (h2 : j ≠ .eccCorrected) : (raiseEvent k d s).event j = if j = k then (s.event k).occur d else s.event j := by
  rw [(metTables_raiseEvent k d s).events j h1 h2, State.setEvent_event]

/-! ### Raising an event on sound table memory -/

/-- A notice sent with reads that change nothing leaves table memory and the records alone. -/
theorem newPendingWith_sound {look : TRef → State → State} (hl : ∀ r s, s.tables.Sound → look r s = s) {s : State}
    (h : s.tables.Sound) :
    (newPendingWith look s).tables = s.tables ∧ (newPendingWith look s).events.kinds = s.events.kinds := by
  have sides : ∀ (b : List Byte) (n : Nat) (x : State), x.tables.Sound →
      (sendSides look b n x).tables = x.tables ∧ (sendSides look b n x).events.kinds = x.events.kinds := by
    intro b n x hx
    unfold sendSides admitInternalWith
    dsimp only
    have hx' : (if n.testBit 1 then x.updCtl fun c => c.putNotice b else x).tables.Sound := by split <;> exact hx
    simp only [hl _ _ hx']
    split_ifs <;> exact ⟨rfl, rfl⟩
  unfold newPendingWith sendNoticeWith touchNotice
  have hs : (stampNotice s).tables.Sound := h
  simp only [hl _ _ h, hl _ _ hs]
  split_ifs
  · exact ⟨rfl, rfl⟩
  · exact sides _ _ _ hs
  · exact ⟨rfl, rfl⟩

/-- On sound table memory raising an event leaves it alone and changes one record. -/
theorem raiseEvent_sound (k : EventKind) (d : Detail) {s : State} (h : s.tables.Sound) :
    (raiseEvent k d s).tables = s.tables
      ∧ (raiseEvent k d s).events.kinds = (s.setEvent k ((s.event k).occur d)).events.kinds := by
  have hs : (s.setEvent k ((s.event k).occur d)).tables.Sound := h
  have hl : ∀ r x, x.tables.Sound → touchWith (raiseN 7) r x = x := fun r x hx => by
    unfold touchWith; rw [hx.words r]
  unfold raiseEvent raiseN
  dsimp only
  split
  · exact newPendingWith_sound hl hs
  · exact ⟨rfl, rfl⟩

theorem raiseEvent_tables (k : EventKind) (d : Detail) {s : State} (h : s.tables.Sound) :
    (raiseEvent k d s).tables = s.tables := (raiseEvent_sound k d h).1

/-- The records after an event is raised on sound table memory (R158). -/
theorem raiseEvent_event_sound (k j : EventKind) (d : Detail) {s : State} (h : s.tables.Sound) :
    (raiseEvent k d s).event j = if j = k then (s.event k).occur d else s.event j := by
  rw [State.event_congr (raiseEvent_sound k d h).2, State.setEvent_event]

end Sys2Proof.Machine
end

section
/-! PROOFS of the family 01, second layer: the shared work of the blocks on any table memory. `Settles` is what meeting words,
raising events, the reassembler's tests, the distributor's attempts, the group's evaluation and the end of a command have in
common: what they leave alone, and the emptiness of R122. -/

namespace Sys2Proof.Machine

/-! ### What shared work leaves of a pair port -/

/-- The fields of a pair port that its own reports and deadlines alone change; the others at their reset values. -/
def PairPort.lasting (pp : PairPort) : PairPort :=
  { PairPort.reset with
    upRate := pp.upRate, downRate := pp.downRate, probStart := pp.probStart, samples := pp.samples, latency := pp.latency
    sampled := pp.sampled, probeDue := pp.probeDue, lastProbe := pp.lastProbe, lastHandoff := pp.lastHandoff
    lastHeard := pp.lastHeard, guard := pp.guard, counters := pp.counters }

theorem PairPort.upRate_of_lasting {pp pp' : PairPort} (h : pp'.lasting = pp.lasting) : pp'.upRate = pp.upRate :=
  (congrArg (fun x : PairPort => x.upRate) h : pp'.lasting.upRate = pp.lasting.upRate)

theorem PairPort.downRate_of_lasting {pp pp' : PairPort} (h : pp'.lasting = pp.lasting) : pp'.downRate = pp.downRate :=
  (congrArg (fun x : PairPort => x.downRate) h : pp'.lasting.downRate = pp.lasting.downRate)

theorem PairPort.samples_of_lasting {pp pp' : PairPort} (h : pp'.lasting = pp.lasting) : pp'.samples = pp.samples :=
  (congrArg (fun x : PairPort => x.samples) h : pp'.lasting.samples = pp.lasting.samples)

theorem PairPort.latency_of_lasting {pp pp' : PairPort} (h : pp'.lasting = pp.lasting) : pp'.latency = pp.latency :=
  (congrArg (fun x : PairPort => x.latency) h : pp'.lasting.latency = pp.lasting.latency)

theorem PairPort.guard_of_lasting {pp pp' : PairPort} (h : pp'.lasting = pp.lasting) : pp'.guard = pp.guard :=
  (congrArg (fun x : PairPort => x.guard) h : pp'.lasting.guard = pp.lasting.guard)

/-- A pair in OFF that holds nothing. -/
def PairPort.Vacated (pp : PairPort) : Prop := pp.state = .off ∧ pp.emptied = pp

/-- A pair holds no fragment. -/
def PairPort.HoldsNone (pp : PairPort) : Prop := pp.txq = [] ∧ pp.store = []

theorem PairPort.fragments_nil {pp : PairPort} (h : pp.HoldsNone) : pp.fragments = [] := by
  obtain ⟨hq, hs⟩ := h
  simp [PairPort.fragments, hq, hs]

/-- What the blocks' shared work leaves alone: the moment, the straps, the queue of commands, the farm port but for the frame
being received and its output queue, the mailboxes, the response slot and the records of requests, what `lasting` keeps of the
pair ports, damage marks, sound table memory; and with the group record marked damaged the group stays DOWN (R121). -/
structure BlockFrame (s t : State) : Prop where
  now : t.now = s.now
  digit : t.digit = s.digit
  pending : t.pending = s.pending
  farm : t.farm = { s.farm with rx := t.farm.rx, outQueue := t.farm.outQueue }
  boxes : t.ctl.boxes = s.ctl.boxes
  respSlot : t.ctl.respSlot = s.ctl.respSlot
  nextResp : t.ctl.nextResp = s.ctl.nextResp
  answers : t.ctl.answers = s.ctl.answers
  ctlQueue : s.ctl.queue.length ≤ 4 → t.ctl.queue.length ≤ 4
  ports : ∀ q, (t.pair q).lasting = (s.pair q).lasting
  groupMark : s.tables.groupDamaged = true → t.tables.groupDamaged = true
  pairMark : ∀ p : PairIx, s.tables.pairDamaged[p.val] = true → t.tables.pairDamaged[p.val] = true
  sound : s.tables.Sound → t.tables = s.tables
  down : s.tables.groupDamaged = true → s.groupUp = false → t.groupUp = false

/-- Shared work that besides keeps the emptiness of R122 and leaves vacated pairs alone. -/
structure Settles (s t : State) : Prop extends BlockFrame s t where
  empty : s.EmptyWhenDown → t.EmptyWhenDown
  off : ∀ q, (s.pair q).Vacated → t.pair q = s.pair q

theorem BlockFrame.trans {s t u : State} (h : BlockFrame s t) (k : BlockFrame t u) : BlockFrame s u where
  now := k.now.trans h.now
  digit := k.digit.trans h.digit
  pending := k.pending.trans h.pending
  farm := by rw [k.farm, h.farm]
  boxes := k.boxes.trans h.boxes
  respSlot := k.respSlot.trans h.respSlot
  nextResp := k.nextResp.trans h.nextResp
  answers := k.answers.trans h.answers
  ctlQueue hq := k.ctlQueue (h.ctlQueue hq)
  ports q := (k.ports q).trans (h.ports q)
  groupMark hm := k.groupMark (h.groupMark hm)
  pairMark p hm := k.pairMark p (h.pairMark p hm)
  sound hs := (k.sound ((h.sound hs).symm ▸ hs)).trans (h.sound hs)
  down hm hd := k.down (h.groupMark hm) (h.down hm hd)

theorem Settles.trans {s t u : State} (h : Settles s t) (k : Settles t u) : Settles s u where
  toBlockFrame := h.toBlockFrame.trans k.toBlockFrame
  empty he := k.empty (h.empty he)
  off q hq := (k.off q (by rw [h.off q hq]; exact hq)).trans (h.off q hq)

/-- Emptiness depends on the pairs, the group state, the reroute list and the frame in progress alone. -/
theorem State.EmptyWhenDown.congr {s t : State} (h : s.EmptyWhenDown) (hp : t.pairs = s.pairs) (hu : t.groupUp = s.groupUp)
    (hr : t.dist.reroute = s.dist.reroute) (hf : t.dist.fip = s.dist.fip) : t.EmptyWhenDown := by
  have hpair : ∀ p, t.pair p = s.pair p := State.pair_congr hp
  exact
    { outOfService := fun p => by rw [hpair]; exact h.outOfService p
      stores := fun hd p => by rw [hpair]; exact h.stores (hu ▸ hd) p
      reroute := fun hd => hr.trans (h.reroute (hu ▸ hd))
      inProgress := fun hd => hf.trans (h.inProgress (hu ▸ hd)) }

/-- A change of none of the fields that `Settles` speaks of, the distributor apart. -/
theorem settles_of (s : State) (q : Vector (List QFrame) 4) (d : Distributor) (r : Reassembler) (c : Vector Word 43)
    (u : EventUnit) (rx : Option RxFrame) (oq : List OutFrame) (ns : Option NoticeSlot) (fo : List FarmSlot) (rs : List Restart)
    (hd : s.groupUp = false → s.dist.reroute = [] → s.dist.fip = none → d.reroute = [] ∧ d.fip = none) :
    Settles s { s with queues := q, dist := d, reas := r, counters := c, events := u
                       farm := { s.farm with rx := rx, outQueue := oq }
                       ctl := { s.ctl with noticeSlot := ns, farmOrder := fo, restarts := rs } } where
  now := rfl
  digit := rfl
  pending := rfl
  farm := rfl
  boxes := rfl
  respSlot := rfl
  nextResp := rfl
  answers := rfl
  ctlQueue hq := hq
  ports _ := rfl
  groupMark hm := hm
  pairMark _ hm := hm
  sound _ := rfl
  down _ hg := hg
  empty he :=
    { outOfService := he.outOfService
      stores := he.stores
      reroute := fun hg => (hd hg (he.reroute hg) (he.inProgress hg)).1
      inProgress := fun hg => (hd hg (he.reroute hg) (he.inProgress hg)).2 }
  off _ _ := rfl

theorem Settles.refl (s : State) : Settles s s := settles_of s _ _ _ _ _ _ _ _ _ _ fun _ h k => ⟨h, k⟩

theorem settles_bump (s : State) (c : GroupCtr) : Settles s (s.bump c) := settles_of s _ _ _ _ _ _ _ _ _ _ fun _ h k => ⟨h, k⟩

theorem settles_updReas (s : State) (f : Reassembler → Reassembler) : Settles s (s.updReas f) :=
  settles_of s _ _ _ _ _ _ _ _ _ _ fun _ h k => ⟨h, k⟩

theorem settles_setQueue (s : State) (c : ClassIx) (q : List QFrame) : Settles s (s.setQueue c q) :=
  settles_of s _ _ _ _ _ _ _ _ _ _ fun _ h k => ⟨h, k⟩

/-- The distributor changed, its reroute list and frame in progress only with the group UP. -/
theorem settles_updDist (s : State) (f : Distributor → Distributor)
    (hf : s.groupUp = false → s.dist.reroute = [] → s.dist.fip = none → (f s.dist).reroute = [] ∧ (f s.dist).fip = none) :
    Settles s (s.updDist f) :=
  settles_of s _ _ _ _ _ _ _ _ _ _ hf

theorem settles_updDist_up {s : State} (h : s.groupUp = true) (f : Distributor → Distributor) : Settles s (s.updDist f) :=
  settles_updDist s f fun hd => absurd h (by simp [hd])

/-! ### Reports -/

/-- A report on which damage marks stay and which changes nothing of sound table memory. -/
theorem settles_of_reported {s t : State} (h : OnlyReported s t)
    (groupMark : s.tables.groupDamaged = true → t.tables.groupDamaged = true)
    (pairMark : ∀ p : PairIx, s.tables.pairDamaged[p.val] = true → t.tables.pairDamaged[p.val] = true)
    (sound : s.tables.Sound → t.tables = s.tables) : Settles s t where
  now := h.now
  digit := h.digit
  pending := h.pending
  farm := by rw [h.farm]
  boxes := h.boxes
  respSlot := h.ctlResp
  nextResp := h.nextResp
  answers := h.answers
  ctlQueue hq := by rwa [h.ctlQueue]
  ports q := by rw [h.pair]
  groupMark := groupMark
  pairMark := pairMark
  sound := sound
  down _ hd := h.groupUp.trans hd
  empty he := he.congr h.pairs h.groupUp (by rw [h.dist]) (by rw [h.dist])
  off q _ := h.pair q

theorem settles_touch (r : TRef) (s : State) : Settles s (touch r s) :=
  settles_of_reported (onlyReported_touch r s) (metTables_touch r s).groupMark (metTables_touch r s).pairMark
    fun h => by rw [touch_sound h]

theorem settles_touchGroup (i : Fin 19) (s : State) : Settles s (touchGroup i s) := settles_touch _ s

theorem settles_touchAll (rs : List TRef) (s : State) : Settles s (touchAll rs s) := by
  induction rs generalizing s with
  | nil => exact .refl s
  | cons r rs ih => exact (settles_touch r s).trans (ih (touch r s))

theorem settles_epochTest (s : State) : Settles s (epochTest s) := by
  unfold epochTest
  split
  · exact settles_touch _ s
  · exact .refl s

theorem settles_raiseEvent (k : EventKind) (d : Detail) (s : State) : Settles s (raiseEvent k d s) :=
  settles_of_reported (onlyReported_raiseEvent k d s) (metTables_raiseEvent k d s).groupMark (metTables_raiseEvent k d s).pairMark
    fun h => raiseEvent_tables k d h

theorem settles_suspendShortcut (s : State) : Settles s (suspendShortcut s) :=
  (settles_touchGroup 0x03 s).trans (by unfold suspendShortcut; exact settles_updReas _ _)

/-! ### Responses lost and counters raised -/

/-- `t` is `s` but for counters and for which restarts still wait for a response. -/
def Tallied (s t : State) : Prop := ∃ c rs, t = { s with counters := c, ctl := { s.ctl with restarts := rs } }

theorem Tallied.refl (s : State) : Tallied s s := ⟨s.counters, s.ctl.restarts, rfl⟩

theorem Tallied.trans {s t u : State} (h : Tallied s t) (k : Tallied t u) : Tallied s u := by
  obtain ⟨a, b, rfl⟩ := h
  obtain ⟨c, d, rfl⟩ := k
  exact ⟨c, d, rfl⟩

theorem tallied_bump (s : State) (c : GroupCtr) : Tallied s (s.bump c) := ⟨_, s.ctl.restarts, rfl⟩

theorem tallied_bumpBy (s : State) (c : GroupCtr) (n : Nat) : Tallied s (s.bumpBy c n) := by
  induction n generalizing s with
  | zero => exact .refl s
  | succ n ih => exact (tallied_bump s c).trans (ih (s.bump c))

theorem tallied_fragmentGone (f : Frag) (s : State) : Tallied s (fragmentGone f s) := by
  unfold fragmentGone
  split
  · exact ⟨s.counters, _, rfl⟩
  · exact .refl s

theorem tallied_queueFrameGone (f : QFrame) (s : State) : Tallied s (queueFrameGone f s) := by
  unfold queueFrameGone
  split
  · exact ⟨s.counters, _, rfl⟩
  · exact .refl s

theorem tallied_discardFrag (s : State) (f : Frag) : Tallied s (discardFrag s f) :=
  (tallied_fragmentGone f s).trans (tallied_bump _ _)

theorem tallied_foldl {α : Type} {f : State → α → State} (hf : ∀ s a, Tallied s (f s a)) (l : List α) (s : State) :
    Tallied s (l.foldl f s) := by
  induction l generalizing s with
  | nil => exact .refl s
  | cons a l ih => exact (hf s a).trans (ih (f s a))

theorem Tallied.settles {s t : State} (h : Tallied s t) : Settles s t := by
  obtain ⟨c, rs, rfl⟩ := h
  exact settles_of s _ _ _ _ _ _ _ _ _ _ fun _ h k => ⟨h, k⟩

theorem settles_bumpBy (s : State) (c : GroupCtr) (n : Nat) : Settles s (s.bumpBy c n) := (tallied_bumpBy s c n).settles

/-! ### The reassembler's work -/

/-- What head processing, gaps and the tests that follow them leave alone. -/
structure ReasWork (s t : State) : Prop where
  now : t.now = s.now
  digit : t.digit = s.digit
  pending : t.pending = s.pending
  pairs : t.pairs = s.pairs
  dist : t.dist = s.dist
  groupUp : t.groupUp = s.groupUp
  farm : t.farm = { s.farm with outQueue := t.farm.outQueue }
  boxes : t.ctl.boxes = s.ctl.boxes
  respSlot : t.ctl.respSlot = s.ctl.respSlot
  nextResp : t.ctl.nextResp = s.ctl.nextResp
  answers : t.ctl.answers = s.ctl.answers
  ctlQueue : s.ctl.queue.length ≤ 4 → t.ctl.queue.length ≤ 4
  suspension : t.reas.suspension = s.reas.suspension
  rerouted : t.counter .rerouted = s.counter .rerouted
  met : MetTables s t
  sound : s.tables.Sound → t.tables = s.tables ∧ t.events = s.events

theorem ReasWork.trans {s t u : State} (h : ReasWork s t) (k : ReasWork t u) : ReasWork s u where
  now := k.now.trans h.now
  digit := k.digit.trans h.digit
  pending := k.pending.trans h.pending
  pairs := k.pairs.trans h.pairs
  dist := k.dist.trans h.dist
  groupUp := k.groupUp.trans h.groupUp
  farm := by rw [k.farm, h.farm]
  boxes := k.boxes.trans h.boxes
  respSlot := k.respSlot.trans h.respSlot
  nextResp := k.nextResp.trans h.nextResp
  answers := k.answers.trans h.answers
  ctlQueue hq := k.ctlQueue (h.ctlQueue hq)
  suspension := k.suspension.trans h.suspension
  rerouted := k.rerouted.trans h.rerouted
  met := h.met.trans k.met
  sound hs := by
    obtain ⟨ht, he⟩ := h.sound hs
    obtain ⟨kt, ke⟩ := k.sound (ht ▸ hs)
    exact ⟨kt.trans ht, ke.trans he⟩

theorem ReasWork.settles {s t : State} (h : ReasWork s t) : Settles s t where
  now := h.now
  digit := h.digit
  pending := h.pending
  farm := by rw [h.farm]
  boxes := h.boxes
  respSlot := h.respSlot
  nextResp := h.nextResp
  answers := h.answers
  ctlQueue := h.ctlQueue
  ports q := by rw [State.pair_congr h.pairs]
  groupMark := h.met.groupMark
  pairMark := h.met.pairMark
  sound hs := (h.sound hs).1
  down _ hd := h.groupUp.trans hd
  empty he := he.congr h.pairs h.groupUp (by rw [h.dist]) (by rw [h.dist])
  off q _ := State.pair_congr h.pairs q

/-- A change of the reassembler, its suspension apart, of the farm output queue, of the control frame queue, and of a counter. -/
theorem reasWork_of (s : State) (r : Reassembler) (c : Vector Word 43) (oq : List OutFrame) (cq : List CtlFrame)
    (hr : r.suspension = s.reas.suspension) (hc : ({ s with counters := c } : State).counter .rerouted = s.counter .rerouted)
    (hq : s.ctl.queue.length ≤ 4 → cq.length ≤ 4) :
    ReasWork s { s with reas := r, counters := c, farm := { s.farm with outQueue := oq }, ctl := { s.ctl with queue := cq } } where
  now := rfl
  digit := rfl
  pending := rfl
  pairs := rfl
  dist := rfl
  groupUp := rfl
  farm := rfl
  boxes := rfl
  respSlot := rfl
  nextResp := rfl
  answers := rfl
  ctlQueue := hq
  suspension := hr
  rerouted := hc
  met := .of_same rfl rfl
  sound _ := ⟨rfl, rfl⟩

theorem ReasWork.refl (s : State) : ReasWork s s := reasWork_of s _ _ _ _ rfl rfl id

theorem reasWork_updReas (s : State) (f : Reassembler → Reassembler) (h : (f s.reas).suspension = s.reas.suspension) :
    ReasWork s (s.updReas f) := reasWork_of s _ _ _ _ h rfl id

theorem reasWork_bump (s : State) {c : GroupCtr} (h : c ≠ .rerouted) : ReasWork s (s.bump c) :=
  reasWork_of s _ _ _ _ rfl (State.bump_counter_ne s c _ h.symm) id

theorem reasWork_touch (r : TRef) (s : State) : ReasWork s (touch r s) := by
  have h := onlyReported_touch r s
  exact
    { now := h.now, digit := h.digit, pending := h.pending, pairs := h.pairs, dist := h.dist, groupUp := h.groupUp
      farm := by rw [h.farm], boxes := h.boxes, respSlot := h.ctlResp, nextResp := h.nextResp, answers := h.answers
      ctlQueue := fun hq => by rwa [h.ctlQueue], suspension := by rw [h.reas], rerouted := h.counters _ (by decide)
      met := metTables_touch r s, sound := fun hs => by rw [touch_sound hs]; exact ⟨rfl, rfl⟩ }

theorem reasWork_touchGroup (i : Fin 19) (s : State) : ReasWork s (touchGroup i s) := reasWork_touch _ s

/-- A control frame copied to the control engine's queue where it has room (R143). -/
theorem reasWork_controlArrive (o : Origin) (b : List Byte) (s : State) : ReasWork s (controlArrive o b s) := by
  unfold controlArrive
  split
  · next h =>
    refine reasWork_of s _ _ _ _ rfl rfl fun _ => ?_
    simp only [Config.controlQueuePlaces] at h
    simpa using h
  · exact reasWork_bump s (by decide)

theorem reasWork_deliver (b : List Byte) (n : Nat) (s : State) : ReasWork s (deliver b n s) := by
  unfold deliver
  dsimp only
  have hread : ReasWork s (if longEnough b && frameType b == controlType then touchGroup 0x0F (touchGroup 0x0E s) else s) := by
    split
    · exact (reasWork_touchGroup _ _).trans (reasWork_touchGroup _ _)
    · exact .refl s
  refine hread.trans ?_
  generalize (if longEnough b && frameType b == controlType then touchGroup 0x0F (touchGroup 0x0E s) else s) = x
  split
  · exact (reasWork_controlArrive _ _ _).trans (reasWork_bump (c := .toControl) _ (by decide))
  · exact (reasWork_of _ _ _ _ _ rfl rfl id).trans (reasWork_bump (c := .toFarm) _ (by decide))

theorem reasWork_takeComplete (h : Gsn) (es : List Entry) (s : State) : ReasWork s (takeComplete h es s) := by
  unfold takeComplete
  dsimp only
  refine (reasWork_updReas s (fun r => r.take h es) rfl).trans ?_
  split
  · exact reasWork_bump _ (by decide)
  · split
    · exact reasWork_bump _ (by decide)
    · exact reasWork_deliver _ _ _

theorem reasWork_headStep {s t : State} (h : headStep s = some t) : ReasWork s t := by
  unfold headStep at h
  split at h
  · split at h
    · cases h
    · split at h
      · split at h <;> obtain rfl := Option.some.inj h <;> exact reasWork_updReas s _ rfl
      · split at h
        · obtain rfl := Option.some.inj h
          exact (reasWork_updReas s _ rfl).trans (reasWork_bump _ (by decide))
        · split at h
          · obtain rfl := Option.some.inj h
            exact (reasWork_updReas s _ rfl).trans (reasWork_bump _ (by decide))
          · obtain rfl := Option.some.inj h
            exact reasWork_takeComplete _ _ s
          · split at h
            · obtain rfl := Option.some.inj h
              exact (reasWork_updReas s _ rfl).trans (reasWork_bump _ (by decide))
            · cases h
  · cases h

theorem reasWork_headLoop (n : Nat) (s : State) : ReasWork s (headLoop n s) := by
  induction n generalizing s with
  | zero => exact .refl s
  | succ n ih =>
    unfold headLoop
    split
    · exact .refl s
    · next t h => exact (reasWork_headStep h).trans (ih t)

theorem reasWork_processHead (s : State) : ReasWork s (processHead s) := reasWork_headLoop _ s

theorem GapCause.counter_ne_rerouted (cause : GapCause) : cause.counter ≠ .rerouted := by cases cause <;> decide

theorem reasWork_declareGap (cause : GapCause) (s : State) : ReasWork s (declareGap cause s) := by
  unfold declareGap
  split
  · exact .refl s
  · next n _ =>
    have moved := reasWork_updReas s (fun r => { r.remove (s.reas.inProgress.map Entry.gsn) with head := some (n + 1) }) rfl
    refine moved.trans ?_
    dsimp only
    split
    · exact (reasWork_bump _ cause.counter_ne_rerouted).trans (reasWork_processHead _)
    · exact (reasWork_bump (c := .incomplete) _ (by decide)).trans
        ((reasWork_bump _ cause.counter_ne_rerouted).trans (reasWork_processHead _))

theorem reasWork_setHold (s : State) : ReasWork s (setHold s) := by
  unfold setHold
  split
  · split
    · exact reasWork_updReas s _ rfl
    · exact (reasWork_touchGroup _ s).trans (reasWork_updReas _ _ rfl)
  · exact .refl s

theorem reasWork_testsN (n : Nat) (s : State) : ReasWork s (testsN n s) := by
  induction n generalizing s with
  | zero => exact .refl s
  | succ n ih =>
    unfold testsN
    split
    · exact (reasWork_declareGap _ s).trans (ih _)
    · dsimp only
      split
      · exact (reasWork_setHold s).trans ((reasWork_declareGap _ _).trans (ih _))
      · exact reasWork_setHold s

theorem reasWork_headProcess (s : State) : ReasWork s (headProcess s) := by
  unfold headProcess
  dsimp only
  split
  · exact (reasWork_processHead s).trans (reasWork_testsN _ _)
  · exact reasWork_processHead s

theorem reasWork_testShortcut (s : State) : ReasWork s (testShortcut s) := by
  unfold testShortcut
  split
  · exact reasWork_testsN _ s
  · exact .refl s

theorem reasWork_advanceStep (s : State) : ReasWork s (advanceStep s) := by
  unfold advanceStep
  split
  · exact .refl s
  · split
    · exact reasWork_declareGap _ s
    · split
      · exact (reasWork_updReas s _ rfl).trans ((reasWork_bump _ (by decide)).trans (reasWork_processHead _))
      · exact reasWork_processHead s

theorem reasWork_advanceN (n : Nat) (g : Gsn) (s : State) : ReasWork s (advanceN n g s) := by
  induction n generalizing s with
  | zero => exact .refl s
  | succ n ih =>
    unfold advanceN
    split
    · exact .refl s
    · split
      · exact (reasWork_advanceStep s).trans (ih _)
      · exact .refl s

/-! ### Arrivals and the reassembler's deadlines -/

theorem settles_storeArrival (a : Entry) (s : State) : Settles s (storeArrival a s).1 := by
  unfold storeArrival
  dsimp only
  split
  · exact (settles_bump s _).trans (settles_raiseEvent _ _ _)
  · have hread : Settles s (if a.cls = 0 then touchGroup 0x0D s else s) := by
      split
      · exact settles_touchGroup _ s
      · exact .refl s
    generalize (if a.cls = 0 then touchGroup 0x0D s else s) = x at hread ⊢
    split
    · exact hread.trans (settles_bump _ _)
    · exact hread.trans ((settles_updReas _ _).trans (settles_bump _ _))

theorem settles_arriveResync (a : Entry) (s : State) : Settles s (arriveResync a s) := by
  unfold arriveResync
  split
  · exact settles_bump s _
  · dsimp only
    split
    · exact (settles_storeArrival a s).trans ((settles_touchGroup _ _).trans (settles_updReas _ _))
    · exact settles_storeArrival a s

theorem settles_arriveWindow (a : Entry) (s : State) : Settles s (arriveWindow a s) := by
  unfold arriveWindow
  split
  · exact .refl s
  · dsimp only
    split
    · exact settles_bump s _
    · split
      · exact (settles_bump s _).trans ((reasWork_advanceN _ _ _).settles.trans
          ((settles_storeArrival a _).trans (reasWork_headProcess _).settles))
      · split
        · exact settles_bump s _
        · split
          · exact (settles_storeArrival a s).trans (reasWork_headProcess _).settles
          · exact settles_storeArrival a s

theorem settles_arrive (a : Entry) (s : State) : Settles s (arrive a s) := by
  unfold arrive
  dsimp only
  have hs : Settles s (if a.rrt then suspendShortcut s else s) := by
    split
    · exact settles_suspendShortcut s
    · exact .refl s
  refine hs.trans ?_
  generalize (if a.rrt then suspendShortcut s else s) = x
  split
  · exact settles_bump _ _
  · exact settles_arriveResync a _
  · exact settles_arriveWindow a _

theorem settles_resyncNow (g : Gsn) (s : State) : Settles s (resyncNow g s) :=
  (settles_touchGroup _ s).trans ((settles_updReas _ _).trans ((settles_bumpBy _ _ _).trans (reasWork_headProcess _).settles))

end Sys2Proof.Machine
end

section
/-! PROOFS of the family 01, third layer: departures of pairs, the group's fall and rise, and the distributor's attempts on any
table memory (R11..R13, R43, R80..R91, R119..R123). -/

namespace Sys2Proof.Machine

/-! ### Stores given up -/

/-- Fragments given back one after another: the reroute list takes each at its place, and each is counted (R88, R89). -/
theorem foldl_joinReroute (fs : List Frag) (s : State) :
    fs.foldl joinReroute s
      = (s.updDist fun d => { d with reroute := fs.foldl (fun l f => insertByGsn s.dist.nextGsn f l) d.reroute }).bumpBy
          .rerouted fs.length := by
  induction fs generalizing s with
  | nil => rfl
  | cons f fs ih => rw [List.foldl_cons, ih]; rfl

/-- What a pair's giving up of its stores makes of the state, counters and the restart list apart. -/
theorem giveUp_keep (p : PairIx) (s : State) :
    giveUp p true s = ((s.updPair p PairPort.emptied).updDist fun d =>
      { d with reroute := (s.pair p).fragments.foldl (fun l f => insertByGsn s.dist.nextGsn f l) d.reroute }).bumpBy
        .rerouted (s.pair p).fragments.length := by
  unfold giveUp
  rw [if_pos rfl, foldl_joinReroute]
  rfl

theorem giveUp_discard (p : PairIx) (s : State) : Tallied (s.updPair p PairPort.emptied) (giveUp p false s) := by
  unfold giveUp
  exact tallied_foldl tallied_discardFrag _ _

/-- A reroute list changed and counters raised. -/
theorem giveUp_shape (p : PairIx) (keep : Bool) (s : State) :
    ∃ l, ((s.pair p).HoldsNone ∨ keep = false → l = s.dist.reroute)
      ∧ Tallied ((s.updPair p PairPort.emptied).updDist fun d => { d with reroute := l }) (giveUp p keep s) := by
  cases keep with
  | false => exact ⟨s.dist.reroute, fun _ => rfl, giveUp_discard p s⟩
  | true =>
    refine ⟨_, fun h => ?_, (giveUp_keep p s).symm ▸ tallied_bumpBy _ _ _⟩
    obtain hn | hk := h
    · simp [PairPort.fragments_nil hn]
    · exact absurd hk (by simp)

/-! ### Departures -/

/-- A pair port after a departure to `target` (R11, R12, R13, R43). -/
def PairPort.departed (pp : PairPort) (target : PairState) (cause : Cause) (cmd : XcvrCmd) : PairPort :=
  ({ pp.resetLink with state := target, cause := cause, bar := false, drain := none }).command cmd

@[simp] theorem PairPort.emptied_departed (pp : PairPort) (target : PairState) (cause : Cause) (cmd : XcvrCmd) :
    pp.emptied.departed target cause cmd = pp.departed target cause cmd := rfl

theorem PairPort.holdsNone_departed (pp : PairPort) (target : PairState) (cause : Cause) (cmd : XcvrCmd) :
    (pp.departed target cause cmd).HoldsNone := ⟨rfl, rfl⟩

/-- What a departure leaves in its port (R43). -/
theorem PairPort.leftService_departed (pp : PairPort) (target : PairState) (cause : Cause) (cmd : XcvrCmd) :
    LeftService pp (pp.departed target cause cmd) target cause cmd where
  state := rfl
  cause := rfl
  txq := rfl
  store := rfl
  replay := rfl
  mark := rfl
  nextTxn := rfl
  rxn := rfl
  rx := rfl
  ldg := rfl
  echo := rfl
  owedAck := rfl
  bar := rfl
  drain := rfl
  sent := rfl
  rates := ⟨rfl, rfl⟩
  latency := ⟨rfl, rfl⟩
  guard := rfl
  counters := rfl

/-- What reports and a suspension of the shortcut leave alone. -/
structure Reports (s t : State) : Prop extends Settles s t where
  pairs : t.pairs = s.pairs
  dist : t.dist = s.dist
  groupUp : t.groupUp = s.groupUp
  rerouted : t.counter .rerouted = s.counter .rerouted

theorem Reports.pair {s t : State} (h : Reports s t) (q : PairIx) : t.pair q = s.pair q := State.pair_congr h.pairs q

theorem Reports.refl (s : State) : Reports s s := { Settles.refl s with pairs := rfl, dist := rfl, groupUp := rfl, rerouted := rfl }

theorem Reports.trans {s t u : State} (h : Reports s t) (k : Reports t u) : Reports s u where
  toSettles := h.toSettles.trans k.toSettles
  pairs := k.pairs.trans h.pairs
  dist := k.dist.trans h.dist
  groupUp := k.groupUp.trans h.groupUp
  rerouted := k.rerouted.trans h.rerouted

theorem reports_touch (r : TRef) (s : State) : Reports s (touch r s) :=
  have h := onlyReported_touch r s
  { settles_touch r s with pairs := h.pairs, dist := h.dist, groupUp := h.groupUp, rerouted := h.counters _ (by decide) }

theorem reports_raiseEvent (k : EventKind) (d : Detail) (s : State) : Reports s (raiseEvent k d s) :=
  have h := onlyReported_raiseEvent k d s
  { settles_raiseEvent k d s with pairs := h.pairs, dist := h.dist, groupUp := h.groupUp, rerouted := h.counters _ (by decide) }

theorem reports_suspendShortcut (s : State) : Reports s (suspendShortcut s) :=
  have h := reports_touch (.group .active 0x03) s
  { settles_suspendShortcut s with pairs := h.pairs, dist := h.dist, groupUp := h.groupUp, rerouted := h.rerouted }

/-- The port of a departure changed, before the departure is reported. -/
def departPort (p : PairIx) (target : PairState) (cause : Cause) (cmd : XcvrCmd) (keep : Bool) (s : State) : State :=
  (giveUp p keep s).updPair p fun pp => pp.departed target cause cmd

/-- After its port has changed, a departure only reports. -/
theorem depart_reports (p : PairIx) (left target : PairState) (cause : Cause) (cmd : XcvrCmd) (keep : Bool) (s : State) :
    Reports (departPort p target cause cmd keep s) (depart p left target cause cmd keep s) := by
  unfold depart
  dsimp only
  split
  · exact (reports_raiseEvent _ _ _).trans (reports_suspendShortcut _)
  · exact reports_raiseEvent _ _ _

theorem departPort_pair (p q : PairIx) (target : PairState) (cause : Cause) (cmd : XcvrCmd) (keep : Bool) (s : State) :
    (departPort p target cause cmd keep s).pair q = if q = p then (s.pair p).departed target cause cmd else s.pair q := by
  obtain ⟨l, -, c, rs, h⟩ := giveUp_shape p keep s
  have hpair : ∀ r, (giveUp p keep s).pair r = (s.updPair p PairPort.emptied).pair r := fun r => by rw [h]; rfl
  unfold departPort
  rw [State.updPair_pair, hpair, hpair, State.updPair_pair_same]
  split
  · rfl
  · next hne => exact State.updPair_pair_ne s p q _ hne

/-- The pair ports after a departure. -/
theorem depart_pair (p q : PairIx) (left target : PairState) (cause : Cause) (cmd : XcvrCmd) (keep : Bool) (s : State) :
    (depart p left target cause cmd keep s).pair q = if q = p then (s.pair p).departed target cause cmd else s.pair q :=
  ((depart_reports p left target cause cmd keep s).pair q).trans (departPort_pair p q target cause cmd keep s)

/-- A departure changes the distributor's reroute list alone, and that only for the fragments it keeps. -/
theorem depart_dist (p : PairIx) (left target : PairState) (cause : Cause) (cmd : XcvrCmd) (keep : Bool) (s : State) :
    ∃ l, ((s.pair p).HoldsNone ∨ keep = false → l = s.dist.reroute)
      ∧ (depart p left target cause cmd keep s).dist = { s.dist with reroute := l }
      ∧ (depart p left target cause cmd keep s).groupUp = s.groupUp := by
  obtain ⟨l, hl, c, rs, h⟩ := giveUp_shape p keep s
  have hr := depart_reports p left target cause cmd keep s
  refine ⟨l, hl, hr.dist.trans ?_, hr.groupUp.trans ?_⟩ <;> unfold departPort <;> rw [h] <;> rfl

theorem bumpBy_dist (s : State) (c : GroupCtr) (n : Nat) : (s.bumpBy c n).dist = s.dist := by
  obtain ⟨_, _, h⟩ := tallied_bumpBy s c n
  rw [h]

/-- A counter raised depends on the counters alone. -/
theorem bumpBy_counter_congr {s t : State} (h : t.counters = s.counters) (c : GroupCtr) (n : Nat) :
    (t.bumpBy c n).counters = (s.bumpBy c n).counters := by
  induction n generalizing s t with
  | zero => exact h
  | succ n ih => exact ih (by unfold State.bump; simp only [h])

/-- The fragments of a departing pair kept for the reroute list (R89). -/
theorem depart_kept (p : PairIx) (left target : PairState) (cause : Cause) (cmd : XcvrCmd) (s : State) :
    (depart p left target cause cmd true s).dist
        = { s.dist with reroute := (s.pair p).fragments.foldl (fun l f => insertByGsn s.dist.nextGsn f l) s.dist.reroute }
      ∧ (depart p left target cause cmd true s).counter .rerouted
        = (s.bumpBy .rerouted (s.pair p).fragments.length).counter .rerouted := by
  have hr := depart_reports p left target cause cmd true s
  have hd : (departPort p target cause cmd true s).dist = (giveUp p true s).dist := rfl
  have hc : (departPort p target cause cmd true s).counter .rerouted = (giveUp p true s).counter .rerouted := rfl
  constructor
  · rw [hr.dist, hd, giveUp_keep, bumpBy_dist]
    rfl
  · rw [hr.rerouted, hc, giveUp_keep]
    refine State.counter_congr (bumpBy_counter_congr ?_ _ _) _
    rfl

/-- A pair port changed in fields that `lasting` does not keep. -/
theorem blockFrame_updPair (s : State) (p : PairIx) {f : PairPort → PairPort} (hf : (f (s.pair p)).lasting = (s.pair p).lasting) :
    BlockFrame s (s.updPair p f) where
  now := rfl
  digit := rfl
  pending := rfl
  farm := rfl
  boxes := rfl
  respSlot := rfl
  nextResp := rfl
  answers := rfl
  ctlQueue hq := hq
  ports q := by
    rw [State.updPair_pair]
    split
    · next h => rw [h, hf]
    · rfl
  groupMark hm := hm
  pairMark _ hm := hm
  sound _ := rfl
  down _ hd := hd

/-- A reroute list changed. -/
theorem blockFrame_updDist (s : State) (f : Distributor → Distributor) : BlockFrame s (s.updDist f) where
  now := rfl
  digit := rfl
  pending := rfl
  farm := rfl
  boxes := rfl
  respSlot := rfl
  nextResp := rfl
  answers := rfl
  ctlQueue hq := hq
  ports _ := rfl
  groupMark hm := hm
  pairMark _ hm := hm
  sound _ := rfl
  down _ hd := hd

theorem blockFrame_depart (p : PairIx) (left target : PairState) (cause : Cause) (cmd : XcvrCmd) (keep : Bool) (s : State) :
    BlockFrame s (depart p left target cause cmd keep s) := by
  obtain ⟨l, -, h⟩ := giveUp_shape p keep s
  have given := ((blockFrame_updPair s p (f := PairPort.emptied) rfl).trans (blockFrame_updDist _ _)).trans h.settles.toBlockFrame
  have changed := blockFrame_updPair (giveUp p keep s) p (f := fun pp => pp.departed target cause cmd) rfl
  exact (given.trans changed).trans (depart_reports p left target cause cmd keep s).toBlockFrame

/-- The emptiness of R122 but for a pair `p` that is on its way out of service. -/
structure State.EmptyBut (p : PairIx) (s : State) : Prop where
  outOfService : ∀ q, q ≠ p → (s.pair q).state.running = false → (s.pair q).HoldsNone
  stores : s.groupUp = false → ∀ q, (s.pair q).HoldsNone
  reroute : s.groupUp = false → s.dist.reroute = []
  inProgress : s.groupUp = false → s.dist.fip = none

theorem State.EmptyWhenDown.but {s : State} (h : s.EmptyWhenDown) (p : PairIx) : s.EmptyBut p :=
  ⟨fun q _ => h.outOfService q, h.stores, h.reroute, h.inProgress⟩

theorem State.EmptyBut.congr {p : PairIx} {s t : State} (h : s.EmptyBut p) (hp : t.pairs = s.pairs) (hu : t.groupUp = s.groupUp)
    (hd : t.dist = s.dist) : t.EmptyBut p where
  outOfService q hq := by rw [State.pair_congr hp]; exact h.outOfService q hq
  stores hg q := by rw [State.pair_congr hp]; exact h.stores (hu ▸ hg) q
  reroute hg := by rw [hd]; exact h.reroute (hu ▸ hg)
  inProgress hg := by rw [hd]; exact h.inProgress (hu ▸ hg)

/-- Setting the state of a pair that is about to depart. -/
theorem emptyBut_setPairState {s : State} (h : s.EmptyWhenDown) (p : PairIx) (st : PairState) :
    (setPairState p st s).EmptyBut p where
  outOfService q hq := by
    have : (setPairState p st s).pair q = s.pair q := State.updPair_pair_ne s p q _ hq
    rw [this]; exact h.outOfService q
  stores hg q := by
    have hall := h.stores hg q
    unfold setPairState
    rw [State.updPair_pair]
    split
    · next e => subst e; exact hall
    · exact hall
  reroute := h.reroute
  inProgress := h.inProgress

/-- A departure leaves its pair empty, and the reroute list empty with the group DOWN. -/
theorem empty_depart {p : PairIx} {s : State} (h : s.EmptyBut p) (left target : PairState) (cause : Cause) (cmd : XcvrCmd)
    (keep : Bool) : (depart p left target cause cmd keep s).EmptyWhenDown := by
  obtain ⟨l, hl, hd, hu⟩ := depart_dist p left target cause cmd keep s
  have held : ∀ q, (q ≠ p → (s.pair q).HoldsNone) → ((depart p left target cause cmd keep s).pair q).HoldsNone := by
    intro q hq
    rw [depart_pair]
    split
    · exact PairPort.holdsNone_departed _ _ _ _
    · next e => exact hq e
  refine ⟨fun q hq => held q fun e => h.outOfService q e ?_, fun hg q => held q fun _ => h.stores (hu ▸ hg) q, fun hg => ?_,
    fun hg => ?_⟩
  · rwa [depart_pair, if_neg e] at hq
  · rw [hd, hl (.inl (h.stores (hu ▸ hg) p))]; exact h.reroute (hu ▸ hg)
  · rw [hd]; exact h.inProgress (hu ▸ hg)

/-! ### To DOWN, to OFF, drained -/

/-- A pair's state set, the minimum count read. -/
def leaving (p : PairIx) (st : PairState) (s : State) : State := touchGroup 0x02 (setPairState p st s)

theorem leaving_pair (p q : PairIx) (st : PairState) (s : State) :
    (leaving p st s).pair q = if q = p then { s.pair p with state := st } else s.pair q := by
  have h := (onlyReported_touch (.group .active 0x02) (setPairState p st s)).pair q
  exact h.trans (State.updPair_pair ..)

theorem emptyBut_leaving {s : State} (h : s.EmptyWhenDown) (p : PairIx) (st : PairState) : (leaving p st s).EmptyBut p :=
  have hr := onlyReported_touch (.group .active 0x02) (setPairState p st s)
  (emptyBut_setPairState h p st).congr hr.pairs hr.groupUp hr.dist

theorem blockFrame_leaving (p : PairIx) (st : PairState) (s : State) : BlockFrame s (leaving p st s) :=
  (blockFrame_updPair s p rfl).trans (settles_touchGroup 0x02 _).toBlockFrame

/-- A move to DOWN, or on to OFF, is one departure (R11). -/
theorem toDown_eq (p : PairIx) (cause : Cause) (s : State) :
    toDown p cause s = depart p (s.pair p).state (if (leaving p .down s).adminOn p then .down else .off) cause
      (if (leaving p .down s).adminOn p then .retrain else .quiet)
      (decide (cause ≠ .groupRestart) && (leaving p .down s).wouldBeUp) (leaving p .down s) := by
  unfold toDown leaving
  dsimp only
  split <;> rfl

/-- A move to OFF is one departure (R12, R13). -/
theorem toOff_eq (p : PairIx) (cause : Cause) (s : State) :
    toOff p cause s = depart p (s.pair p).state .off cause .quiet (leaving p .off s).wouldBeUp (leaving p .off s) := rfl

theorem blockFrame_toDown (p : PairIx) (cause : Cause) (s : State) : BlockFrame s (toDown p cause s) := by
  rw [toDown_eq]
  exact (blockFrame_leaving p _ s).trans (blockFrame_depart ..)

theorem blockFrame_toOff (p : PairIx) (cause : Cause) (s : State) : BlockFrame s (toOff p cause s) :=
  (blockFrame_leaving p _ s).trans (blockFrame_depart ..)

theorem empty_toDown {s : State} (h : s.EmptyWhenDown) (p : PairIx) (cause : Cause) : (toDown p cause s).EmptyWhenDown := by
  rw [toDown_eq]
  exact empty_depart (emptyBut_leaving h p _) ..

theorem empty_toOff {s : State} (h : s.EmptyWhenDown) (p : PairIx) (cause : Cause) : (toOff p cause s).EmptyWhenDown :=
  empty_depart (emptyBut_leaving h p _) ..

theorem toDown_pair (p q : PairIx) (cause : Cause) (s : State) :
    (toDown p cause s).pair q
      = if q = p then (s.pair p).departed (if (leaving p .down s).adminOn p then .down else .off) cause
          (if (leaving p .down s).adminOn p then .retrain else .quiet) else s.pair q := by
  rw [toDown_eq, depart_pair, leaving_pair, leaving_pair, if_pos rfl]
  split <;> rfl

theorem toOff_pair (p q : PairIx) (cause : Cause) (s : State) :
    (toOff p cause s).pair q = if q = p then (s.pair p).departed .off cause .quiet else s.pair q := by
  rw [toOff_eq, depart_pair, leaving_pair, leaving_pair, if_pos rfl]
  split <;> rfl

/-- A drain that has emptied (R13). -/
theorem drainCheck_pair (p q : PairIx) (s : State) :
    (drainCheck p s).pair q
      = if q = p ∧ (s.pair p).state = .draining ∧ (s.pair p).isEmpty = true then (s.pair p).departed .off .drained .quiet
        else s.pair q := by
  unfold drainCheck drained
  split
  · next h => rw [depart_pair]; simp only [h, and_true]
  · next h => rw [if_neg fun e => h e.2]

theorem settles_drainCheck (p : PairIx) (s : State) : Settles s (drainCheck p s) := by
  unfold drainCheck
  split
  · next h =>
    exact
      { blockFrame_depart p .draining .off .drained .quiet true s with
        empty := fun he => empty_depart (he.but p) ..
        off := fun q hq => by
          unfold drained
          rw [depart_pair, if_neg]
          rintro rfl
          exact absurd (h.1.symm.trans hq.1) (by decide) }
  · exact .refl s

/-! ### The group's fall -/

/-- All stores of the pairs listed discarded. -/
theorem foldl_giveUp_pair (ps : List PairIx) (s : State) (q : PairIx) :
    (ps.foldl (fun s p => giveUp p false s) s).pair q = if q ∈ ps then (s.pair q).emptied else s.pair q := by
  induction ps generalizing s with
  | nil => simp
  | cons p ps ih =>
    have hp : ∀ r, (giveUp p false s).pair r = if r = p then (s.pair r).emptied else s.pair r := by
      intro r
      obtain ⟨c, rs, h⟩ := giveUp_discard p s
      rw [h]
      refine (State.updPair_pair s p r PairPort.emptied).trans ?_
      split
      · next e => rw [e]
      · rfl
    rw [List.foldl_cons, ih, hp]
    by_cases e : q = p
    · subst e; simp [PairPort.emptied]
    · simp [e]

/-- The distributor cleared: the numbering stays (R91). -/
def Distributor.cleared (d : Distributor) : Distributor := { d with reroute := [], fip := none, wait := .none }

/-- A part of the group's fall: the frame of the blocks' work, and reads that find what they find. -/
structure Tidies (s t : State) : Prop extends BlockFrame s t, MetTables s t where
  groupUp : t.groupUp = s.groupUp

theorem Tidies.trans {s t u : State} (h : Tidies s t) (k : Tidies t u) : Tidies s u :=
  { h.toBlockFrame.trans k.toBlockFrame, h.toMetTables.trans k.toMetTables with groupUp := k.groupUp.trans h.groupUp }

theorem Tidies.refl (s : State) : Tidies s s := { Settles.refl s, MetTables.refl s with groupUp := rfl }

theorem Tallied.tidies {s t : State} (h : Tallied s t) : Tidies s t :=
  { h.settles, MetTables.of_same (by obtain ⟨_, _, rfl⟩ := h; rfl) (by obtain ⟨_, _, rfl⟩ := h; rfl) with
    groupUp := by obtain ⟨_, _, rfl⟩ := h; rfl }

/-- Losing responses and raising counters leaves ports, distributor and reassembler alone. -/
theorem Tallied.same {s t : State} (h : Tallied s t) : t.pairs = s.pairs ∧ t.dist = s.dist ∧ t.reas = s.reas := by
  obtain ⟨_, _, rfl⟩ := h; exact ⟨rfl, rfl, rfl⟩

theorem tidies_giveUp (p : PairIx) (s : State) : Tidies s (giveUp p false s) :=
  have emptied : Tidies s (s.updPair p PairPort.emptied) :=
    { blockFrame_updPair s p rfl, MetTables.of_same rfl rfl with groupUp := rfl }
  emptied.trans (giveUp_discard p s).tidies

/-- Discarding the stores of the pairs listed leaves distributor and reassembler alone. -/
theorem foldl_giveUp_frame (ps : List PairIx) (s : State) :
    Tidies s (ps.foldl (fun s p => giveUp p false s) s)
      ∧ (ps.foldl (fun s p => giveUp p false s) s).dist = s.dist ∧ (ps.foldl (fun s p => giveUp p false s) s).reas = s.reas := by
  induction ps generalizing s with
  | nil => exact ⟨.refl s, rfl, rfl⟩
  | cons p ps ih =>
    obtain ⟨-, hd, hr⟩ := (giveUp_discard p s).same
    obtain ⟨kt, kd, kr⟩ := ih (giveUp p false s)
    exact ⟨(tidies_giveUp p s).trans kt, kd.trans hd, kr.trans hr⟩

/-- The distributor's part of the fall: what it discards is lost, and a pending commit's test may report (R91, R132). -/
theorem clearDistributor_spec (s : State) :
    Tidies s (clearDistributor s) ∧ (clearDistributor s).pairs = s.pairs ∧ (clearDistributor s).dist = s.dist.cleared
      ∧ (clearDistributor s).reas = s.reas := by
  have discards : ∀ x : State, Tallied x (match s.dist.fip.bind Fip.pendingFrag with
      | some f => discardFrag (s.dist.reroute.foldl discardFrag x) f
      | none => s.dist.reroute.foldl discardFrag x) := fun x => by
    split
    · exact (tallied_foldl tallied_discardFrag _ _).trans (tallied_discardFrag _ _)
    · exact tallied_foldl tallied_discardFrag _ _
  have tests : ∀ x : State, Tidies x (epochTest x) := fun x => by
    unfold epochTest
    split
    · exact { settles_touch .gate x, metTables_touch .gate x with groupUp := (reports_touch .gate x).groupUp }
    · exact .refl x
  have clears : Tidies s (s.updDist Distributor.cleared) :=
    { blockFrame_updDist s _, MetTables.of_same rfl rfl with groupUp := rfl }
  have eq : clearDistributor s = (match s.dist.fip.bind Fip.pendingFrag with
      | some f => discardFrag (s.dist.reroute.foldl discardFrag
          (if s.dist.fip.isSome then epochTest (s.updDist Distributor.cleared) else s.updDist Distributor.cleared)) f
      | none => s.dist.reroute.foldl discardFrag
          (if s.dist.fip.isSome then epochTest (s.updDist Distributor.cleared) else s.updDist Distributor.cleared)) := rfl
  obtain ⟨hp, hd, hr⟩ := (discards
    (if s.dist.fip.isSome then epochTest (s.updDist Distributor.cleared) else s.updDist Distributor.cleared)).same
  have ht := (discards
    (if s.dist.fip.isSome then epochTest (s.updDist Distributor.cleared) else s.updDist Distributor.cleared)).tidies
  rw [← eq] at hp hd hr ht
  have hreport := onlyReported_epochTest (s.updDist Distributor.cleared)
  split at hp
  · next h =>
    rw [if_pos h] at hd hr ht
    exact ⟨(clears.trans (tests _)).trans ht, hp.trans hreport.pairs, hd.trans hreport.dist, hr.trans hreport.reas⟩
  · next h =>
    rw [if_neg h] at hd hr ht
    exact ⟨clears.trans ht, hp, hd, hr⟩

/-- A class queue flushed: class queues, counters and the restart list alone (R71). -/
theorem flushQueue_shape (c : ClassIx) (s : State) : ∃ q, Tallied { s with queues := q } (flushQueue s c) :=
  ⟨_, (tallied_foldl (fun s f => tallied_queueFrameGone f s) (s.queue c) (s.setQueue c [])).trans (tallied_bumpBy _ _ _)⟩

theorem tidies_queues (s : State) (q : Vector (List QFrame) 4) (rx : Option RxFrame) :
    Tidies s { s with queues := q, farm := { s.farm with rx := rx } } :=
  { settles_of s q s.dist s.reas s.counters s.events rx s.farm.outQueue s.ctl.noticeSlot s.ctl.farmOrder s.ctl.restarts
      fun _ h k => ⟨h, k⟩,
    MetTables.of_same rfl rfl with groupUp := rfl }

/-- The class queues of the classes listed flushed. -/
theorem foldl_flushQueue_spec (cs : List ClassIx) (s : State) :
    Tidies s (cs.foldl flushQueue s) ∧ (cs.foldl flushQueue s).pairs = s.pairs ∧ (cs.foldl flushQueue s).dist = s.dist
      ∧ (cs.foldl flushQueue s).reas = s.reas := by
  induction cs generalizing s with
  | nil => exact ⟨.refl s, rfl, rfl, rfl⟩
  | cons c cs ih =>
    obtain ⟨q, h⟩ := flushQueue_shape c s
    obtain ⟨hp, hd, hr⟩ := h.same
    obtain ⟨kt, kp, kd, kr⟩ := ih (flushQueue s c)
    exact ⟨((tidies_queues s q s.farm.rx).trans h.tidies).trans kt, kp.trans hp, kd.trans hd, kr.trans hr⟩

/-- The classifier's part of the fall (R71, R73). -/
theorem flushClassifier_spec (s : State) :
    Tidies s (flushClassifier s) ∧ (flushClassifier s).pairs = s.pairs ∧ (flushClassifier s).dist = s.dist
      ∧ (flushClassifier s).reas = s.reas := by
  obtain ⟨ht, hp, hd, hr⟩ := foldl_flushQueue_spec [0, 1, 2, 3] s
  unfold flushClassifier
  dsimp only
  generalize ([0, 1, 2, 3] : List ClassIx).foldl flushQueue s = x at ht hp hd hr ⊢
  exact ⟨ht.trans (tidies_queues x x.queues _), hp, hd, hr⟩

/-- The blocks cleared in the group's fall, the drains that it ends still to be judged (R71, R91, R122). -/
def cleared (s : State) : State :=
  (flushClassifier (clearDistributor (allPairs.foldl (fun s p => giveUp p false s) s))).updReas Reassembler.toIdle

theorem fallBlocks_eq (s : State) : fallBlocks s = allPairs.foldl (fun s p => drainCheck p s) (cleared s) := rfl

/-- What clearing the blocks makes of the state. -/
theorem cleared_spec (s : State) :
    Tidies s (cleared s) ∧ (∀ q, (cleared s).pair q = (s.pair q).emptied) ∧ (cleared s).dist = s.dist.cleared
      ∧ (cleared s).reas = s.reas.toIdle := by
  have hpair : ∀ q, (allPairs.foldl (fun s p => giveUp p false s) s).pair q = (s.pair q).emptied := fun q => by
    rw [foldl_giveUp_pair, if_pos (mem_allPairs q)]
  obtain ⟨gt, gd, gr⟩ := foldl_giveUp_frame allPairs s
  unfold cleared
  generalize allPairs.foldl (fun s p => giveUp p false s) s = x at hpair gt gd gr ⊢
  obtain ⟨dt, dp, dd, dr⟩ := clearDistributor_spec x
  obtain ⟨ft, fp, fd, fr⟩ := flushClassifier_spec (clearDistributor x)
  have idle : ∀ y : State, Tidies y (y.updReas Reassembler.toIdle) := fun y =>
    { settles_updReas y Reassembler.toIdle, MetTables.of_same rfl rfl with groupUp := rfl }
  refine ⟨((gt.trans dt).trans ft).trans (idle _), fun q => ?_, ?_, ?_⟩
  · rw [State.updReas_pair, State.pair_congr (fp.trans dp), hpair]
  · rw [State.updReas_dist, fd, dd, gd]
  · rw [State.updReas_reas, fr, dr, gr]

/-- The drains of the pairs listed judged. -/
theorem settles_foldl_drainCheck (ps : List PairIx) (s : State) : Settles s (ps.foldl (fun s p => drainCheck p s) s) := by
  induction ps generalizing s with
  | nil => exact .refl s
  | cons p ps ih => exact (settles_drainCheck p s).trans (ih _)

/-- Ports after the drains of the pairs listed have been judged, each listed once. -/
theorem foldl_drainCheck_pair {ps : List PairIx} (hn : ps.Nodup) (s : State) (q : PairIx) :
    (ps.foldl (fun s p => drainCheck p s) s).pair q
      = if q ∈ ps ∧ (s.pair q).state = .draining ∧ (s.pair q).isEmpty = true then (s.pair q).departed .off .drained .quiet
        else s.pair q := by
  induction ps generalizing s with
  | nil => simp
  | cons p ps ih =>
    obtain ⟨hp, hps⟩ := List.nodup_cons.mp hn
    rw [List.foldl_cons, ih hps, drainCheck_pair]
    by_cases e : q = p
    · subst e
      simp [hp]
    · simp [e]

/-- The drains judged change the distributor's reroute list alone, and that for no pair that holds nothing. -/
theorem foldl_drainCheck_dist (ps : List PairIx) (s : State) :
    (ps.foldl (fun s p => drainCheck p s) s).dist = s.dist ∧ (ps.foldl (fun s p => drainCheck p s) s).groupUp = s.groupUp := by
  induction ps generalizing s with
  | nil => exact ⟨rfl, rfl⟩
  | cons p ps ih =>
    have one : (drainCheck p s).dist = s.dist ∧ (drainCheck p s).groupUp = s.groupUp := by
      unfold drainCheck
      split
      · next h =>
        obtain ⟨l, hl, hd, hu⟩ := depart_dist p .draining .off .drained .quiet true s
        have hnone : (s.pair p).HoldsNone := by
          obtain ⟨hq, hs⟩ := (Bool.and_eq_true _ _).mp h.2
          exact ⟨List.isEmpty_iff.mp hq, List.isEmpty_iff.mp hs⟩
        rw [hl (.inl hnone)] at hd
        exact ⟨hd, hu⟩
      · exact ⟨rfl, rfl⟩
    rw [List.foldl_cons, (ih _).1, (ih _).2]
    exact one

/-- The pair ports after the group's fall: every store discarded, every drain ended (R13, R122, R124). -/
def PairPort.fallen (pp : PairPort) : PairPort :=
  if pp.state = .draining then pp.departed .off .drained .quiet else pp.emptied

@[simp] theorem PairPort.lasting_fallen (pp : PairPort) : pp.fallen.lasting = pp.lasting := by
  unfold PairPort.fallen; split <;> rfl

theorem PairPort.holdsNone_fallen (pp : PairPort) : pp.fallen.HoldsNone := by
  unfold PairPort.fallen; split <;> exact ⟨rfl, rfl⟩

theorem PairPort.fallen_of_ne {pp : PairPort} (h : pp.state ≠ .draining) : pp.fallen = pp.emptied := if_neg h

theorem fallBlocks_pair (s : State) (q : PairIx) : (fallBlocks s).pair q = (s.pair q).fallen := by
  obtain ⟨-, hp, -⟩ := cleared_spec s
  rw [fallBlocks_eq, foldl_drainCheck_pair (by decide), hp]
  unfold PairPort.fallen
  have he : (s.pair q).emptied.isEmpty = true := rfl
  have hs : (s.pair q).emptied.state = (s.pair q).state := rfl
  simp only [mem_allPairs q, he, hs, and_true, true_and, PairPort.emptied_departed]

theorem fallBlocks_dist (s : State) : (fallBlocks s).dist = s.dist.cleared ∧ (fallBlocks s).groupUp = s.groupUp := by
  obtain ⟨ht, -, hd, -⟩ := cleared_spec s
  rw [fallBlocks_eq, (foldl_drainCheck_dist _ _).1, (foldl_drainCheck_dist _ _).2]
  exact ⟨hd, ht.groupUp⟩

theorem blockFrame_fallBlocks (s : State) : BlockFrame s (fallBlocks s) :=
  (cleared_spec s).1.toBlockFrame.trans (settles_foldl_drainCheck allPairs (cleared s)).toBlockFrame

/-! ### The group's fall and rise -/

theorem setGroup_down (s : State) : BlockFrame s (s.setGroup false) where
  now := rfl
  digit := rfl
  pending := rfl
  farm := rfl
  boxes := rfl
  respSlot := rfl
  nextResp := rfl
  answers := rfl
  ctlQueue hq := hq
  ports _ := rfl
  groupMark hm := hm
  pairMark _ hm := hm
  sound _ := rfl
  down _ _ := rfl

/-- The ports after the group's fall. -/
theorem groupFall_pair (s : State) (q : PairIx) : (groupFall s).pair q = (s.pair q).fallen := by
  unfold groupFall raiseGroupDown
  dsimp only
  rw [fallBlocks_pair, (reports_raiseEvent _ _ _).pair]
  rfl

theorem groupFall_dist (s : State) : (groupFall s).dist = s.dist.cleared ∧ (groupFall s).groupUp = false := by
  unfold groupFall raiseGroupDown
  dsimp only
  rw [(fallBlocks_dist _).1, (fallBlocks_dist _).2, (reports_raiseEvent _ _ _).dist, (reports_raiseEvent _ _ _).groupUp]
  exact ⟨rfl, rfl⟩

/-- After the group's fall nobody holds a fragment (R122). -/
theorem empty_groupFall (s : State) : (groupFall s).EmptyWhenDown := by
  obtain ⟨hd, -⟩ := groupFall_dist s
  have held : ∀ q, ((groupFall s).pair q).HoldsNone := fun q => by
    rw [groupFall_pair]
    exact PairPort.holdsNone_fallen _
  exact ⟨fun q _ => held q, fun _ q => held q, fun _ => by rw [hd]; rfl, fun _ => by rw [hd]; rfl⟩

theorem PairPort.Vacated.fallen {pp : PairPort} (h : pp.Vacated) : pp.fallen = pp := by
  rw [PairPort.fallen_of_ne (by rw [h.1]; decide), h.2]

theorem settles_groupFall (s : State) : Settles s (groupFall s) where
  toBlockFrame := by
    unfold groupFall raiseGroupDown
    dsimp only
    exact ((setGroup_down s).trans (settles_raiseEvent _ _ _).toBlockFrame).trans (blockFrame_fallBlocks _)
  empty _ := empty_groupFall s
  off q hq := by rw [groupFall_pair, hq.fallen]

/-- The ports, the distributor and the reassembler after the group's rise (R123). -/
theorem groupRise_spec (s : State) :
    (groupRise s).pairs = s.pairs ∧ (groupRise s).dist = s.dist ∧ (groupRise s).groupUp = true
      ∧ (groupRise s).reas = { s.reas.toIdle with state := .resync } ∧ (groupRise s).farm = s.farm := by
  have h := onlyReported_raiseEvent .groupUp (detail1 (byteFields (s.setGroup true).activeCount (s.setGroup true).minPairs 0 0))
    (s.setGroup true)
  unfold groupRise
  dsimp only
  exact ⟨h.pairs, h.dist, h.groupUp, congrArg (fun r => { Reassembler.toIdle r with state := .resync }) h.reas, h.farm⟩

theorem settles_groupRise {s : State} (h : s.tables.groupDamaged = false) : Settles s (groupRise s) := by
  obtain ⟨hp, hd, hu, -⟩ := groupRise_spec s
  have raised := settles_raiseEvent .groupUp
    (detail1 (byteFields (s.setGroup true).activeCount (s.setGroup true).minPairs 0 0)) (s.setGroup true)
  have frame : BlockFrame s (s.setGroup true) :=
    { setGroup_down s with down := fun hm => absurd hm (by simp [h]) }
  exact
    { (frame.trans raised.toBlockFrame).trans (settles_updReas _ _).toBlockFrame with
      empty := fun he =>
        ⟨fun q => by rw [State.pair_congr hp]; exact he.outOfService q, fun hg => absurd hg (by simp [hu]),
          fun hg => absurd hg (by simp [hu]), fun hg => absurd hg (by simp [hu])⟩
      off := fun q _ => State.pair_congr hp q }

/-! ### The evaluation of the group -/

/-- The three outcomes of an evaluation, on the state that has met the minimum count (R119). -/
theorem evaluateGroup_cases (s : State) :
    (evaluateGroup s = touchGroup 0x02 s ∧ (touchGroup 0x02 s).groupUp = (touchGroup 0x02 s).wouldBeUp)
      ∨ (evaluateGroup s = groupFall (touchGroup 0x02 s) ∧ s.groupUp = true ∧ (touchGroup 0x02 s).wouldBeUp = false)
      ∨ (evaluateGroup s = groupRise (touchGroup 0x02 s) ∧ s.groupUp = false ∧ (touchGroup 0x02 s).wouldBeUp = true) := by
  have hu : (touchGroup 0x02 s).groupUp = s.groupUp := (reports_touch _ s).groupUp
  unfold evaluateGroup
  dsimp only
  rw [hu]
  cases s.groupUp <;> cases hw : (touchGroup 0x02 s).wouldBeUp <;> simp

theorem settles_evaluateGroup (s : State) : Settles s (evaluateGroup s) := by
  obtain ⟨h, -⟩ | ⟨h, -, -⟩ | ⟨h, -, hw⟩ := evaluateGroup_cases s <;> rw [h]
  · exact settles_touchGroup _ s
  · exact (settles_touchGroup _ s).trans (settles_groupFall _)
  · refine (settles_touchGroup _ s).trans (settles_groupRise ?_)
    simp only [State.wouldBeUp, Bool.and_eq_true, Bool.not_eq_true'] at hw
    exact hw.1

theorem settles_damagedPairOff (p : PairIx) (s : State) : Settles s (damagedPairOff p s) := by
  unfold damagedPairOff
  split
  · next h =>
    refine Settles.trans ?_ (settles_evaluateGroup _)
    exact
      { blockFrame_toOff p .damaged s with
        empty := fun he => empty_toOff he p _
        off := fun q hq => by
          rw [toOff_pair, if_neg]
          rintro rfl
          exact h.2 hq.1 }
  · exact .refl s

theorem settles_foldl_damagedPairOff (ps : List PairIx) (s : State) : Settles s (ps.foldl (fun s p => damagedPairOff p s) s) := by
  induction ps generalizing s with
  | nil => exact .refl s
  | cons p ps ih => exact (settles_damagedPairOff p s).trans (ih _)

theorem settles_settleDamage (s : State) : Settles s (settleDamage s) := by
  unfold settleDamage
  dsimp only
  split
  · exact (settles_evaluateGroup s).trans (settles_foldl_damagedPairOff _ _)
  · exact settles_foldl_damagedPairOff _ s

/-! ### Taking, cutting and placing -/

theorem distributing_up {s : State} (h : s.distributing = true) : s.groupUp = true := ((Bool.and_eq_true _ _).mp h).1

theorem reports_touchOffer (c : ClassIx) (s : State) : Reports s (touchOffer s c) := by
  unfold touchOffer
  split
  · exact .refl s
  · split
    · exact .refl s
    · exact reports_touch _ s

theorem reports_foldl_touchOffer (cs : List ClassIx) (s : State) : Reports s (cs.foldl touchOffer s) := by
  induction cs generalizing s with
  | nil => exact .refl s
  | cons c cs ih => exact (reports_touchOffer c s).trans (ih _)

theorem settles_takeFrame (s : State) : Settles s (takeFrame s) := by
  unfold takeFrame
  split
  · next h =>
    simp only [Bool.and_eq_true] at h
    have offers := reports_foldl_touchOffer [3, 2, 1, 0] s
    dsimp only
    split
    · exact offers.toSettles
    · next c _ =>
      have read := offers.trans (reports_touch (.group .active (classWord c)) _)
      exact read.toSettles.trans (settles_updDist_up (read.groupUp.trans (distributing_up h.1.1)) _)
  · exact .refl s

theorem settles_makeCut (f : Fip) (c : Cut) {s : State} (h : s.groupUp = true) : Settles s (makeCut f c s) := by
  unfold makeCut
  dsimp only
  generalize (if c.void then none else (s.queue f.cls).head?.bind QFrame.resp) = resp
  have cut := (settles_setQueue s f.cls (queueAfterCut (s.queue f.cls) f.size c)).trans (settles_updDist_up (by exact h)
    fun d => { d with fip := some { f with cutAny := true, finalCut := c.final, voidTail := none
                                           pendingFrag := some (cutFrag f c resp) } })
  split
  · exact cut.trans (settles_bump _ _)
  · exact cut

theorem settles_cutNext (s : State) : Settles s (cutNext s).1 := by
  unfold cutNext
  dsimp only
  split
  · split
    · next h =>
      exact (settles_takeFrame s).trans (settles_makeCut _ _ (distributing_up ((Bool.and_eq_true _ _).mp h).1))
    · exact settles_takeFrame s
  · exact settles_takeFrame s

theorem reports_touchAll (rs : List TRef) (s : State) : Reports s (touchAll rs s) := by
  induction rs generalizing s with
  | nil => exact .refl s
  | cons r rs ih => exact (reports_touch r s).trans (ih (touch r s))

theorem reports_touchChoice (s : State) : Reports s (touchChoice s) := by
  have reads : ∀ (b : Bool) (i : Fin 19) (x : State), Reports x (if b then touchGroup i x else x) := fun b i x => by
    split
    · exact reports_touch _ x
    · exact .refl x
  unfold touchChoice
  dsimp only
  have first := (reports_touchAll ((allPairs.filter (eligible s)).map fun p => .pair .active p 1) s).trans
    (reads ((allPairs.filter (eligible s)).any fun p => ((touchAll ((allPairs.filter (eligible s)).map fun p =>
      .pair .active p 1) s).pair p).guard.window.isSome) 0x08 _)
  split
  · exact first
  · exact first.trans (reports_touch _ _)

/-- Fragments appended to an ACTIVE pair's transmit queue with the group UP. -/
theorem settles_append {s : State} (h : s.groupUp = true) {p : PairIx} (hp : (s.pair p).state = .active) (fs : List Frag) :
    Settles s (s.updPair p fun pp => { pp with txq := pp.txq ++ fs }) where
  toBlockFrame := blockFrame_updPair s p rfl
  empty he := by
    refine ⟨fun q hq => ?_, fun hg => absurd h (by simp [State.updPair_groupUp] at hg; simp [hg]), fun hg => he.reroute hg,
      fun hg => he.inProgress hg⟩
    rw [State.updPair_pair] at hq ⊢
    split at hq
    · exact absurd hq (by simp [hp, PairState.running])
    · next e => rw [if_neg e]; exact he.outOfService q hq
  off q hq := State.updPair_pair_ne s p q _ fun e => by
    subst e
    exact absurd (hp.symm.trans hq.1) (by decide)

theorem settles_recordHold (w : WaitReason) (s : State) : Settles s (recordHold w s) := by
  have waits := settles_updDist s (fun d => { d with wait := w }) fun _ hr hf => ⟨hr, hf⟩
  unfold recordHold
  dsimp only
  split
  · exact waits.trans (settles_bump _ _)
  · exact waits

theorem settles_wait (w : WaitReason) (s : State) : Settles s (s.updDist fun d => { d with wait := w }) :=
  settles_updDist s _ fun _ hr hf => ⟨hr, hf⟩

theorem settles_discardHead (f : Frag) {s : State} (h : s.groupUp = true) : Settles s (discardHead f s) :=
  (settles_updDist_up h _).trans ((tallied_fragmentGone f _).settles.trans (settles_bump _ _))

/-- A candidate placed on the pair chosen for it, with the group UP (R84, R85). -/
theorem settles_placeAgain {s : State} {n : Nat} {p : PairIx} (h : s.groupUp = true) (hc : choose s n = .onto p) (f : Frag)
    (g : Distributor → Distributor) : Settles s (placeAgain p f (s.updDist g)) :=
  (settles_updDist_up h g).trans ((settles_append (by exact h) (by exact eligible_active (choose_onto hc).1.1) _).trans
    (settles_bump _ _))

theorem settles_placeNew {s : State} {n : Nat} {p : PairIx} (h : s.groupUp = true) (hc : choose s n = .onto p) (f : Frag)
    (g : Distributor → Distributor) : Settles s (placeNew p f (s.updDist g)) :=
  (settles_updDist_up h g).trans ((settles_updDist_up (by exact h) _).trans
    ((settles_append (by exact h) (by exact eligible_active (choose_onto hc).1.1) _).trans (settles_bump _ _)))

/-! ### Attempts and the end of a command -/

theorem settles_attemptN (n : Nat) (s : State) : Settles s (attemptN n s) := by
  induction n generalizing s with
  | zero => exact .refl s
  | succ n ih =>
    unfold attemptN
    dsimp only
    refine (settles_cutNext s).trans ?_
    generalize (cutNext s).1 = c
    split
    · exact .refl c
    · next hd =>
      have up : c.groupUp = true := distributing_up (by simpa using hd)
      have choice : ∀ x : State, (touchChoice x).distributing = true → (touchChoice x).groupUp = true := fun _ => distributing_up
      split
      · have aged := reports_touch (.group .active 0x07) c
        refine aged.toSettles.trans ?_
        have up : (touchGroup 0x07 c).groupUp = true := aged.groupUp.trans up
        change Settles (touchGroup 0x07 c) _
        generalize touchGroup 0x07 c = x at up ⊢
        split
        · exact .refl x
        · split
          · exact (settles_discardHead _ up).trans (ih _)
          · refine (reports_touchChoice x).toSettles.trans ?_
            have up := (reports_touchChoice x).groupUp.trans up
            generalize touchChoice x = y at up ⊢
            split
            · exact .refl y
            · split
              · exact (settles_settleDamage y).trans (ih _)
              · exact settles_recordHold _ y
              · next p hp => exact (settles_placeAgain up hp _ _).trans (ih _)
      · split
        · exact settles_wait _ c
        · split
          · exact settles_wait _ c
          · split
            · exact settles_recordHold _ c
            · refine (reports_touchChoice c).toSettles.trans ?_
              have up := (reports_touchChoice c).groupUp.trans up
              generalize touchChoice c = y at up ⊢
              split
              · exact .refl y
              · split
                · exact (settles_settleDamage y).trans (ih _)
                · exact settles_recordHold _ y
                · next p hp => exact (settles_placeNew up hp _ _).trans ((settles_epochTest _).trans (ih _))

theorem settles_attemptRun (s : State) : Settles s (attemptRun s) := by
  unfold attemptRun
  split
  · exact settles_attemptN _ s
  · exact settles_wait _ s

theorem settles_attemptSettled (n : Nat) (s : State) : Settles s (attemptSettled n s) := by
  induction n generalizing s with
  | zero => exact .refl s
  | succ n ih =>
    unfold attemptSettled
    dsimp only
    split
    · exact (settles_attemptRun s).trans ((settles_settleDamage _).trans (ih _))
    · exact settles_attemptRun s

theorem settles_attempt (s : State) : Settles s (attempt s) := settles_attemptSettled 12 s

theorem settles_settleOwed (s : State) : Settles s (settleOwed s) := by
  unfold settleOwed
  split
  · exact (settles_settleDamage s).trans (settles_attempt _)
  · exact .refl s

theorem settles_useWord (r : TRef) (s : State) : Settles s (useWord r s) := (settles_touch r s).trans (settles_settleOwed _)

theorem settles_useGroup (i : Fin 19) (s : State) : Settles s (useGroup i s) := settles_useWord _ s

theorem settles_serve (s : State) : Settles s (serve s) := by
  unfold serve
  split
  · dsimp only
    split
    · exact (settles_cutNext s).trans (settles_attempt _)
    · split
      · exact (settles_cutNext s).trans (settles_wait _ _)
      · exact settles_cutNext s
  · exact .refl s

/-- What ends every command only settles. -/
theorem settles_finish (s : State) : Settles s (finish s) :=
  (settles_settleOwed s).trans ((settles_serve _).trans (settles_settleOwed _))

theorem settles_testShortcut (s : State) : Settles s (testShortcut s) := (reasWork_testShortcut s).settles

/-- What follows every pair change only settles. -/
theorem settles_pairChanged (s : State) : Settles s (pairChanged s) :=
  (settles_evaluateGroup s).trans ((settles_testShortcut _).trans (settles_attempt _))

end Sys2Proof.Machine
end

section
/-! PROOFS of the family 01: every step keeps the ranges of pair records, of the control frame queue and of the mailboxes
(R3, R5, R18, R45, R143, R156), and the emptiness of R122. `Keeps` is both invariants, command by command. -/

namespace Sys2Proof.Machine

/-! ### Both invariants -/

/-- The ranges and the emptiness of R122 pass from one state to the other. -/
structure Keeps (s t : State) : Prop where
  ranges : s.InRange → t.InRange
  empty : s.EmptyWhenDown → t.EmptyWhenDown

theorem Keeps.refl (s : State) : Keeps s s := ⟨id, id⟩

theorem Keeps.trans {s t u : State} (h : Keeps s t) (k : Keeps t u) : Keeps s u :=
  ⟨fun hs => k.ranges (h.ranges hs), fun hs => k.empty (h.empty hs)⟩

/-- A pair port's ranges lie in the fields that shared work leaves alone. -/
theorem PairPort.InRange.of_lasting {pp pp' : PairPort} (h : pp.InRange) (e : pp'.lasting = pp.lasting) : pp'.InRange where
  upRate := by rw [PairPort.upRate_of_lasting e]; exact h.upRate
  downRate := by rw [PairPort.downRate_of_lasting e]; exact h.downRate
  samples := by rw [PairPort.samples_of_lasting e]; exact h.samples
  latency := by rw [PairPort.latency_of_lasting e]; exact h.latency
  confidence := by rw [PairPort.guard_of_lasting e]; exact h.confidence
  period := by rw [PairPort.guard_of_lasting e]; exact h.period

theorem BlockFrame.inRange {s t : State} (h : BlockFrame s t) (hs : s.InRange) : t.InRange where
  pairs p := (hs.pairs p).of_lasting (h.ports p)
  ctlQueue := h.ctlQueue hs.ctlQueue
  boxes b := by simpa only [h.boxes] using hs.boxes b

theorem BlockFrame.keeps {s t : State} (h : BlockFrame s t) (he : s.EmptyWhenDown → t.EmptyWhenDown) : Keeps s t := ⟨h.inRange, he⟩

theorem Settles.keeps {s t : State} (h : Settles s t) : Keeps s t := ⟨h.inRange, h.empty⟩

/-- A change of nothing that either invariant speaks of. -/
theorem keeps_of_same {s t : State} (hp : t.pairs = s.pairs) (hu : t.groupUp = s.groupUp) (hr : t.dist.reroute = s.dist.reroute)
    (hf : t.dist.fip = s.dist.fip) (hq : t.ctl.queue = s.ctl.queue) (hb : t.ctl.boxes = s.ctl.boxes) : Keeps s t where
  ranges h :=
    { pairs := fun p => by rw [State.pair_congr hp]; exact h.pairs p
      ctlQueue := by rw [hq]; exact h.ctlQueue
      boxes := fun b => by simpa only [hb] using h.boxes b }
  empty h := h.congr hp hu hr hf

theorem keeps_atTime (s : State) (t : Nat) : Keeps s (s.atTime t) := keeps_of_same rfl rfl rfl rfl rfl rfl
theorem keeps_updFarm (s : State) (f : FarmPort → FarmPort) : Keeps s (s.updFarm f) := keeps_of_same rfl rfl rfl rfl rfl rfl
theorem keeps_updReas (s : State) (f : Reassembler → Reassembler) : Keeps s (s.updReas f) := keeps_of_same rfl rfl rfl rfl rfl rfl
theorem keeps_updTables (s : State) (f : TableStore → TableStore) : Keeps s (s.updTables f) := keeps_of_same rfl rfl rfl rfl rfl rfl
theorem keeps_updEvents (s : State) (f : EventUnit → EventUnit) : Keeps s (s.updEvents f) := keeps_of_same rfl rfl rfl rfl rfl rfl
theorem keeps_setQueue (s : State) (c : ClassIx) (q : List QFrame) : Keeps s (s.setQueue c q) := keeps_of_same rfl rfl rfl rfl rfl rfl
theorem keeps_bump (s : State) (c : GroupCtr) : Keeps s (s.bump c) := keeps_of_same rfl rfl rfl rfl rfl rfl
theorem keeps_drawFree (s : State) : Keeps s s.drawFree := keeps_of_same rfl rfl rfl rfl rfl rfl

/-- The control engine changed but for its queue and its mailboxes. -/
theorem keeps_updCtl (s : State) (f : ControlEngine → ControlEngine) (hq : (f s.ctl).queue = s.ctl.queue)
    (hb : (f s.ctl).boxes = s.ctl.boxes) : Keeps s (s.updCtl f) := keeps_of_same rfl rfl rfl rfl hq hb

theorem keeps_touch (r : TRef) (s : State) : Keeps s (touch r s) := (settles_touch r s).keeps
theorem keeps_touchGroup (i : Fin 19) (s : State) : Keeps s (touchGroup i s) := (settles_touchGroup i s).keeps
theorem keeps_raiseEvent (k : EventKind) (d : Detail) (s : State) : Keeps s (raiseEvent k d s) := (settles_raiseEvent k d s).keeps
theorem keeps_attempt (s : State) : Keeps s (attempt s) := (settles_attempt s).keeps
theorem keeps_useGroup (i : Fin 19) (s : State) : Keeps s (useGroup i s) := (settles_useGroup i s).keeps
theorem keeps_useWord (r : TRef) (s : State) : Keeps s (useWord r s) := (settles_useWord r s).keeps
theorem keeps_pairChanged (s : State) : Keeps s (pairChanged s) := (settles_pairChanged s).keeps
theorem keeps_settleOwed (s : State) : Keeps s (settleOwed s) := (settles_settleOwed s).keeps
theorem keeps_finish (s : State) : Keeps s (finish s) := (settles_finish s).keeps

/-- A part of an operation that is taken or left. -/
theorem keeps_ite {s t u : State} {b : Prop} [Decidable b] (ht : b → Keeps s t) (hu : ¬b → Keeps s u) :
    Keeps s (if b then t else u) := by
  split
  · next h => exact ht h
  · next h => exact hu h

theorem keeps_foldl {α : Type} {f : State → α → State} (hf : ∀ s a, Keeps s (f s a)) (l : List α) (s : State) :
    Keeps s (l.foldl f s) := by
  induction l generalizing s with
  | nil => exact .refl s
  | cons a l ih => exact (hf s a).trans (ih (f s a))

/-- A pair port changed within its ranges, to one that runs on or holds nothing, and that holds nothing where it held
nothing. -/
theorem keeps_updPair (s : State) (p : PairIx) {f : PairPort → PairPort} (hr : (s.pair p).InRange → (f (s.pair p)).InRange)
    (hn : (s.pair p).HoldsNone → (f (s.pair p)).HoldsNone)
    (hs : (f (s.pair p)).state.running = false → (s.pair p).state.running = false ∨ (f (s.pair p)).HoldsNone) :
    Keeps s (s.updPair p f) where
  ranges h :=
    { pairs := fun q => by
        rw [State.updPair_pair]
        split
        · exact hr (h.pairs p)
        · exact h.pairs q
      ctlQueue := h.ctlQueue
      boxes := h.boxes }
  empty h :=
    { outOfService := fun q hq => by
        rw [State.updPair_pair] at hq ⊢
        split at hq
        · next e => rw [if_pos e]; exact (hs hq).elim (fun k => hn (h.outOfService p k)) id
        · next e => rw [if_neg e]; exact h.outOfService q hq
      stores := fun hg q => by
        rw [State.updPair_pair]
        split
        · exact hn (h.stores hg p)
        · exact h.stores hg q
      reroute := h.reroute
      inProgress := h.inProgress }

/-- A pair port changed in neither its ranges, nor its state, nor its stores. -/
theorem keeps_updPair_same (s : State) (p : PairIx) {f : PairPort → PairPort} (hr : (s.pair p).InRange → (f (s.pair p)).InRange)
    (hst : (f (s.pair p)).state = (s.pair p).state) (hq : (f (s.pair p)).txq = (s.pair p).txq)
    (hsto : (f (s.pair p)).store = (s.pair p).store) : Keeps s (s.updPair p f) :=
  keeps_updPair s p hr (fun ⟨h1, h2⟩ => ⟨hq.trans h1, hsto.trans h2⟩) fun h => .inl (hst ▸ h)

/-- A period of the burst guard: unlearnt, or 200..5000 ms (R45). -/
def periodInRange (n : Nat) : Prop := n = 0 ∨ (200 ≤ n ∧ n ≤ 5000)

/-- A guard changed within its ranges. -/
theorem keeps_guard (s : State) (p : PairIx) {f : PairPort → Guard}
    (hc : (s.pair p).guard.confidence ≤ 7 → (f (s.pair p)).confidence ≤ 7)
    (hp : periodInRange (s.pair p).guard.period → periodInRange (f (s.pair p)).period) :
    Keeps s (s.updPair p fun pp => { pp with guard := f pp }) :=
  keeps_updPair_same s p (fun h => { h with confidence := hc h.confidence, period := hp h.period }) rfl rfl rfl

/-! ### Departures and the pair state machine -/

theorem keeps_toDown (p : PairIx) (cause : Cause) (s : State) : Keeps s (toDown p cause s) :=
  (blockFrame_toDown p cause s).keeps fun h => empty_toDown h p cause

theorem keeps_toOff (p : PairIx) (cause : Cause) (s : State) : Keeps s (toOff p cause s) :=
  (blockFrame_toOff p cause s).keeps fun h => empty_toOff h p cause

theorem keeps_drained (p : PairIx) (s : State) : Keeps s (drained p s) :=
  (blockFrame_depart ..).keeps fun h => empty_depart (h.but p) ..

theorem keeps_lose (p : PairIx) (cause : Cause) (s : State) : Keeps s (lose p cause s) :=
  (keeps_toDown p cause s).trans (keeps_pairChanged _)

theorem keeps_restartPair (p : PairIx) (s : State) : Keeps s (restartPair p s) :=
  keeps_ite (fun _ => .refl s) fun _ => keeps_lose p _ s

theorem keeps_joinReroutes {fs : List Frag} {s : State} (h : s.EmptyWhenDown → s.groupUp = false → fs = []) :
    Keeps s (fs.foldl joinReroute s) := by
  obtain ⟨c, rs, hb⟩ := tallied_bumpBy
    (s.updDist fun d => { d with reroute := fs.foldl (fun l f => insertByGsn s.dist.nextGsn f l) d.reroute }) .rerouted fs.length
  rw [foldl_joinReroute, hb]
  refine ⟨fun hs => ⟨hs.pairs, hs.ctlQueue, hs.boxes⟩, fun he => ⟨he.outOfService, he.stores, fun hg => ?_, he.inProgress⟩⟩
  change fs.foldl (fun l f => insertByGsn s.dist.nextGsn f l) s.dist.reroute = []
  rw [h he hg]
  exact he.reroute hg

theorem keeps_toActive (p : PairIx) (s : State) : Keeps s (toActive p s) := by
  unfold toActive
  dsimp only
  refine (keeps_ite (t := s.drawFree) (b := ((s.pair p).lastProbe.isNone = true)) (fun _ => keeps_drawFree s) fun _ => .refl s).trans ?_
  generalize (if (s.pair p).lastProbe.isNone = true then s.drawFree else s) = x
  refine (keeps_updPair x p (fun h => ?_) (fun h => ?_) fun h => ?_).trans ((keeps_touch _ _).trans (keeps_raiseEvent _ _ _))
  · exact { h with }
  · exact h
  · exact absurd (show PairState.active.running = false from h) (by decide)

theorem keeps_examine (p : PairIx) (s : State) : Keeps s (examine p s) := by
  unfold examine
  refine keeps_ite (fun _ => ?_) fun _ => .refl s
  dsimp only
  refine ((keeps_useGroup _ s).trans (keeps_useGroup _ _)).trans (keeps_ite (fun _ => ?_) fun _ => .refl _)
  exact (keeps_toActive p _).trans (keeps_pairChanged _)

theorem clampRate_range (v : Nat) : 64 ≤ clampRate v ∧ clampRate v ≤ 100000 := by
  unfold clampRate clampTo; omega

/-- Entering PROBATION keeps a port's ranges, its rates apart (R8). -/
theorem PairPort.InRange.enterProbation {pp : PairPort} (h : pp.InRange) (now : Nat) : (pp.enterProbation now).InRange :=
  { h with samples := Nat.zero_le _ }

theorem keeps_enterService (p : PairIx) (u d : Nat) (s : State) : Keeps s (enterService p u d s) := by
  refine (keeps_updPair s p (fun h => ?_) (fun h => h) fun h => ?_).trans (keeps_pairChanged _)
  · exact { h.enterProbation s.now with upRate := .inr (clampRate_range u), downRate := .inr (clampRate_range d) }
  · exact absurd (show PairState.probation.running = false from h) (by decide)

theorem keeps_lowRate (p : PairIx) (s : State) : Keeps s (lowRate p s) := by
  unfold lowRate
  dsimp only
  generalize hf : (fun pp : PairPort => { (pp.enterProbation s.now) with cause := .lowRate, txq := [] }) = f
  have entered : Keeps s (s.updPair p f) := by
    subst hf
    refine keeps_updPair s p (fun h => ?_) (fun h => ⟨rfl, h.2⟩) fun h => absurd (show PairState.probation.running = false from h) (by decide)
    exact { h.enterProbation s.now with }
  have joins : ∀ x : State, x.EmptyWhenDown → x.groupUp = s.groupUp → s.EmptyWhenDown → Keeps x ((s.pair p).txq.foldl joinReroute x) :=
    fun x _ hu he => keeps_joinReroutes fun _ hg => (he.stores (hu ▸ hg) p).1
  refine Keeps.trans ⟨fun h => ?_, fun h => ?_⟩ (keeps_pairChanged _)
  · have hr := entered.ranges h
    rw [foldl_joinReroute]
    exact (settles_bumpBy _ _ _).keeps.ranges ⟨hr.pairs, hr.ctlQueue, hr.boxes⟩
  · exact (joins _ (entered.empty h) rfl h).empty (entered.empty h)

theorem keeps_takeRate (p : PairIx) (u d : Nat) (s : State) : Keeps s (takeRate p u d s) := by
  unfold takeRate
  dsimp only
  have rated : Keeps s (s.updPair p fun pp => { pp with upRate := clampRate u, downRate := clampRate d }) :=
    keeps_updPair_same s p
      (fun h => { h with upRate := .inr (clampRate_range u), downRate := .inr (clampRate_range d) }) rfl rfl rfl
  refine rated.trans ?_
  generalize s.updPair p _ = x
  refine (keeps_ite (b := (x.pair p).state = .active) (t := useGroup 0x06 x) (fun _ => keeps_useGroup _ x) fun _ => .refl x).trans ?_
  generalize (if (x.pair p).state = .active then useGroup 0x06 x else x) = y
  refine keeps_ite (fun _ => keeps_lowRate p y) fun _ => Keeps.trans ?_ (keeps_examine p _)
  exact keeps_ite (fun _ => .refl y) fun _ => keeps_attempt y

/-! ### Latency -/

/-- A later sample moves the measured latency toward it and never past it (R18). -/
theorem nextLatency_between (n m x : Nat) : min m x ≤ nextLatency n m x ∧ nextLatency n m x ≤ max m x := by
  unfold nextLatency
  split
  · omega
  · rcases le_total m x with h | h
    · have split := Int.mul_tdiv_add_tmod ((x : Int) - m) 8
      have quot := Int.tdiv_nonneg (a := (x : Int) - m) (b := 8) (by omega) (by omega)
      have rest := Int.tmod_nonneg 8 (a := (x : Int) - m) (by omega)
      omega
    · have back : (x : Int) - m = -((m : Int) - x) := by omega
      have split := Int.mul_tdiv_add_tmod ((m : Int) - x) 8
      have quot := Int.tdiv_nonneg (a := (m : Int) - x) (b := 8) (by omega) (by omega)
      have rest := Int.tmod_nonneg 8 (a := (m : Int) - x) (by omega)
      rw [back, Int.neg_tdiv]
      omega

theorem PairPort.InRange.sample {pp : PairPort} (h : pp.InRange) {x : Nat} (hx : x ≤ 20000) : (pp.sample x).InRange :=
  { h with
    samples := Nat.min_le_left ..
    latency := (nextLatency_between _ _ _).2.trans (Nat.max_le.mpr ⟨h.latency, hx⟩) }

theorem latencySample_le (now : Nat) (stamp : BitVec 16) : latencySample now stamp ≤ 20000 := Nat.min_le_left ..

theorem keeps_takeEcho (p : PairIx) (stamp : BitVec 16) (s : State) : Keeps s (takeEcho p stamp s) := by
  unfold takeEcho
  dsimp only
  have sampled : Keeps s (s.updPair p fun pp => pp.sample (latencySample s.now stamp)) :=
    keeps_updPair_same s p (fun h => h.sample (latencySample_le _ _)) rfl rfl rfl
  refine sampled.trans ?_
  refine (keeps_useWord (.pair .active p 0) _).trans ?_
  generalize useWord (.pair .active p 0) _ = x
  refine (keeps_ite (b := (x.autoE p && !x.tables.pairDamaged[p.val]) = true)
    (t := x.updTables fun t => t.store (.pair .active p 1) (asWord (x.pair p).latency))
    (fun _ => keeps_updTables x _) fun _ => .refl x).trans ?_
  generalize (if (x.autoE p && !x.tables.pairDamaged[p.val]) = true then
    x.updTables fun t => t.store (.pair .active p 1) (asWord (x.pair p).latency) else x) = y
  exact (keeps_ite (fun _ => .refl y) fun _ => keeps_attempt y).trans (keeps_examine p _)

/-! ### The burst guard -/

/-- What an unlocked guard learns lies within its ranges (R45, R46). -/
theorem Guard.learnInterval_range {g : Guard} (i : Nat) (hp : periodInRange g.period) :
    periodInRange (g.learnInterval i).1 ∧ (g.learnInterval i).2 ≤ 7 := by
  unfold periodInRange at hp ⊢
  unfold Guard.learnInterval
  split_ifs <;> dsimp only <;> omega

theorem Guard.learn_range {g : Guard} (t : Nat) (hc : g.confidence ≤ 7) (hp : periodInRange g.period) :
    (g.learn t).confidence ≤ 7 ∧ periodInRange (g.learn t).period := by
  unfold Guard.learn
  split
  · exact ⟨hc, hp⟩
  · next l _ => exact (Guard.learnInterval_range (t - l) hp).symm

theorem keeps_judgeBurst (p : PairIx) (t : Nat) (s : State) : Keeps s (judgeBurst p t s) := by
  unfold judgeBurst
  refine keeps_ite (fun _ => keeps_ite (fun _ => .refl s) fun _ => ?_) fun _ => ?_
  · exact keeps_guard s p (f := fun _ => (s.pair p).guard.accept t) (fun _ => Nat.min_le_left ..) id
  · exact keeps_updPair_same s p (fun h => { h with }) rfl rfl rfl

theorem keeps_learnBurst (p : PairIx) (t : Nat) (s : State) : Keeps s (learnBurst p t s) := by
  have learnt : ∀ x : State, (x.pair p).guard = (s.pair p).guard.learn t ∨ (x.pair p).guard = (s.pair p).guard →
      ∀ f : Guard → Guard, (∀ g, (f g).confidence = g.confidence ∧ (f g).period = g.period) →
      Keeps x (x.updPair p fun pp => { pp with guard := f ((s.pair p).guard.learn t) }) := by
    intro x hx f hf
    have range : (x.pair p).guard.confidence ≤ 7 ∧ periodInRange (x.pair p).guard.period →
        ((s.pair p).guard.learn t).confidence ≤ 7 ∧ periodInRange ((s.pair p).guard.learn t).period := by
      rintro ⟨hc, hp⟩
      obtain e | e := hx
      · rw [← e]; exact ⟨hc, hp⟩
      · exact Guard.learn_range t (e ▸ hc) (e ▸ hp)
    obtain ⟨ec, ep⟩ := hf ((s.pair p).guard.learn t)
    refine keeps_updPair_same x p (fun h => ?_) rfl rfl rfl
    obtain ⟨rc, rp⟩ := range ⟨h.confidence, h.period⟩
    exact { h with confidence := ec.symm ▸ rc, period := ep.symm ▸ rp }
  unfold learnBurst
  dsimp only
  have set := learnt s (.inr rfl) id fun _ => ⟨rfl, rfl⟩
  have used := settles_useGroup 0x08 (s.updPair p fun pp => { pp with guard := (s.pair p).guard.learn t })
  have hguard := PairPort.guard_of_lasting (used.ports p)
  refine set.trans (used.keeps.trans ?_)
  generalize useGroup 0x08 _ = x at hguard
  refine keeps_ite (fun _ => ?_) fun _ => .refl x
  refine (learnt x (.inl ?_) (fun g => g.lock t) fun _ => ⟨rfl, rfl⟩).trans (keeps_raiseEvent _ _ _)
  simpa using hguard

theorem keeps_guardBadCheck (p : PairIx) (s : State) : Keeps s (guardBadCheck p s) := by
  unfold guardBadCheck
  dsimp only
  refine (keeps_guard s p (f := fun _ => { (s.pair p).guard with lastBad := some s.now }) id id).trans ?_
  generalize s.updPair p _ = x
  refine keeps_ite (fun _ => ?_) fun _ => .refl x
  refine (keeps_updPair_same x p (f := fun pp => pp.bump .bursts) (fun h => { h with }) rfl rfl rfl).trans ?_
  exact keeps_ite (fun _ => keeps_judgeBurst p _ _) fun _ => keeps_learnBurst p _ _

theorem keeps_probationBadCheck (p : PairIx) (s : State) : Keeps s (probationBadCheck p s) := by
  unfold probationBadCheck
  exact keeps_ite (fun _ => keeps_updPair_same s p (fun h => { h with }) rfl rfl rfl) fun _ => .refl s

theorem keeps_openWindow (p : PairIx) (n : Nat) (s : State) : Keeps s (openWindow p n s) :=
  keeps_guard s p (f := fun pp => { pp.guard with window := some { endMs := n + s.guardWidth, met := false } }) id id

theorem keeps_closeWindow (p : PairIx) (w : GuardWindow) (s : State) : Keeps s (closeWindow p w s) := by
  unfold closeWindow
  refine keeps_ite (fun _ => keeps_guard s p (f := fun pp => { pp.guard with window := none }) id id) fun _ => ?_
  dsimp only
  refine (keeps_guard s p (f := fun pp => pp.guard.miss) (fun h => (Nat.sub_le _ _).trans h) id).trans
    ((keeps_useGroup _ _).trans (keeps_ite (fun _ => ?_) fun _ => .refl _))
  exact keeps_guard _ p (f := fun pp => pp.guard.unlock) id id

/-! ### The pair link -/

theorem keeps_afterStores (p : PairIx) (s : State) : Keeps s (afterStores p s) :=
  keeps_ite (fun _ => (keeps_drained p s).trans (keeps_pairChanged _)) fun _ => keeps_attempt s

theorem keeps_touchHandOff (p : PairIx) (s : State) : Keeps s (touchHandOff p s) := by
  unfold touchHandOff
  split
  · exact .refl s
  · exact (keeps_useGroup _ s).trans (keeps_ite (fun _ => keeps_useGroup _ _) fun _ => .refl _)
  · exact (keeps_useGroup _ s).trans (keeps_useGroup _ _)
  · exact keeps_useGroup _ s

/-- A hand-off changes neither a port's ranges, nor its state, nor its stores. -/
theorem PairPort.handOff_same (pp : PairPort) (f : FragFields) (void : Bool) (gid now : Nat) :
    (pp.InRange → (pp.handOff f void gid now).InRange) ∧ (pp.handOff f void gid now).state = pp.state
      ∧ (pp.handOff f void gid now).txq = pp.txq ∧ (pp.handOff f void gid now).store = pp.store := by
  unfold PairPort.handOff
  dsimp only
  split <;> exact ⟨fun h => { h with }, rfl, rfl, rfl⟩

/-- A pick of the transmit queue is its head (R27). -/
theorem PairPort.pick_queue {pp : PairPort} {now : Nat} {f : Frag} (h : pp.pick now = .queue f) : ∃ rest, pp.txq = f :: rest := by
  unfold PairPort.pick at h
  split at h
  · cases h
  · split at h
    · cases h
    · split at h
      · cases h
      · split at h
        · next hq => cases h; exact ⟨_, hq⟩
        · split at h <;> cases h

theorem keeps_handQueue {p : PairIx} {s : State} {f : Frag} {rest : List Frag} (hq : (s.pair p).txq = f :: rest) (l g : Nat) :
    Keeps s (s.updPair p fun pp => pp.handQueue f l g s.now) := by
  obtain ⟨hr, hst, -, -⟩ := (s.pair p).handOff_same (dataFields f (s.pair p).nextTxn) f.void g s.now
  refine keeps_updPair s p (fun h => ?_) (fun h => absurd (hq.symm.trans h.1) (by simp)) fun h => .inl ?_
  · unfold PairPort.handQueue
    dsimp only
    split <;> exact { hr h with }
  · revert h
    unfold PairPort.handQueue
    dsimp only
    split <;> exact fun h => hst ▸ h

theorem keeps_handOut (p : PairIx) (s : State) : Keeps s (handOut p s) := by
  have plain : ∀ (f : FragFields) (void : Bool) (g : PairPort → PairPort),
      (∀ pp : PairPort, (pp.InRange → (g pp).InRange) ∧ (g pp).state = pp.state ∧ (g pp).txq = pp.txq ∧ (g pp).store = pp.store) →
      Keeps s (s.updPair p fun pp => g (pp.handOff f void s.gid s.now)) := by
    intro f void g hg
    obtain ⟨hr, hst, hq, hsto⟩ := (s.pair p).handOff_same f void s.gid s.now
    obtain ⟨gr, gst, gq, gsto⟩ := hg ((s.pair p).handOff f void s.gid s.now)
    exact keeps_updPair_same s p (fun h => gr (hr h)) (gst.trans hst) (gq.trans hq) (gsto.trans hsto)
  unfold handOut
  dsimp only
  split
  · exact .refl s
  · exact (plain _ _ (fun pp => { pp with echo := none }) fun _ => ⟨fun h => { h with }, rfl, rfl, rfl⟩).trans (keeps_attempt _)
  · refine Keeps.trans ?_ (keeps_attempt _)
    obtain ⟨hr, hst, hq, hsto⟩ := (s.pair p).handOff_same (plainFields .probe (s.now / 10 % 65536)) false s.gid s.now
    exact keeps_updPair_same s p (fun h => { hr h with }) hst hq hsto
  · next e _ =>
    refine keeps_ite (fun _ => ?_) fun _ => Keeps.trans ?_ (keeps_attempt _)
    · exact (keeps_toDown p _ s).trans ((keeps_raiseEvent _ _ _).trans (keeps_pairChanged _))
    · obtain ⟨hr, hst, hq, hsto⟩ := (s.pair p).handOff_same (dataFields e.frag e.txn) e.frag.void s.gid s.now
      refine keeps_updPair s p (fun h => { hr h with }) (fun h => ⟨hq.trans h.1, ?_⟩) fun h => .inl (hst ▸ h)
      change markResent s.now e.txn (s.pair p).store = []
      rw [h.2]
      rfl
  · next f hp =>
    obtain ⟨rest, hq⟩ := PairPort.pick_queue hp
    exact (keeps_handQueue hq _ _).trans ((tallied_fragmentGone f _).settles.keeps.trans (keeps_afterStores p _))
  · exact (plain _ _ id fun _ => ⟨id, rfl, rfl, rfl⟩).trans (keeps_attempt _)

theorem keeps_applyAck (p : PairIx) (a : Txn) (s : State) : Keeps s (applyAck p a s) := by
  unfold applyAck
  dsimp only
  refine keeps_ite (fun _ => .refl s) fun _ => Keeps.trans ?_ (keeps_afterStores p _)
  refine keeps_updPair s p (fun h => { h with }) (fun h => ⟨h.1, ?_⟩) fun h => .inl h
  change (s.pair p).store.drop _ = []
  rw [h.2, List.drop_nil]

theorem keeps_applyRequest (p : PairIx) (a : Txn) (s : State) : Keeps s (applyRequest p a s) := by
  have begins : ∀ r : Option Replay, Keeps s (s.updPair p fun pp => { pp with replay := r }) := fun r =>
    keeps_updPair_same s p (fun h => { h with }) rfl rfl rfl
  have rewinds : Keeps s (s.updPair p fun pp => { pp with nextTxn := a + 1, rewindMark := some a }) :=
    keeps_updPair_same s p (fun h => { h with }) rfl rfl rfl
  unfold applyRequest
  dsimp only
  split_ifs
  · exact (begins _).trans (keeps_attempt _)
  · exact .refl s
  · exact rewinds
  · exact .refl s

/-- Asking for a replay changes neither a port's ranges, nor its state, nor its stores (R40). -/
theorem PairPort.ask_same (pp : PairPort) :
    (pp.InRange → pp.ask.InRange) ∧ pp.ask.state = pp.state ∧ pp.ask.txq = pp.txq ∧ pp.ask.store = pp.store := by
  unfold PairPort.ask
  split <;> exact ⟨fun h => { h with }, rfl, rfl, rfl⟩

theorem keeps_ask (p : PairIx) (s : State) : Keeps s (s.updPair p PairPort.ask) :=
  have ⟨hr, hst, hq, hsto⟩ := (s.pair p).ask_same
  keeps_updPair_same s p hr hst hq hsto

theorem keeps_takeData (p : PairIx) (f : FragFields) (void : Bool) (s : State) : Keeps s (takeData p f void s) := by
  unfold takeData
  dsimp only
  refine keeps_ite (fun _ => ?_) fun _ => keeps_ite (fun _ => ?_) fun _ => keeps_ask p s
  · exact (keeps_updPair_same s p (f := fun pp => pp.accept f) (fun h => { h with }) rfl rfl rfl).trans
      ((settles_arrive _ _).keeps.trans (settles_testShortcut _).keeps)
  · cases void
    · exact keeps_updPair_same s p (fun h => { h with }) rfl rfl rfl
    · exact keeps_updPair_same s p (fun h => { h with }) rfl rfl rfl

theorem keeps_byKind (p : PairIx) (f : FragFields) (void : Bool) (s : State) : Keeps s (byKind p f void s) := by
  unfold byKind
  split
  · exact keeps_takeData p f void s
  · exact .refl s
  · exact keeps_updPair_same s p (fun h => { h with }) rfl rfl rfl
  · exact keeps_takeEcho p _ s

theorem keeps_whileRunning {f : State → State} (hf : ∀ s, Keeps s (f s)) (p : PairIx) (s : State) : Keeps s (whileRunning p f s) :=
  keeps_ite (fun _ => hf s) fun _ => .refl s

theorem keeps_takeFragment (p : PairIx) (f : FragFields) (void : Bool) (s : State) : Keeps s (takeFragment p f void s) := by
  have heard : Keeps s (s.updPair p fun pp =>
      ({ pp.bump (if void then .void else .good) with lastHeard := s.now }).clearMark f.ackn) := by
    have same : ∀ pp : PairPort, (pp.InRange → (pp.clearMark f.ackn).InRange) ∧ (pp.clearMark f.ackn).state = pp.state
        ∧ (pp.clearMark f.ackn).txq = pp.txq ∧ (pp.clearMark f.ackn).store = pp.store := by
      intro pp
      unfold PairPort.clearMark
      split <;> exact ⟨fun h => { h with }, rfl, rfl, rfl⟩
    obtain ⟨hr, hst, hq, hsto⟩ := same { (s.pair p).bump (if void then .void else .good) with lastHeard := s.now }
    exact keeps_updPair_same s p (fun h => hr { h with }) hst hq hsto
  unfold takeFragment
  dsimp only
  refine heard.trans ((keeps_applyAck p f.ackn _).trans ?_)
  generalize applyAck p f.ackn _ = x
  exact (keeps_ite (fun _ => keeps_whileRunning (keeps_applyRequest p f.ackn) p x) fun _ => .refl x).trans
    (keeps_whileRunning (keeps_byKind p f void) p _)

theorem keeps_takeBad (p : PairIx) (s : State) : Keeps s (takeBad p s) :=
  (keeps_updPair_same s p (fun h => { h with }) rfl rfl rfl).trans ((keeps_guardBadCheck p _).trans
    ((keeps_probationBadCheck p _).trans (keeps_whileRunning (keeps_ask p) p _)))

theorem keeps_mismatch (p : PairIx) (got : Nat) (s : State) : Keeps s (mismatch p got s) := by
  unfold mismatch
  refine keeps_ite (fun _ => keeps_updPair_same s p (fun h => { h with }) rfl rfl rfl) fun _ => ?_
  exact (keeps_toDown p _ s).trans ((keeps_raiseEvent _ _ _).trans (keeps_pairChanged _))

theorem keeps_receive (p : PairIx) (bytes : List Byte) (s : State) : Keeps s (receive p bytes s) := by
  unfold receive
  split
  · exact keeps_takeBad p s
  · exact (keeps_useGroup _ s).trans (keeps_whileRunning
      (fun x => keeps_ite (fun _ => keeps_takeFragment p _ _ x) fun _ => keeps_mismatch p _ x) p _)

end Sys2Proof.Machine
end

section
/-! PROOFS of the family 01: the farm port, table memory, the control engine, commits and resets keep the ranges and the
emptiness of R122, and with them every step. -/

namespace Sys2Proof.Machine

/-! ### The farm port -/

theorem keeps_epochTest (s : State) : Keeps s (epochTest s) := (settles_epochTest s).keeps

theorem keeps_lookupIn (bs : List Byte) (is : List (Fin 64)) (s : State) : Keeps s (lookupIn bs is s).1 := by
  induction is generalizing s with
  | nil => exact keeps_touchGroup _ s
  | cons i is ih =>
    unfold lookupIn
    dsimp only
    split
    · exact ih s
    · split
      · exact (keeps_touch _ s).trans (keeps_touch _ _)
      · exact ((keeps_touch _ s).trans (keeps_touch _ _)).trans (ih _)

/-- The distributor's frame in progress replaced or dropped; with the group DOWN there is none to replace. -/
theorem keeps_setFip {s : State} {f : Fip} (h : s.dist.fip = some f) (x : Option Fip) :
    Keeps s (s.updDist fun d => { d with fip := x }) where
  ranges hs := ⟨hs.pairs, hs.ctlQueue, hs.boxes⟩
  empty he := ⟨he.outOfService, he.stores, he.reroute, fun hg => absurd ((he.inProgress hg).symm.trans h) (by simp)⟩

theorem arrivingTaken_fip {s : State} {c : ClassIx} {f : Fip} (h : s.arrivingTaken c = some f) : s.dist.fip = some f := by
  unfold State.arrivingTaken at h
  split at h
  · next g _ hg _ =>
    split at h
    · cases h; exact hg
    · cases h
  · cases h

theorem keeps_failArriving (c : ClassIx) (tail : List Byte) (s : State) : Keeps s (failArriving c tail s) := by
  unfold failArriving
  split
  · exact keeps_setQueue s _ _
  · next f h =>
    have taken := arrivingTaken_fip h
    have hf : ∀ q, (s.setQueue c q).dist.fip = some f := fun _ => taken
    refine keeps_ite (fun _ => (keeps_setQueue s _ _).trans (keeps_setFip (hf _) _)) fun _ => ?_
    dsimp only
    refine ((keeps_setQueue s c (withoutArriving (s.queue c))).trans
      ((keeps_setFip (hf (withoutArriving (s.queue c))) none).trans (keeps_epochTest _))).trans ?_
    exact keeps_ite (fun _ => keeps_attempt _) fun _ => .refl _

theorem keeps_setRxKind (k : RxKind) (s : State) : Keeps s (setRxKind k s) := keeps_updFarm s _

theorem keeps_storeByte (c : ClassIx) (check : List Byte) (s : State) (b : Byte) : Keeps s (storeByte c check s b) := by
  unfold storeByte
  split
  · refine keeps_ite (fun _ => ?_) fun _ => .refl s
    dsimp only
    generalize arrivingStored (s.queue c) = n
    refine (keeps_ite (b := n % Config.blockBytes = 0) (t := touchGroup (classWord c) s) (fun _ => keeps_touchGroup _ s)
      fun _ => .refl s).trans ?_
    generalize (if n % Config.blockBytes = 0 then touchGroup (classWord c) s else s) = x
    refine keeps_ite (fun _ => keeps_setQueue x _ _) fun _ => ?_
    exact ((keeps_bump x _).trans (keeps_setRxKind _ _)).trans (keeps_failArriving _ _ _)
  · exact .refl s

theorem keeps_classifyFrame (bs held check : List Byte) (s : State) : Keeps s (classifyFrame bs held check s) := by
  unfold classifyFrame
  refine keeps_ite (fun _ => (keeps_bump s _).trans (keeps_setRxKind _ _)) fun _ => ?_
  have look := keeps_lookupIn bs allEntries s
  generalize lookupIn bs allEntries s = l at look ⊢
  obtain ⟨x, _ | c⟩ := l
  · exact look.trans ((keeps_bump x _).trans (keeps_setRxKind _ _))
  · exact look.trans (((keeps_setQueue x _ _).trans (keeps_setRxKind _ _)).trans (keeps_foldl (keeps_storeByte c check) held _))

theorem keeps_judgeFrame (r : RxFrame) (s : State) : Keeps s (judgeFrame r s) := by
  unfold judgeFrame
  dsimp only
  refine keeps_ite (fun _ => keeps_updFarm s _) fun _ => ?_
  refine (keeps_ite (b := frameType (r.held ++ r.check) = controlType) (t := touchGroup 0x0F (touchGroup 0x0E s))
    (fun _ => (keeps_touchGroup _ s).trans (keeps_touchGroup _ _)) fun _ => .refl s).trans ?_
  exact keeps_ite (fun _ => keeps_updFarm _ _) fun _ => keeps_classifyFrame _ _ _ _

theorem keeps_becomeGiant (r : RxFrame) (s : State) : Keeps s (becomeGiant r s) := by
  unfold becomeGiant
  split
  · exact .refl s
  · exact .refl s
  · exact keeps_setRxKind _ s
  · exact ((keeps_bump s _).trans (keeps_setRxKind _ _)).trans (keeps_failArriving _ _ _)
  · exact (keeps_bump s _).trans (keeps_setRxKind _ _)

theorem keeps_takeByte (r : RxFrame) (b : Byte) (s : State) : Keeps s (takeByte r b s) := by
  unfold takeByte
  dsimp only
  split
  · exact .refl s
  · exact keeps_updFarm s _
  · split
    · exact (keeps_updFarm s _).trans (keeps_storeByte _ _ _ _)
    · exact keeps_updFarm s _
  · exact (keeps_updFarm s _).trans (keeps_ite (fun _ => keeps_judgeFrame _ _) fun _ => .refl _)
  · exact keeps_updFarm s _

theorem keeps_farmByte (b : Byte) (s : State) : Keeps s (farmByte b s) := by
  unfold farmByte
  dsimp only
  refine keeps_ite (fun _ => keeps_takeByte _ b s) fun _ => ?_
  exact (keeps_updFarm s fun f => { f with rx := some { s.farm.rx.getD RxFrame.start with count := _ } }).trans
    (keeps_ite (fun _ => keeps_becomeGiant _ _) fun _ => .refl _)

theorem keeps_countFailure (v : Verdict) (s : State) : Keeps s (countFailure v s) := by
  unfold countFailure
  split
  · exact .refl s
  · exact keeps_bump s _
  · exact keeps_bump s _

theorem keeps_takeLink (r : RxFrame) (s : State) : Keeps s (takeLink r s) :=
  (keeps_bump s .pauseRequests).trans (keeps_ite (fun _ => keeps_updFarm _ _) fun _ => .refl _)

theorem keeps_controlArrive (o : Origin) (b : List Byte) (s : State) : Keeps s (controlArrive o b s) :=
  (reasWork_controlArrive o b s).settles.keeps

theorem keeps_frameEnd (r : RxFrame) (s : State) : Keeps s (frameEnd r s) := by
  unfold frameEnd
  dsimp only
  refine (keeps_updFarm s fun f => { f with rx := none }).trans ?_
  generalize s.updFarm _ = x
  split
  · exact .refl x
  · exact .refl x
  · exact keeps_bump x _
  · exact .refl x
  · exact keeps_bump x _
  · exact keeps_countFailure _ x
  · exact keeps_bump x _
  · exact keeps_countFailure _ x
  · exact (keeps_bump x _).trans (keeps_takeLink r _)
  · exact keeps_countFailure _ x
  · exact ((keeps_bump x _).trans (keeps_bump _ _)).trans (keeps_controlArrive _ _ _)
  · exact keeps_countFailure _ x
  · exact (keeps_bump x _).trans ((keeps_setQueue _ _ _).trans (keeps_bump _ _))
  · exact (keeps_countFailure _ x).trans (keeps_failArriving _ _ _)

theorem keeps_beginTx (x : FarmTx) (s : State) : Keeps s (beginTx x s) := by
  unfold beginTx
  dsimp only
  refine (keeps_updFarm s fun f => { f with tx := some x }).trans ?_
  split
  · exact .refl _
  · exact keeps_updCtl _ _ rfl rfl
  · exact keeps_updCtl _ _ rfl rfl

theorem keeps_responseLeft (n : Nat) (s : State) : Keeps s (responseLeft n s) := keeps_updCtl s _ rfl rfl

theorem keeps_recordSent (w : List Byte) (s : State) : Keeps s (recordSent w s) := (keeps_updFarm s _).trans (keeps_bump _ _)

theorem keeps_endTx (x : FarmTx) (s : State) : Keeps s (endTx x s) := by
  unfold endTx
  split
  · exact ((keeps_recordSent _ s).trans (keeps_updFarm _ _)).trans (reasWork_headProcess _).settles.keeps
  · next w =>
    dsimp only
    have left : Keeps s ((recordSent w s).updCtl fun c => { c with respSlot := none }) :=
      (keeps_recordSent w s).trans (keeps_updCtl _ _ rfl rfl)
    split
    · exact left.trans (keeps_responseLeft _ _)
    · exact left
  · exact (keeps_recordSent _ s).trans (keeps_updCtl _ _ rfl rfl)

/-! ### Table memory and the event unit -/

theorem keeps_digestBefore (r : TRef) (s : State) : Keeps s (digestBefore r s) := by
  unfold digestBefore
  refine keeps_ite (fun _ => keeps_ite (fun _ => ?_) fun _ => keeps_drawFree s) fun _ => .refl s
  exact (keeps_drawFree s).trans ((keeps_touch r _).trans (keeps_of_same rfl rfl rfl rfl rfl rfl))

theorem keeps_storeShadow (r : TRef) (v : Word) (s : State) : Keeps s (storeShadow r v s) :=
  (keeps_digestBefore r s).trans (keeps_of_same rfl rfl rfl rfl rfl rfl)

theorem keeps_storeGate (v : Word) (s : State) : Keeps s (storeGate v s) := keeps_updTables s _

theorem keeps_sendNotice (s : State) : Keeps s (sendNotice s) :=
  have h := onlyReported_sendNotice s
  keeps_of_same h.pairs h.groupUp (by rw [h.dist]) (by rw [h.dist]) h.ctlQueue h.boxes

theorem keeps_enableKind (v : Word) (s : State) (i : Fin 15) : Keeps s (enableKind v s i) := by
  unfold enableKind
  dsimp only
  refine (keeps_updEvents s _).trans (keeps_ite (fun _ => ?_) fun _ => .refl _)
  have h := onlyReported_newPending (s.updEvents fun e => { e with kinds := e.kinds.set i.val (s.events.kinds[i.val].enable (bitAt v i.val)) })
  exact keeps_of_same h.pairs h.groupUp (by rw [h.dist]) (by rw [h.dist]) h.ctlQueue h.boxes

theorem keeps_storeEnable (v : Word) (s : State) : Keeps s (storeEnable v s) := keeps_foldl (keeps_enableKind v) _ s

/-- A mailbox replaced by one that holds at most 64 bytes if the old ones do. -/
theorem keeps_setBox (b : Fin 2) (m : Mailbox) (s : State) (h : s.ctl.boxes[b.val].message.length ≤ 64 → m.message.length ≤ 64) :
    Keeps s (setBox b m s) where
  ranges hs :=
    { pairs := hs.pairs
      ctlQueue := hs.ctlQueue
      boxes := fun c => by
        change ((s.ctl.boxes.set b.val m)[c.val]).message.length ≤ 64
        rw [Vector.getElem_set]
        split
        · exact h (hs.boxes b)
        · exact hs.boxes c }
  empty he := he.congr rfl rfl rfl rfl

theorem keeps_storeKeep (b : Fin 2) (v : Word) (s : State) : Keeps s (storeKeep b v s) :=
  keeps_setBox b { s.ctl.boxes[b.val] with keep := bitAt v 0 } s id

theorem keeps_storePairCounter (q : PairIx) (i : Fin 10) (v : Word) (s : State) : Keeps s (storePairCounter q i v s) :=
  keeps_updPair_same s q (fun h => { h with }) rfl rfl rfl

theorem keeps_storePlace (v : Word) (p : Place) (s : State) : Keeps s (storePlace v p s).1 := by
  unfold storePlace
  split
  · exact keeps_storeShadow _ v s
  · exact keeps_storeShadow _ v s
  · exact keeps_storeShadow _ v s
  · exact keeps_storeGate v s
  · next q i => exact keeps_storePairCounter q i v s
  · exact keeps_of_same rfl rfl rfl rfl rfl rfl
  · exact keeps_of_same rfl rfl rfl rfl rfl rfl
  · exact keeps_of_same rfl rfl rfl rfl rfl rfl
  · exact keeps_of_same rfl rfl rfl rfl rfl rfl
  · exact keeps_storeEnable v s
  · exact keeps_storeKeep _ v s
  · exact .refl s

theorem keeps_feedWords (as : List Nat) (acc : State × Nat × Bool) : Keeps acc.1 (as.foldl feedWord acc).1 := by
  induction as generalizing acc with
  | nil => exact .refl _
  | cons a as ih =>
    refine Keeps.trans ?_ (ih (feedWord acc a))
    obtain ⟨s, c, d⟩ := acc
    unfold feedWord
    dsimp only
    split
    · exact keeps_touch _ s
    · exact .refl s

theorem keeps_endDigest (st : DigestState) (w : Word) (d : Bool) (s : State) : Keeps s (endDigest st w d s) :=
  (keeps_updTables s _).trans (keeps_raiseEvent _ _ _)

theorem keeps_digestEnds (s : State) : Keeps s (digestEnds s) := by
  have feeds : Keeps s (feedAll s).1 := keeps_feedWords _ (s, crc32Init, false)
  unfold digestEnds
  generalize feedAll s = x at feeds
  obtain ⟨x, c, d⟩ := x
  refine feeds.trans (keeps_ite (fun _ => ?_) fun _ => keeps_endDigest _ _ _ x)
  exact (keeps_drawFree x).trans (keeps_endDigest _ _ _ _)

theorem keeps_memoryError (r : TRef) (two : Bool) (s : State) : Keeps s (memoryError r two s) :=
  keeps_ite (fun _ => .refl s) fun _ => keeps_updTables s _

theorem keeps_intervalEnd (s : State) : Keeps s (intervalEnd s) := by
  unfold intervalEnd
  dsimp only
  refine (keeps_updEvents s fun e => { e with owed := false }).trans (keeps_ite (fun _ => ?_) fun _ => keeps_touchGroup _ _)
  exact (keeps_updEvents _ _).trans ((keeps_touchGroup _ _).trans (keeps_sendNotice _))

/-! ### The control engine -/

theorem keeps_meetPlace (p : Place) (s : State) : Keeps s (meetPlace p s) := by
  unfold meetPlace
  split
  · exact keeps_useWord _ s
  · exact .refl s

theorem keeps_gateWrite (o : Origin) (as : List Nat) (s : State) : Keeps s (gateWrite o as s).1 := by
  unfold gateWrite
  split
  · exact .refl s
  · exact keeps_ite (fun _ => keeps_useWord _ s) fun _ => .refl s

theorem keeps_gateFlagTest (o : Origin) (i : Nat) (s : State) : Keeps s (gateFlagTest o i s).1 := by
  unfold gateFlagTest
  split
  · exact .refl s
  · exact keeps_useWord _ s

theorem keeps_answerVacant (o : Origin) (r : Request) (n : Nat) (s : State) : Keeps s (answerVacant o r n s).state :=
  keeps_raiseEvent _ _ s

/-- A request's outcome keeps what each of its branches keeps. -/
theorem keeps_ite_state {s : State} {x y : Outcome} {b : Prop} [Decidable b] (hx : b → Keeps s x.state) (hy : ¬b → Keeps s y.state) :
    Keeps s (if b then x else y).state := by
  split
  · next h => exact hx h
  · next h => exact hy h

theorem keeps_outcomes {α : Type} {f : Outcome → α → Outcome} (hf : ∀ x a, Keeps x.state (f x a).state) (l : List α) (x : Outcome) :
    Keeps x.state (l.foldl f x).state := by
  induction l generalizing x with
  | nil => exact .refl _
  | cons a l ih => exact (hf x a).trans (ih (f x a))

theorem keeps_runRead (o : Origin) (r : Request) (s : State) : Keeps s (runRead o r s).state :=
  keeps_ite_state (fun _ => .refl s) fun _ => keeps_ite_state (fun _ => keeps_answerVacant _ _ _ s) fun _ =>
    keeps_outcomes (fun x a => keeps_meetPlace (placeAt a) x.state) _ { state := s, status := .ok, data := [] }

theorem keeps_runWrite (o : Origin) (r : Request) (s : State) : Keeps s (runWrite o r s).state := by
  refine keeps_ite_state (fun _ => .refl s) fun _ => keeps_ite_state (fun _ => keeps_answerVacant _ _ _ s) fun _ => ?_
  dsimp only
  refine (keeps_gateWrite o (blockAddrs r.addr.toNat r.words) s).trans (keeps_ite_state (fun _ => .refl _) fun _ => ?_)
  exact keeps_outcomes (fun x a => keeps_storePlace a.2 (placeAt a.1) x.state) _ { state := _, status := .ok, data := [] }

theorem keeps_runOneWord (n : Nat) (f : NewWord) (o : Origin) (r : Request) (s : State) : Keeps s (runOneWord n f o r s).state := by
  refine keeps_ite_state (fun _ => .refl s) fun _ => keeps_ite_state (fun _ => keeps_answerVacant _ _ _ s) fun _ => ?_
  dsimp only
  refine (keeps_gateWrite o [r.addr.toNat] s).trans (keeps_ite_state (fun _ => .refl _) fun _ => ?_)
  generalize (gateWrite o [r.addr.toNat] s).1 = x
  split
  · exact keeps_meetPlace _ x
  · refine (keeps_meetPlace _ x).trans (keeps_ite_state (fun _ => .refl _) fun _ => ?_)
    split
    · exact .refl _
    · exact keeps_storePlace _ _ _

theorem keeps_runCommit (o : Origin) (r : Request) (s : State) : Keeps s (runCommit o r s).state := by
  refine keeps_ite_state (fun _ => .refl s) fun _ => ?_
  dsimp only
  refine (keeps_gateFlagTest o 4 s).trans (keeps_ite_state (fun _ => .refl _) fun _ => keeps_ite_state (fun _ => .refl _) fun _ => ?_)
  exact (keeps_updTables _ _).trans (keeps_epochTest _)

theorem keeps_runDigest (r : Request) (s : State) : Keeps s (runDigest r s).state :=
  keeps_ite_state (fun _ => .refl s) fun _ => keeps_ite_state (fun _ => .refl s) fun _ => keeps_ite_state (fun _ => .refl s)
    fun _ => keeps_of_same rfl rfl rfl rfl rfl rfl

theorem keeps_runEventNext (r : Request) (s : State) : Keeps s (runEventNext r s).state := by
  refine keeps_ite_state (fun _ => .refl s) fun _ => ?_
  split
  · exact .refl s
  · exact keeps_of_same rfl rfl rfl rfl rfl rfl

theorem keeps_runEventClear (r : Request) (s : State) : Keeps s (runEventClear r s).state :=
  keeps_ite_state (fun _ => .refl s) fun _ => keeps_of_same rfl rfl rfl rfl rfl rfl

theorem keeps_runPairRestart (o : Origin) (r : Request) (s : State) : Keeps s (runPairRestart o r s).state := by
  unfold runPairRestart
  refine keeps_ite_state (fun _ => .refl s) fun _ => ?_
  split
  · exact (keeps_gateFlagTest o 5 s).trans (keeps_ite_state (fun _ => .refl _) fun _ => keeps_restartPair _ _)
  · exact .refl s

theorem keeps_runRestart (k : RestartKind) (i : Nat) (o : Origin) (n : Option Nat) (r : Request) (s : State) :
    Keeps s (runRestart k i o n r s).state := by
  refine keeps_ite_state (fun _ => .refl s) fun _ => ?_
  dsimp only
  exact (keeps_gateFlagTest o i s).trans (keeps_ite_state (fun _ => .refl _) fun _ => keeps_of_same rfl rfl rfl rfl rfl rfl)

theorem keeps_runBoxPost (o : Origin) (r : Request) (s : State) : Keeps s (runBoxPost o r s).state := by
  refine keeps_ite_state (fun _ => .refl s) fun hlen => ?_
  split
  · exact .refl s
  · refine keeps_ite_state (fun _ => .refl s) fun _ => keeps_ite_state (fun _ => .refl s) fun _ => ?_
    exact (keeps_setBox _ _ s fun _ => by simp only [not_or, not_lt] at hlen; exact hlen.2).trans (keeps_raiseEvent _ _ _)

theorem keeps_emptyBox (b : Fin 2) (s : State) : Keeps s (setBox b { s.ctl.boxes[b.val] with message := [] } s) :=
  keeps_setBox b _ s fun _ => Nat.zero_le _

theorem keeps_runBoxTake (o : Origin) (r : Request) (s : State) : Keeps s (runBoxTake o r s).state := by
  refine keeps_ite_state (fun _ => .refl s) fun _ => ?_
  split
  · exact .refl s
  · refine keeps_ite_state (fun _ => .refl s) fun _ => keeps_ite_state (fun _ => .refl s) fun _ => ?_
    exact keeps_ite (fun _ => .refl s) fun _ => keeps_emptyBox _ s

theorem keeps_runBoxRelease (o : Origin) (r : Request) (s : State) : Keeps s (runBoxRelease o r s).state := by
  refine keeps_ite_state (fun _ => .refl s) fun _ => ?_
  split
  · exact .refl s
  · exact keeps_ite_state (fun _ => .refl s) fun _ => keeps_ite_state (fun _ => .refl s) fun _ => keeps_emptyBox _ s

theorem keeps_runKind (k : ReqKind) (o : Origin) (n : Option Nat) (r : Request) (s : State) : Keeps s (runKind k o n r s).state := by
  cases k with
  | read => exact keeps_runRead o r s
  | write => exact keeps_runWrite o r s
  | writePosted => exact keeps_runWrite o r s
  | maskWrite => exact keeps_runOneWord _ _ o r s
  | maskWritePosted => exact keeps_runOneWord _ _ o r s
  | swapIf => exact keeps_runOneWord _ _ o r s
  | addSat => exact keeps_runOneWord _ _ o r s
  | addSatPosted => exact keeps_runOneWord _ _ o r s
  | commit => exact keeps_runCommit o r s
  | digest => exact keeps_runDigest r s
  | eventNext => exact keeps_runEventNext r s
  | eventClear => exact keeps_runEventClear r s
  | pairRestart => exact keeps_runPairRestart o r s
  | groupRestart => exact keeps_runRestart _ _ o n r s
  | partReset => exact keeps_runRestart _ _ o n r s
  | boxPost => exact keeps_runBoxPost o r s
  | boxTake => exact keeps_runBoxTake o r s
  | boxRelease => exact keeps_runBoxRelease o r s

theorem keeps_request (k : ReqKind) (o : Origin) (n : Option Nat) (r : Request) (s : State) : Keeps s (request k o n r s).1 := by
  unfold request
  dsimp only
  have runs := keeps_runKind k o n r s
  split
  · refine (runs.trans ?_).trans (keeps_settleOwed _)
    exact keeps_ite (fun _ => .refl _) fun _ => keeps_raiseEvent _ _ _
  · exact runs.trans (keeps_settleOwed _)

theorem keeps_single (k : ReqKind) (t : Nat) (o : Origin) (tag : Byte) (a : Word) (n : Nat) (data : List Byte) (s : State) :
    Keeps s (single k t o tag a n data s) :=
  (keeps_atTime s t).trans ((keeps_request k o none _ _).trans ((keeps_updCtl _ _ rfl rfl).trans (keeps_finish _)))

theorem keeps_frameRequests (o : Origin) (n : Option Nat) (rs : List Request) (acc : State × List Record) :
    Keeps acc.1 (rs.foldl (frameRequest o n) acc).1 := by
  induction rs generalizing acc with
  | nil => exact .refl _
  | cons r rs ih =>
    refine Keeps.trans ?_ (ih (frameRequest o n acc r))
    unfold frameRequest
    split
    · exact .refl _
    · exact keeps_request _ o n r acc.1

theorem keeps_handOn (o : Origin) (b : List Byte) (n : Nat) (s : State) : Keeps s (handOn o b n s) := by
  unfold handOn
  split
  · exact keeps_updCtl s _ rfl rfl
  · have h := onlyReported_admitInternal b (some n) s
    have offered : Keeps s (admitInternal b (some n) s).1 :=
      keeps_of_same h.pairs h.groupUp (by rw [h.dist]) (by rw [h.dist]) h.ctlQueue h.boxes
    exact offered.trans (keeps_ite (fun _ => .refl _) fun _ => keeps_responseLeft n _)

/-- The control frame executed leaves the queue. -/
theorem keeps_dropControl (s : State) : Keeps s (s.updCtl fun c => { c with queue := c.queue.tail }) where
  ranges hs := ⟨hs.pairs, by
    have := hs.ctlQueue
    simp only [State.updCtl_ctl, List.length_tail]
    omega, hs.boxes⟩
  empty he := he.congr rfl rfl rfl rfl

theorem keeps_respond (f : CtlFrame) (st : Status) (rs : List Record) (s : State) : Keeps s (respond f st rs s) :=
  ((keeps_touchGroup 0x0E s).trans (keeps_touchGroup 0x0F _)).trans
    (((keeps_updCtl _ _ rfl rfl).trans (keeps_handOn _ _ _ _)).trans (keeps_dropControl _))

end Sys2Proof.Machine
end

section
/-! PROOFS of the family 01: commits and resets keep the ranges and the emptiness of R122, and with them every step does.
Settles O5 and O6, and the values at reset, O3, O4 and O58. -/

namespace Sys2Proof.Machine

/-! ### Commits -/

theorem keeps_touchAll (rs : List TRef) (s : State) : Keeps s (touchAll rs s) := (settles_touchAll rs s).keeps

theorem keeps_commitCopy (s : State) : Keeps s (commitCopy s) := by
  refine Keeps.trans (keeps_foldl (fun x i => ?_) _ s) ((keeps_touchAll _ _).trans (keeps_updTables _ _))
  exact (keeps_touch _ x).trans (keeps_ite (fun _ => keeps_touch _ _) fun _ => .refl _)

theorem keeps_commitDone (s : State) : Keeps s (commitDone s) := (keeps_updTables s _).trans (keeps_raiseEvent _ _ _)

theorem keeps_noticesAfterCommit (n : Nat) (o : Option Nat) (s : State) : Keeps s (noticesAfterCommit n o s) :=
  (keeps_touchGroup 0x12 s).trans (keeps_ite (fun _ => keeps_updEvents _ _) fun _ => keeps_ite
    (fun _ => keeps_ite (fun _ => keeps_sendNotice _) fun _ => keeps_updEvents _ _) fun _ => .refl _)

theorem keeps_drainCheck (p : PairIx) (s : State) : Keeps s (drainCheck p s) := (settles_drainCheck p s).keeps

theorem keeps_beginDrain (p : PairIx) (s : State) : Keeps s (beginDrain p s) := by
  refine (keeps_touchGroup 0x07 s).trans (Keeps.trans ?_ (keeps_drainCheck p _))
  exact keeps_updPair _ p (fun h => { h with }) id fun h => absurd (show PairState.draining.running = false from h) (by decide)

/-- A pair's move keeps both invariants; it returns to DOWN only from out of service. -/
theorem keeps_makeMove (keep : Bool) (p : PairIx) (m : CommitMove) {s : State}
    (h : m = .retrain → (s.pair p).state.running = false) : Keeps s (makeMove keep p m s) := by
  cases m with
  | stay => exact .refl s
  | retrain =>
    exact keeps_updPair s p (f := fun pp => ({ pp with state := .down }).command .retrain) (fun h => { h with }) id
      fun _ => .inl (h rfl)
  | activate => exact keeps_toActive p s
  | probation =>
    exact keeps_updPair s p (f := fun pp => pp.enterProbation s.now) (fun h => h.enterProbation s.now) id fun h => absurd (show PairState.probation.running = false from h) (by decide)
  | drain => exact keeps_beginDrain p s
  | off c => exact (blockFrame_depart ..).keeps fun he => empty_depart (he.but p) ..

theorem toActive_pair_ne {p q : PairIx} (h : q ≠ p) (s : State) : (toActive p s).pair q = s.pair q := by
  unfold toActive
  dsimp only
  rw [(onlyReported_raiseEvent _ _ _).pair, (onlyReported_touch _ _).pair, State.updPair_pair_ne _ _ _ _ h]
  split <;> rfl

/-- A pair's move leaves the other pairs alone. -/
theorem makeMove_pair_ne {p q : PairIx} (h : q ≠ p) (keep : Bool) (m : CommitMove) (s : State) :
    (makeMove keep p m s).pair q = s.pair q := by
  cases m with
  | stay => rfl
  | retrain => exact State.updPair_pair_ne _ _ _ _ h
  | activate => exact toActive_pair_ne h s
  | probation => exact State.updPair_pair_ne _ _ _ _ h
  | drain =>
    change (drainCheck p ((touchGroup 0x07 s).updPair p _)).pair q = s.pair q
    rw [drainCheck_pair, if_neg (fun hq => h hq.1), State.updPair_pair_ne _ _ _ _ h]
    exact (onlyReported_touch _ _).pair q
  | off c => exact (depart_pair ..).trans (if_neg h)

theorem keeps_moves (keep : Bool) (f : PairIx → CommitMove) {ps : List PairIx} (hn : ps.Nodup) {s : State}
    (h : ∀ p ∈ ps, f p = .retrain → (s.pair p).state.running = false) :
    Keeps s ((ps.map fun p => (p, f p)).foldl (fun s m => makeMove keep m.1 m.2 s) s) := by
  induction ps generalizing s with
  | nil => exact .refl s
  | cons p ps ih =>
    obtain ⟨hp, hps⟩ := List.nodup_cons.mp hn
    refine (keeps_makeMove keep p (f p) (h p List.mem_cons_self)).trans (ih hps fun q hq hf => ?_)
    rw [makeMove_pair_ne (fun (e : q = p) => hp (e ▸ hq))]
    exact h q (List.mem_cons_of_mem _ hq) hf

/-- A pair is sent to retrain only from OFF (R12). -/
theorem commitMove_retrain {s : State} {p : PairIx} (h : commitMove s p = .retrain) : (s.pair p).state = .off := by
  cases hs : (s.pair p).state with
  | off => rfl
  | _ => simp only [commitMove, hs] at h; split_ifs at h

theorem keeps_touchMoves (s : State) : Keeps s (touchMoves s) :=
  (keeps_touchAll _ s).trans ((keeps_ite (fun _ => keeps_touchGroup _ _) fun _ => .refl _).trans
    ((keeps_ite (fun _ => keeps_touchGroup _ _) fun _ => .refl _).trans (keeps_touchGroup _ _)))

theorem keeps_movePairs (s : State) : Keeps s (movePairs s) :=
  (keeps_touchMoves s).trans (keeps_moves _ _ (by decide) fun p _ h => by rw [commitMove_retrain h]; rfl)

theorem keeps_guardAfterCommit (s : State) (p : PairIx) : Keeps s (guardAfterCommit s p) :=
  keeps_ite (fun _ => keeps_guard s p (f := fun pp => pp.guard.unlock) id id) fun _ => .refl s

theorem keeps_guardsAfterCommit (s : State) : Keeps s (guardsAfterCommit s) :=
  (keeps_ite (fun _ => keeps_touchGroup _ s) fun _ => .refl s).trans (keeps_foldl keeps_guardAfterCommit _ _)

theorem keeps_applyCommit (s : State) : Keeps s (applyCommit s) := by
  refine Keeps.trans ?_ (keeps_attempt _)
  refine ((keeps_commitCopy s).trans ((keeps_commitDone _).trans
    (keeps_noticesAfterCommit s.noticeSides s.events.lastNotice _))).trans ?_
  refine ((keeps_movePairs _).trans ((keeps_guardsAfterCommit _).trans (settles_evaluateGroup _).keeps)).trans ?_
  exact keeps_ite (fun _ => (reasWork_testsN _ _).settles.keeps) fun _ => .refl _

/-! ### The group restart -/

theorem keeps_restartOne (s : State) (p : PairIx) : Keeps s (restartOne s p) :=
  (keeps_ite (fun _ => .refl s) fun _ => keeps_toDown p _ s).trans
    (keeps_guard _ p (f := fun _ => Guard.unlearnt) (fun _ => Nat.zero_le _) fun _ => .inl rfl)

/-- A pair restarted is out of service, and so is every other that was. -/
theorem restartOne_out (s : State) (p q : PairIx) (h : q = p ∨ (s.pair q).state.running = false) :
    ((restartOne s p).pair q).state.running = false := by
  have moved : ((if (s.pair p).state = .off then s else toDown p .groupRestart s).pair q).state.running = false := by
    split
    · next hp => obtain rfl | h := h; exacts [by rw [hp]; rfl, h]
    · rw [toDown_pair]
      split
      · unfold PairPort.departed
        dsimp only [PairPort.command]
        split <;> rfl
      · next hq => exact h.resolve_left hq
  unfold restartOne
  dsimp only
  rw [State.updPair_pair]
  split
  · next e => subst e; exact moved
  · exact moved

theorem foldl_restartOne_out (ps : List PairIx) (s : State) (q : PairIx) (h : q ∈ ps ∨ (s.pair q).state.running = false) :
    ((ps.foldl restartOne s).pair q).state.running = false := by
  induction ps generalizing s with
  | nil => simpa using h
  | cons p ps ih =>
    refine ih (restartOne s p) ?_
    obtain h | h := h
    · exact (List.mem_cons.mp h).elim (fun e => .inr (restartOne_out s p q (.inl e))) .inl
    · exact .inr (restartOne_out s p q (.inr h))

theorem keeps_copyRestartBound (i : Fin 19) (s : State) : Keeps s (copyRestartBound i s) :=
  (keeps_touch _ s).trans (keeps_updTables _ _)

theorem keeps_groupRestartNow (s : State) : Keeps s (groupRestartNow s) := by
  have restarted : Keeps s (allPairs.foldl restartOne s) := keeps_foldl keeps_restartOne _ s
  have out : ∀ q, ((allPairs.foldl restartOne s).pair q).state.running = false := fun q =>
    foldl_restartOne_out _ s q (.inl (mem_allPairs q))
  unfold groupRestartNow
  dsimp only
  refine Keeps.trans (restarted.trans ?_) (((keeps_copyRestartBound 0 _).trans (keeps_copyRestartBound 1 _)).trans
    ((keeps_touchGroup 0x02 _).trans (keeps_raiseEvent _ _ _)))
  generalize allPairs.foldl restartOne s = x at out
  obtain ⟨ct, cp, cd, -⟩ := clearDistributor_spec (x.setGroup false)
  obtain ⟨ft, fp, fd, -⟩ := flushClassifier_spec (clearDistributor (x.setGroup false))
  refine Keeps.trans (BlockFrame.keeps ?_ fun he => ?_) (keeps_updReas _ _)
  · exact ((setGroup_down x).trans (ct.toBlockFrame.trans ft.toBlockFrame)).trans (blockFrame_updDist _ _)
  · have pairs : (flushClassifier (clearDistributor (x.setGroup false))).pairs = x.pairs := fp.trans cp
    have list : (flushClassifier (clearDistributor (x.setGroup false))).dist = x.dist.cleared := fd.trans cd
    generalize flushClassifier (clearDistributor (x.setGroup false)) = y at pairs list
    have held : ∀ q, (y.pair q).HoldsNone := fun q => by
      rw [State.pair_congr pairs]
      exact he.outOfService q (out q)
    refine ⟨fun q _ => held q, fun _ => held, fun _ => ?_, fun _ => ?_⟩
    · rw [State.updDist_dist, list]; rfl
    · rw [State.updDist_dist, list]; rfl

/-! ### Resets -/

theorem powerUp_pair (straps : BitVec 5) (p : PairIx) : (State.powerUp straps).pair p = PairPort.reset := by
  simp [State.powerUp, State.pair]

theorem inRange_resetAt (now : Nat) (straps : BitVec 5) (s : State) : (resetAt now straps s).InRange where
  pairs p := by
    have h : (resetAt now straps s).pair p = PairPort.reset := powerUp_pair straps p
    rw [h]
    exact { upRate := .inl rfl, downRate := .inl rfl, samples := by decide, latency := by decide, confidence := by decide
            period := .inl rfl }
  ctlQueue := Nat.zero_le _
  boxes b := by
    have h : (resetAt now straps s).ctl.boxes[b.val] = { message := [], keep := false } := by
      simp [resetAt, State.powerUp, ControlEngine.reset]
    rw [h]
    exact Nat.zero_le _

theorem empty_resetAt (now : Nat) (straps : BitVec 5) (s : State) : (resetAt now straps s).EmptyWhenDown where
  outOfService p _ := by
    have h : (resetAt now straps s).pair p = PairPort.reset := powerUp_pair straps p
    rw [h]
    exact ⟨rfl, rfl⟩
  stores _ p := by
    have h : (resetAt now straps s).pair p = PairPort.reset := powerUp_pair straps p
    rw [h]
    exact ⟨rfl, rfl⟩
  reroute _ := rfl
  inProgress _ := rfl

theorem keeps_resetAt (now : Nat) (straps : BitVec 5) (s : State) : Keeps s (resetAt now straps s) :=
  ⟨fun _ => inRange_resetAt now straps s, fun _ => empty_resetAt now straps s⟩

/-! ### Every command -/

/-- Any next state of an outcome keeps both invariants. -/
def Answers (s : State) (o : Host.Outcome State Fault Refusal) : Prop := ∀ t, o = .next t → Keeps s t

theorem Keeps.answers {s t : State} (h : Keeps s t) : Answers s (.next t) := fun _ e => by cases e; exact h

/-- A command at time `tm` that ends with the distributor's work. -/
theorem Keeps.finished {s t : State} {tm : Nat} (h : Keeps (s.atTime tm) t) : Answers s (.next (finish t)) :=
  ((keeps_atTime s tm).trans (h.trans (keeps_finish t))).answers

/-- A command that does nothing but let time pass. -/
theorem answers_idle (s : State) (tm : Nat) : Answers s (.next (finish (s.atTime tm))) := (Keeps.refl _).finished

theorem answers_ite {s : State} {x y : Host.Outcome State Fault Refusal} {b : Prop} [Decidable b] (hx : b → Answers s x)
    (hy : ¬b → Answers s y) : Answers s (if b then x else y) := by
  split
  · next h => exact hx h
  · next h => exact hy h

section pairs

variable (tm : Nat) (p : PairIx) (s : State)

theorem answers_trainStart : Answers s (execTrainStart tm p s) := by
  unfold execTrainStart
  dsimp only
  split
  · exact answers_idle s tm
  · exact answers_idle s tm
  · next hst =>
    refine Keeps.finished (tm := tm) (Keeps.trans ?_ (keeps_pairChanged _))
    exact keeps_updPair _ p (fun h => { h with }) id fun _ => .inl (by rw [hst]; rfl)
  · exact (keeps_lose p _ _).finished

theorem answers_up (u d : Nat) : Answers s (execUp tm p u d s) := by
  unfold execUp
  dsimp only
  split
  · exact answers_idle s tm
  · exact (keeps_enterService p u d _).finished
  · exact (keeps_enterService p u d _).finished
  · exact (keeps_takeRate p u d _).finished

theorem answers_rate (u d : Nat) : Answers s (execRate tm p u d s) :=
  answers_ite (fun _ => (keeps_takeRate p u d _).finished) fun _ => answers_idle s tm

theorem answers_down : Answers s (execDown tm p s) := by
  unfold execDown
  dsimp only
  split
  · exact answers_idle s tm
  · exact answers_idle s tm
  · exact (keeps_lose p _ _).finished

theorem answers_ready : Answers s (execReady tm p s) :=
  answers_ite (fun _ => answers_ite (fun _ => ((keeps_touchHandOff p _).trans (keeps_handOut p _)).finished)
    fun _ => (keeps_touchHandOff p _).finished) fun _ => answers_idle s tm

theorem answers_received (bytes : List Byte) : Answers s (execReceived tm p bytes s) :=
  answers_ite (fun _ => (keeps_receive p bytes _).finished) fun _ => answers_idle s tm

theorem answers_silence : Answers s (execSilence tm p s) := by
  have read : Keeps (s.atTime tm) (if ((s.atTime tm).pair p).state.running then useGroup 0x05 (s.atTime tm) else s.atTime tm) :=
    keeps_ite (fun _ => keeps_useGroup _ _) fun _ => .refl _
  exact answers_ite (fun _ => (read.trans (keeps_lose p _ _)).finished) fun _ => read.finished

theorem answers_replayTimeout : Answers s (execReplayTimeout tm p s) := by
  have read : Keeps (s.atTime tm) (if ((s.atTime tm).pair p).waiting.isSome then useGroup 0x04 (s.atTime tm) else s.atTime tm) :=
    keeps_ite (fun _ => keeps_useGroup _ _) fun _ => .refl _
  unfold execReplayTimeout
  dsimp only
  split
  · next x _ =>
    refine (read.trans (Keeps.trans ?_ (keeps_attempt _))).finished
    exact keeps_updPair_same _ p (fun h => { h with }) rfl rfl rfl
  · exact read.finished

theorem answers_drainLimit : Answers s (execDrainLimit tm p s) :=
  answers_ite (fun _ => ((keeps_toOff p _ _).trans (keeps_pairChanged _)).finished) fun _ => answers_idle s tm

theorem answers_guardWindowOpen : Answers s (execGuardWindowOpen tm p s) := by
  have read : Keeps (s.atTime tm)
      (if ((s.atTime tm).pair p).guard.awaitsWindow.isSome then useGroup 0x08 (s.atTime tm) else s.atTime tm) :=
    keeps_ite (fun _ => keeps_useGroup _ _) fun _ => .refl _
  unfold execGuardWindowOpen
  dsimp only
  split
  · exact (read.trans ((keeps_openWindow p _ _).trans (keeps_attempt _))).finished
  · exact read.finished

theorem answers_guardWindowEnd : Answers s (execGuardWindowEnd tm p s) := by
  unfold execGuardWindowEnd
  dsimp only
  split
  · exact ((keeps_closeWindow p _ _).trans (keeps_attempt _)).finished
  · exact answers_idle s tm

end pairs

section blocks

variable (tm : Nat) (s : State)

theorem answers_farmFrameEnd : Answers s (execFarmFrameEnd tm s) := by
  unfold execFarmFrameEnd
  dsimp only
  split
  · exact (keeps_frameEnd _ _).finished
  · exact answers_idle s tm

theorem answers_farmTransmitStart : Answers s (execFarmTransmitStart tm s) := by
  unfold execFarmTransmitStart
  dsimp only
  split
  · exact (keeps_beginTx _ _).finished
  · exact answers_idle s tm

theorem answers_farmTransmitEnd : Answers s (execFarmTransmitEnd tm s) := by
  unfold execFarmTransmitEnd
  dsimp only
  split
  · exact (keeps_endTx _ _).finished
  · exact answers_idle s tm

theorem answers_holdDeadline : Answers s (execHoldDeadline tm s) :=
  answers_ite (fun _ => ((reasWork_declareGap _ _).trans (reasWork_testsN _ _)).settles.keeps.finished) fun _ => answers_idle s tm

theorem answers_resyncDeadline : Answers s (execResyncDeadline tm s) := by
  unfold execResyncDeadline
  dsimp only
  split
  · exact (settles_resyncNow _ _).keeps.finished
  · exact answers_idle s tm

theorem answers_suspensionEnd : Answers s (execSuspensionEnd tm s) :=
  answers_ite (fun _ => ((keeps_updReas _ _).trans (reasWork_testShortcut _).settles.keeps).finished) fun _ => answers_idle s tm

theorem answers_shadowTableWrite (a v : Word) : Answers s (execShadowTableWrite tm a v s) := by
  unfold execShadowTableWrite
  dsimp only
  split
  · exact (keeps_storeShadow _ v _).finished
  · exact (keeps_storeShadow _ v _).finished
  · exact (keeps_storeShadow _ v _).finished
  · exact answers_idle s tm

theorem answers_tableMemoryError (a : Word) (two : Bool) : Answers s (execTableMemoryError tm a two s) := by
  unfold execTableMemoryError
  dsimp only
  split
  · exact (keeps_memoryError _ two _).finished
  · exact answers_idle s tm

theorem keeps_executeFrame (f : CtlFrame) (s : State) : Keeps s (executeFrame f s) := by
  unfold executeFrame
  split
  · exact (keeps_bump s _).trans (keeps_respond f _ _ _)
  · next rs _ => exact (keeps_frameRequests f.origin _ rs (s, [])).trans (keeps_respond f _ _ _)

theorem answers_controlFrameExecute : Answers s (execControlFrameExecute tm s) := by
  unfold execControlFrameExecute
  dsimp only
  split
  · exact (keeps_executeFrame _ _).finished
  · exact answers_idle s tm

theorem answers_groupRestartEffect : Answers s (execGroupRestartEffect tm s) :=
  answers_ite (fun _ => ((keeps_updCtl _ _ rfl rfl).trans (keeps_groupRestartNow _)).finished) fun _ => answers_idle s tm

theorem answers_partResetEffect (straps : BitVec 5) : Answers s (execPartResetEffect tm straps s) :=
  answers_ite (fun _ => ((keeps_atTime s tm).trans (keeps_resetAt _ straps _)).answers) fun _ => answers_idle s tm

end blocks

/-- Every command keeps both invariants. -/
theorem answers_exec (c : Instr) (s : State) : Answers s (exec c s) := by
  cases c with
  | powerUpReset straps => exact (keeps_resetAt 0 straps s).answers
  | trainStart tm p => exact answers_trainStart tm p s
  | up tm p u d => exact answers_up tm p s u d
  | rate tm p u d => exact answers_rate tm p s u d
  | down tm p => exact answers_down tm p s
  | ready tm p => exact answers_ready tm p s
  | received tm p bytes => exact answers_received tm p s bytes
  | probationTimeExpiry tm p => exact (keeps_examine p (s.atTime tm)).finished
  | silence tm p => exact answers_silence tm p s
  | replayTimeout tm p => exact answers_replayTimeout tm p s
  | drainLimit tm p => exact answers_drainLimit tm p s
  | guardWindowOpen tm p => exact answers_guardWindowOpen tm p s
  | guardWindowEnd tm p => exact answers_guardWindowEnd tm p s
  | farmByteArrival tm b => exact (keeps_farmByte b (s.atTime tm)).finished
  | farmFrameEnd tm => exact answers_farmFrameEnd tm s
  | pauseEnd tm => exact answers_ite (fun _ => (keeps_updFarm _ _).finished) fun _ => answers_idle s tm
  | farmTransmitStart tm => exact answers_farmTransmitStart tm s
  | farmTransmitEnd tm => exact answers_farmTransmitEnd tm s
  | rerouteAgeLimit tm => exact answers_ite (fun _ => (keeps_attempt _).finished) fun _ => answers_idle s tm
  | holdDeadline tm => exact answers_holdDeadline tm s
  | resyncDeadline tm => exact answers_resyncDeadline tm s
  | suspensionEnd tm => exact answers_suspensionEnd tm s
  | commitApply tm => exact answers_ite (fun _ => (keeps_applyCommit _).finished) fun _ => answers_idle s tm
  | digestDone tm => exact answers_ite (fun _ => (keeps_digestEnds _).finished) fun _ => answers_idle s tm
  | controlFrameExecute tm => exact answers_controlFrameExecute tm s
  | read tm o tag a len => exact (keeps_single .read tm o tag a len [] s).answers
  | write tm o tag a data => exact (keeps_single .write tm o tag a _ data s).answers
  | writePosted tm o tag a data => exact (keeps_single .writePosted tm o tag a _ data s).answers
  | maskWrite tm o tag a data => exact (keeps_single .maskWrite tm o tag a _ data s).answers
  | maskWritePosted tm o tag a data => exact (keeps_single .maskWritePosted tm o tag a _ data s).answers
  | swapIf tm o tag a data => exact (keeps_single .swapIf tm o tag a _ data s).answers
  | addSat tm o tag a data => exact (keeps_single .addSat tm o tag a _ data s).answers
  | addSatPosted tm o tag a data => exact (keeps_single .addSatPosted tm o tag a _ data s).answers
  | commit tm o tag a data => exact (keeps_single .commit tm o tag a _ data s).answers
  | digest tm o tag a data => exact (keeps_single .digest tm o tag a _ data s).answers
  | eventNext tm o tag a data => exact (keeps_single .eventNext tm o tag a _ data s).answers
  | eventClear tm o tag a data => exact (keeps_single .eventClear tm o tag a _ data s).answers
  | pairRestart tm o tag a data => exact (keeps_single .pairRestart tm o tag a _ data s).answers
  | groupRestart tm o tag a data => exact (keeps_single .groupRestart tm o tag a _ data s).answers
  | partReset tm o tag a data => exact (keeps_single .partReset tm o tag a _ data s).answers
  | boxPost tm o tag a data => exact (keeps_single .boxPost tm o tag a _ data s).answers
  | boxTake tm o tag a data => exact (keeps_single .boxTake tm o tag a _ data s).answers
  | boxRelease tm o tag a data => exact (keeps_single .boxRelease tm o tag a _ data s).answers
  | shadowTableWrite tm a v => exact answers_shadowTableWrite tm s a v
  | gateRecordWrite tm v => exact (keeps_storeGate v _).finished
  | eccStatusWrite tm second v => exact (keeps_storePlace v _ _).finished
  | eventEnableWrite tm v => exact (keeps_storeEnable v _).finished
  | keepFlagWrite tm b v => exact (keeps_storeKeep b v _).finished
  | counterWrite tm a v => exact (keeps_storePlace v _ _).finished
  | groupRestartEffect tm => exact answers_groupRestartEffect tm s
  | partResetEffect tm straps => exact answers_partResetEffect tm s straps
  | noticeIntervalEnd tm => exact answers_ite (fun _ => (keeps_intervalEnd _).finished) fun _ => answers_idle s tm
  | tableMemoryError tm a two => exact answers_tableMemoryError tm s a two

/-- Every step keeps both invariants. -/
theorem keeps_step {s t : State} (h : step s = .next t) : Keeps s t := by
  unfold step at h
  split at h
  · next c rest _ => exact Keeps.trans (t := { s with pending := rest }) (keeps_of_same rfl rfl rfl rfl rfl rfl) (answers_exec c _ t h)
  · split at h
    · next c _ _ => exact answers_exec c s t h
    · cases h; exact .refl s

/-- Settles O5, from the ranges' half of `keeps_step`. -/
theorem stepKeepsRanges : Obligations.StepKeepsRanges := fun _ _ hs h => (keeps_step h).ranges hs

/-- Settles O6, from the emptiness' half of `keeps_step`. -/
theorem stepKeepsEmptyWhenDown : Obligations.StepKeepsEmptyWhenDown := fun _ _ hs h => (keeps_step h).empty hs

end Sys2Proof.Machine
end

section
/-! PROOFS of the family 01: the values after reset, the invariants there, and what the resets do. Settles O3, O4 and O58. -/

namespace Sys2Proof.Machine

/-! ### The parts of the state after a power-up reset -/

theorem powerUp_queue (straps : BitVec 5) (c : ClassIx) : (State.powerUp straps).queue c = [] := by
  simp [State.powerUp, State.queue]

theorem reset_pair (p : PairIx) : State.reset.pair p = PairPort.reset := powerUp_pair 0 p

theorem reset_group (digit : BitVec 4) (c : Copy) (i : Fin 19) :
    ((TableStore.reset digit).get (.group c i)).val = groupDefault digit i := by
  cases c <;> simp [TableStore.reset, TableStore.get]

theorem reset_pairEntry (digit : BitVec 4) (c : Copy) (p : PairIx) (j : Fin 2) :
    ((TableStore.reset digit).get (.pair c p j)).val = pairDefault j := by
  fin_cases p <;> fin_cases j <;> cases c <;> rfl

theorem reset_classEntry (digit : BitVec 4) (c : Copy) (i : Fin 64) (j : Fin 2) :
    ((TableStore.reset digit).get (.cls c i j)).val = 0 := by
  cases c <;> simp [TableStore.reset, TableStore.get, clsDefault]

theorem reset_box (b : Fin 2) : ControlEngine.reset.boxes[b.val] = { message := [], keep := false } := by
  simp [ControlEngine.reset]

theorem reset_event (k : EventKind) :
    State.reset.event k = { isPending := false, enabled := true, detail := { w1 := 0, w2 := 0, w3 := 0 }, count := 0 } := by
  simp [State.event, State.reset, State.powerUp, EventUnit.reset]

/-- Settles O3, part by part of the state. -/
theorem resetState : Obligations.ResetState := by
  refine ⟨fun p => ?_, rfl, rfl, rfl, powerUp_queue 0, rfl, by decide, rfl, rfl, rfl, rfl, by decide, rfl,
    fun i => ⟨reset_group _ _ i, reset_group _ _ i⟩, fun p j => ⟨reset_pairEntry _ _ p j, reset_pairEntry _ _ p j⟩,
    fun i j => ⟨reset_classEntry _ _ i j, reset_classEntry _ _ i j⟩, by decide, rfl, rfl, rfl, rfl, rfl, rfl, rfl, reset_box,
    reset_event, rfl, rfl⟩
  rw [reset_pair]
  exact ⟨rfl, rfl, rfl, rfl, rfl, rfl, rfl, rfl, rfl, rfl, rfl, rfl, rfl, rfl, rfl⟩

/-! ### The invariants at reset -/

theorem within_reset : State.reset.WithinMemory := ⟨by decide, by decide, by decide⟩

theorem window_reset : State.reset.WindowKept where
  words c := by
    have h : (State.reset.tables.get (.group c 1)).val = groupDefault 0 1 := reset_group _ c 1
    rw [h]
    decide
  distinct := List.nodup_nil
  size h := by cases h
  span h := by cases h

/-- Settles O4: the ranges and the emptiness as after any reset, the two memories and the window empty. -/
theorem resetMeetsInvariants : Obligations.ResetMeetsInvariants :=
  ⟨inRange_resetAt 0 0 State.reset, empty_resetAt 0 0 State.reset, within_reset, window_reset, sound_reset _⟩

/-! ### The resets -/

/-- A frame being received is abandoned, and none is received that was not (R73). -/
theorem afterReset_rx (f : FarmPort) (rx : Option RxFrame) :
    ((f.afterReset rx).rx = none ↔ rx = none) ∧ ∀ r, (f.afterReset rx).rx = some r → r.kind = .abandoned := by
  unfold FarmPort.afterReset
  refine ⟨Option.map_eq_none_iff, fun r h => ?_⟩
  obtain ⟨r', -, rfl⟩ := Option.map_eq_some_iff.mp h
  rfl

theorem exec_partReset {s : State} {tm : Nat} (straps : BitVec 5) (h : s.ctl.dueRestart = some .part) :
    exec (.partResetEffect tm straps) s = .next (resetAt (max s.now tm) straps (s.atTime tm)) := if_pos h

/-- Settles O58: both commands come to `resetAt`. -/
theorem resetsTaken : Obligations.ResetsTaken := by
  intro s tm straps c now h
  have taken : ∃ x, exec c s = .next (resetAt now straps x) ∧ x.farm.rx = s.farm.rx ∧ x.pending = s.pending
      ∧ x.freeCount = s.freeCount := by
    obtain ⟨rfl, rfl⟩ | ⟨rfl, hdue, rfl⟩ := h
    · exact ⟨s, rfl, rfl, rfl, rfl⟩
    · exact ⟨s.atTime tm, exec_partReset straps hdue, rfl, rfl, rfl⟩
  obtain ⟨x, hx, hrx, hp, hf⟩ := taken
  obtain ⟨rx_none, rx_some⟩ := afterReset_rx (State.powerUp straps).farm x.farm.rx
  refine ⟨_, hx, rfl, rfl, rfl, powerUp_pair straps, powerUp_queue straps, rfl, rfl, rfl, rfl, rfl, rfl, rfl, rfl, rfl, rfl, ?_, ?_, hp, hf⟩
  · rw [← hrx]; exact rx_none
  · exact rx_some

end Sys2Proof.Machine
end

section
/-! PROOFS of the family 01: on sound table memory, the evaluation of the group, what a departure comes to, and what both raise
(R11, R43, R89, R113, R119, R122, R123). -/

namespace Sys2Proof.Machine

/-! ### Fields of the group record -/

theorem State.groupWord_congr {s t : State} (ht : t.tables = s.tables) (hd : t.digit = s.digit) (i : Fin 19) :
    t.groupWord i = s.groupWord i := by
  unfold State.groupWord State.word?; rw [ht, hd]

theorem State.minPairs_congr {s t : State} (ht : t.tables = s.tables) (hd : t.digit = s.digit) : t.minPairs = s.minPairs := by
  unfold State.minPairs; rw [State.groupWord_congr ht hd]

theorem State.holdTime_congr {s t : State} (ht : t.tables = s.tables) (hd : t.digit = s.digit) : t.holdTime = s.holdTime := by
  unfold State.holdTime; rw [State.groupWord_congr ht hd]

theorem BlockFrame.minPairs {s t : State} (h : BlockFrame s t) (hs : s.tables.Sound) : t.minPairs = s.minPairs :=
  State.minPairs_congr (h.sound hs) h.digit

theorem BlockFrame.holdTime {s t : State} (h : BlockFrame s t) (hs : s.tables.Sound) : t.holdTime = s.holdTime :=
  State.holdTime_congr (h.sound hs) h.digit

theorem BlockFrame.isSound {s t : State} (h : BlockFrame s t) (hs : s.tables.Sound) : t.tables.Sound := by
  rw [h.sound hs]; exact hs

theorem State.activeCount_congr {s t : State} (h : ∀ q, (t.pair q).state = .active ↔ (s.pair q).state = .active) :
    t.activeCount = s.activeCount := by
  unfold State.activeCount
  simp only [h]

/-- The ACTIVE pairs of a state in which `p` is not ACTIVE and every other pair is as it was. -/
theorem State.activeCount_without {s t : State} {p : PairIx} (hp : (t.pair p).state ≠ .active)
    (h : ∀ q, q ≠ p → t.pair q = s.pair q) : t.activeCount = s.othersActive p := by
  unfold State.activeCount State.othersActive
  congr 1
  refine List.filter_congr fun q _ => ?_
  by_cases e : q = p
  · subst e; simp [hp]
  · simp [h q e, e]

/-! ### Events that departures and the group's fall raise -/

/-- A kind that no read raises. -/
def EventKind.NoFinding (k : EventKind) : Prop := k ≠ .tableDamaged ∧ k ≠ .eccCorrected

theorem MetTables.event {s t : State} (h : MetTables s t) {k : EventKind} (hk : k.NoFinding) : t.event k = s.event k :=
  h.events k hk.1 hk.2

theorem event_suspendShortcut {k : EventKind} (hk : k.NoFinding) (s : State) : (suspendShortcut s).event k = s.event k :=
  (metTables_touch _ s).event hk

theorem event_giveUp (p : PairIx) (keep : Bool) (s : State) (k : EventKind) : (giveUp p keep s).event k = s.event k := by
  obtain ⟨l, -, c, rs, h⟩ := giveUp_shape p keep s
  rw [h]; rfl

/-- A departure raises PAIR_DOWN and no other kind (R11). -/
theorem event_depart (p : PairIx) (left target : PairState) (cause : Cause) (cmd : XcvrCmd) (keep : Bool) (s : State)
    {k : EventKind} (hk : k.NoFinding) :
    (depart p left target cause cmd keep s).event k
      = if k = .pairDown then (s.event .pairDown).occur (detail1 (byteFields p.val cause.code left.code 0)) else s.event k := by
  have raised := raiseEvent_event (k := .pairDown) (detail1 (byteFields p.val cause.code left.code 0))
    (departPort p target cause cmd keep s) k hk.1 hk.2
  have given : ∀ j, (departPort p target cause cmd keep s).event j = s.event j := event_giveUp p keep s
  rw [given, given] at raised
  unfold depart
  dsimp only
  split
  · exact (event_suspendShortcut hk _).trans raised
  · exact raised

/-- A drain's end raises nothing but PAIR_DOWN, and that only of a draining pair (R13). -/
theorem event_drainCheck (p : PairIx) (s : State) {k : EventKind} (hk : k.NoFinding)
    (h : k ≠ .pairDown ∨ (s.pair p).state ≠ .draining) : (drainCheck p s).event k = s.event k := by
  unfold drainCheck drained
  split
  · next hd => rw [event_depart _ _ _ _ _ _ _ hk, if_neg (h.resolve_right (not_not_intro hd.1))]
  · rfl

theorem event_foldl_drainCheck (ps : List PairIx) (s : State) {k : EventKind} (hk : k.NoFinding)
    (h : k ≠ .pairDown ∨ ∀ q, (s.pair q).state ≠ .draining) : (ps.foldl (fun s p => drainCheck p s) s).event k = s.event k := by
  induction ps generalizing s with
  | nil => rfl
  | cons p ps ih =>
    rw [List.foldl_cons, ih, event_drainCheck p s hk (h.imp_right fun hq => hq p)]
    refine h.imp_right fun hq q => ?_
    rw [drainCheck_pair, if_neg fun hc => hq p hc.2.1]
    exact hq q

theorem event_fallBlocks (s : State) {k : EventKind} (hk : k.NoFinding)
    (h : k ≠ .pairDown ∨ ∀ q, (s.pair q).state ≠ .draining) : (fallBlocks s).event k = s.event k := by
  obtain ⟨tidy, hp, -⟩ := cleared_spec s
  rw [fallBlocks_eq, event_foldl_drainCheck _ _ hk, tidy.toMetTables.event hk]
  exact h.imp_right fun hq q => by rw [hp]; exact hq q

/-- The group's fall raises GROUP_DOWN, and PAIR_DOWN only where a drain ends (R122, R124). -/
theorem event_groupFall (s : State) {k : EventKind} (hk : k.NoFinding)
    (h : k ≠ .pairDown ∨ ∀ q, (s.pair q).state ≠ .draining) :
    (groupFall s).event k
      = if k = .groupDown then (s.event .groupDown).occur (detail1 (byteFields s.activeCount s.minPairs
          (if s.tables.groupDamaged then FallReason.damaged else FallReason.pairs).code 0)) else s.event k := by
  unfold groupFall raiseGroupDown
  dsimp only
  rw [event_fallBlocks _ hk, raiseEvent_event _ _ _ hk.1 hk.2]
  · rfl
  · exact h.imp_right fun hq q => by rw [(onlyReported_raiseEvent _ _ _).pair]; exact hq q

theorem event_groupRise (s : State) {k : EventKind} (hk : k.NoFinding) :
    (groupRise s).event k
      = if k = .groupUp then (s.event .groupUp).occur (detail1 (byteFields s.activeCount s.minPairs 0 0)) else s.event k := by
  unfold groupRise
  dsimp only
  exact raiseEvent_event _ _ _ hk.1 hk.2

/-! ### The suspension of the shortcut -/

/-- No drain can end, or the shortcut is suspended for as long as one would have it (R113). -/
def State.SuspensionHeld (s : State) : Prop :=
  (∀ q, (s.pair q).state ≠ .draining) ∨ ∃ e, s.reas.suspension = some e ∧ s.now + s.holdTime ≤ e

theorem State.SuspensionHeld.congr {s t : State} (h : s.SuspensionHeld) (hp : ∀ q, (t.pair q).state = .draining → (s.pair q).state = .draining)
    (hr : t.reas.suspension = s.reas.suspension) (hn : t.now = s.now) (ht : t.holdTime = s.holdTime) : t.SuspensionHeld := by
  unfold State.SuspensionHeld
  rw [hr, hn, ht]
  exact h.imp_left fun hq q hd => hq q (hp q hd)

/-- The shortcut suspended on sound table memory (R113). -/
theorem suspendShortcut_sound {s : State} (h : s.tables.Sound) :
    suspendShortcut s = s.updReas fun r => { r with suspension := some (max (r.suspension.getD 0) (s.now + s.holdTime)) } := by
  unfold suspendShortcut
  rw [touchGroup_sound h]

theorem depart_reas {s : State} (h : s.tables.Sound) (p : PairIx) (left target : PairState) (cause : Cause) (cmd : XcvrCmd)
    (keep : Bool) :
    (depart p left target cause cmd keep s).reas
      = if left.running then { s.reas with suspension := some (max (s.reas.suspension.getD 0) (s.now + s.holdTime)) } else s.reas := by
  obtain ⟨l, -, c, rs, hg⟩ := giveUp_shape p keep s
  have port : (departPort p target cause cmd keep s).tables = s.tables ∧ (departPort p target cause cmd keep s).digit = s.digit
      ∧ (departPort p target cause cmd keep s).now = s.now ∧ (departPort p target cause cmd keep s).reas = s.reas := by
    unfold departPort; rw [hg]; exact ⟨rfl, rfl, rfl, rfl⟩
  obtain ⟨ht, hd, hn, hr⟩ := port
  have reported := onlyReported_raiseEvent .pairDown (detail1 (byteFields p.val cause.code left.code 0))
    (departPort p target cause cmd keep s)
  have tables := raiseEvent_tables .pairDown (detail1 (byteFields p.val cause.code left.code 0)) (ht ▸ h : (departPort p target cause cmd keep s).tables.Sound)
  unfold depart
  change (if left.running then suspendShortcut (raiseEvent .pairDown _ (departPort p target cause cmd keep s)) else
    raiseEvent .pairDown _ (departPort p target cause cmd keep s)).reas = _
  split
  · rw [suspendShortcut_sound (by rw [tables, ht]; exact h), State.updReas_reas,
      State.holdTime_congr (tables.trans ht) (reported.digit.trans hd), reported.reas, reported.now, hr, hn]
  · exact reported.reas.trans hr

theorem suspension_drainCheck {s : State} (h : s.tables.Sound) (hs : s.SuspensionHeld) (p : PairIx) :
    (drainCheck p s).reas.suspension = s.reas.suspension := by
  unfold drainCheck drained
  split
  · next hd =>
    obtain hn | ⟨e, he, hle⟩ := hs
    · exact absurd hd.1 (hn p)
    · rw [depart_reas h, he]
      simp only [PairState.running, if_true, Option.getD_some, Option.some.injEq]
      omega
  · rfl

theorem suspension_foldl_drainCheck (ps : List PairIx) {s : State} (h : s.tables.Sound) (hs : s.SuspensionHeld) :
    (ps.foldl (fun s p => drainCheck p s) s).reas.suspension = s.reas.suspension := by
  induction ps generalizing s with
  | nil => rfl
  | cons p ps ih =>
    have frame := (settles_drainCheck p s).toBlockFrame
    have kept := suspension_drainCheck h hs p
    rw [List.foldl_cons, ih (frame.isSound h), kept]
    refine hs.congr (fun q hq => ?_) kept frame.now (frame.holdTime h)
    rw [drainCheck_pair] at hq
    split at hq
    · cases hq
    · exact hq

/-- The group's fall keeps a suspension, unless it ends a drain that moves its end (R94, R113). -/
theorem suspension_groupFall {s : State} (h : s.tables.Sound) (hs : s.SuspensionHeld) :
    (groupFall s).reas.suspension = s.reas.suspension := by
  unfold groupFall raiseGroupDown
  dsimp only
  generalize hx : raiseEvent .groupDown _ (s.setGroup false) = x
  have reported : OnlyReported (s.setGroup false) x := hx ▸ onlyReported_raiseEvent ..
  have frame : BlockFrame s x := (setGroup_down s).trans (hx ▸ (settles_raiseEvent ..).toBlockFrame)
  obtain ⟨tidy, hp, -, hr⟩ := cleared_spec x
  have all := frame.trans tidy.toBlockFrame
  have kept : (cleared x).reas.suspension = s.reas.suspension := by rw [hr, reported.reas]; rfl
  rw [fallBlocks_eq, suspension_foldl_drainCheck _ (all.isSound h), kept]
  refine hs.congr (fun q hq => ?_) kept all.now (all.holdTime h)
  rw [hp, reported.pair] at hq
  exact hq

/-! ### The evaluation of the group -/

theorem wouldBeUp_sound {s : State} (h : s.tables.Sound) : s.wouldBeUp = decide (s.minPairs ≤ s.activeCount) := by
  unfold State.wouldBeUp; rw [h.group]; rfl

theorem evaluateGroup_sound {s : State} (h : s.tables.Sound) :
    evaluateGroup s = if s.groupUp && !decide (s.minPairs ≤ s.activeCount) then groupFall s
      else if !s.groupUp && decide (s.minPairs ≤ s.activeCount) then groupRise s else s := by
  unfold evaluateGroup
  dsimp only
  rw [touchGroup_sound h, wouldBeUp_sound h]

/-- Where the state recorded agrees with the count, an evaluation changes nothing (R119). -/
theorem evaluateGroup_agrees {s : State} (h : s.tables.Sound) (hu : s.groupUp = decide (s.minPairs ≤ s.activeCount)) :
    evaluateGroup s = s := by
  rw [evaluateGroup_sound h, ← hu]
  simp

theorem evaluateGroup_falls {s : State} (h : s.tables.Sound) (hu : s.groupUp = true) (hc : s.activeCount < s.minPairs) :
    evaluateGroup s = groupFall s := by
  rw [evaluateGroup_sound h]
  simp [hu, Nat.not_le.mpr hc]

theorem evaluateGroup_rises {s : State} (h : s.tables.Sound) (hu : s.groupUp = false) (hc : s.minPairs ≤ s.activeCount) :
    evaluateGroup s = groupRise s := by
  rw [evaluateGroup_sound h]
  simp [hu, hc]

/-- The three outcomes of an evaluation on sound table memory. -/
inductive Evaluates (s : State) : Prop where
  | agrees (result : evaluateGroup s = s) (same : s.groupUp = decide (s.minPairs ≤ s.activeCount))
  | falls (result : evaluateGroup s = groupFall s) (up : s.groupUp = true) (few : s.activeCount < s.minPairs)
  | rises (result : evaluateGroup s = groupRise s) (down : s.groupUp = false) (enough : s.minPairs ≤ s.activeCount)

theorem evaluates {s : State} (h : s.tables.Sound) : Evaluates s := by
  rcases Nat.lt_or_ge s.activeCount s.minPairs with hc | hc <;> cases hu : s.groupUp
  · have same : s.groupUp = decide (s.minPairs ≤ s.activeCount) := by rw [hu]; simpa using hc
    exact .agrees (evaluateGroup_agrees h same) same
  · exact .falls (evaluateGroup_falls h hu hc) hu hc
  · exact .rises (evaluateGroup_rises h hu hc) hu hc
  · have same : s.groupUp = decide (s.minPairs ≤ s.activeCount) := by rw [hu]; simpa using hc
    exact .agrees (evaluateGroup_agrees h same) same

/-- What an evaluation makes of the ports: all as they were, or all fallen with the group. -/
theorem evaluateGroup_pair {s : State} (h : s.tables.Sound) :
    (∀ q, (evaluateGroup s).pair q = s.pair q)
      ∨ (s.groupUp = true ∧ (evaluateGroup s).groupUp = false ∧ ∀ q, (evaluateGroup s).pair q = (s.pair q).fallen) := by
  obtain ⟨e, -⟩ | ⟨e, up, -⟩ | ⟨e, -, -⟩ := evaluates h <;> rw [e]
  · exact .inl fun _ => rfl
  · exact .inr ⟨up, (groupFall_dist s).2, groupFall_pair s⟩
  · exact .inl (State.pair_congr (groupRise_spec s).1)

/-- A port that holds nothing and does not drain is left as it is. -/
theorem evaluateGroup_pair_of_empty {s : State} (h : s.tables.Sound) {q : PairIx} (hd : (s.pair q).state ≠ .draining)
    (he : (s.pair q).emptied = s.pair q) : (evaluateGroup s).pair q = s.pair q := by
  obtain hall | ⟨-, -, hall⟩ := evaluateGroup_pair h
  · exact hall q
  · rw [hall q, PairPort.fallen_of_ne hd, he]

/-- An evaluation raises GROUP_UP and GROUP_DOWN alone, and PAIR_DOWN where it ends a drain. -/
theorem event_evaluateGroup {s : State} (h : s.tables.Sound) {k : EventKind} (hk : k.NoFinding) (hu : k ≠ .groupUp)
    (hd : k ≠ .groupDown) (hp : k ≠ .pairDown ∨ ∀ q, (s.pair q).state ≠ .draining) : (evaluateGroup s).event k = s.event k := by
  obtain ⟨e, -⟩ | ⟨e, -, -⟩ | ⟨e, -, -⟩ := evaluates h <;> rw [e]
  · rw [event_groupFall s hk hp, if_neg hd]
  · rw [event_groupRise s hk, if_neg hu]

theorem suspension_evaluateGroup {s : State} (h : s.tables.Sound) (hs : s.SuspensionHeld) :
    (evaluateGroup s).reas.suspension = s.reas.suspension := by
  obtain ⟨e, -⟩ | ⟨e, -, -⟩ | ⟨e, -, -⟩ := evaluates h <;> rw [e]
  · exact suspension_groupFall h hs
  · rw [(groupRise_spec s).2.2.2.1]; rfl

/-! ### What follows a pair change -/

/-- A pair change on sound table memory: the group evaluated and the shortcut tested, and then only the distributor's work. -/
def settledAfter (s : State) : State := testShortcut (evaluateGroup s)

theorem settles_settledAfter (s : State) : Settles s (settledAfter s) :=
  (settles_evaluateGroup s).trans (settles_testShortcut _)

theorem onlyPlaced_attempt_finish {s : State} (h : s.tables.Sound) : OnlyPlaced s (finish (attempt s)) :=
  (onlyPlaced_attempt h).trans (onlyPlaced_finish ((onlyPlaced_attempt h).sound h))

theorem onlyPlaced_pairChanged {s : State} (h : s.tables.Sound) : OnlyPlaced (settledAfter s) (pairChanged s) :=
  onlyPlaced_attempt ((settles_settledAfter s).isSound h)

theorem onlyPlaced_pairChanged_finish {s : State} (h : s.tables.Sound) : OnlyPlaced (settledAfter s) (finish (pairChanged s)) :=
  onlyPlaced_attempt_finish ((settles_settledAfter s).isSound h)

theorem settledAfter_pair (s : State) (q : PairIx) : (settledAfter s).pair q = (evaluateGroup s).pair q :=
  State.pair_congr (reasWork_testShortcut _).pairs q

theorem settledAfter_event {s : State} (h : s.tables.Sound) (k : EventKind) :
    (settledAfter s).event k = (evaluateGroup s).event k :=
  State.event_congr (congrArg EventUnit.kinds ((reasWork_testShortcut _).sound ((settles_evaluateGroup s).isSound h)).2) k

theorem settledAfter_suspension (s : State) : (settledAfter s).reas.suspension = (evaluateGroup s).reas.suspension :=
  (reasWork_testShortcut _).suspension

theorem WorkFrame.event {s t : State} (h : WorkFrame s t) (k : EventKind) : t.event k = s.event k :=
  State.event_congr (congrArg EventUnit.kinds h.events) k

end Sys2Proof.Machine
end

section
/-! PROOFS of the family 01: a pair that leaves service on sound table memory, from the departure to the end of the command
(R11, R12, R13, R43, R89, R113, R122). -/

namespace Sys2Proof.Machine

/-! ### A departure -/

/-- A pair leaves service, its fragments kept where the group stays UP without it; `st` is the state in which it no longer counts. -/
def leave (p : PairIx) (st target : PairState) (cause : Cause) (cmd : XcvrCmd) (s : State) : State :=
  depart p (s.pair p).state target cause cmd (decide (s.minPairs ≤ s.othersActive p)) (setPairState p st s)

theorem setPairState_pair_ne {p q : PairIx} (h : q ≠ p) (st : PairState) (s : State) : (setPairState p st s).pair q = s.pair q :=
  State.updPair_pair_ne s p q _ h

theorem wouldBeUp_setPairState {s : State} (h : s.tables.Sound) (p : PairIx) {st : PairState} (hst : st ≠ .active) :
    (setPairState p st s).wouldBeUp = decide (s.minPairs ≤ s.othersActive p) := by
  rw [wouldBeUp_sound (by exact h), State.activeCount_without (s := s) (p := p)]
  · rfl
  · unfold setPairState; rw [State.updPair_pair_same]; exact hst
  · exact fun q hq => setPairState_pair_ne hq st s

theorem leaving_sound {s : State} (h : s.tables.Sound) (p : PairIx) (st : PairState) : leaving p st s = setPairState p st s :=
  touchGroup_sound (by exact h)

theorem toDown_sound {s : State} (h : s.tables.Sound) (p : PairIx) {cause : Cause} (hc : cause ≠ .groupRestart) :
    toDown p cause s
      = leave p .down (if s.adminOn p then .down else .off) cause (if s.adminOn p then .retrain else .quiet) s := by
  rw [toDown_eq, leaving_sound h, wouldBeUp_setPairState h p (by decide), decide_eq_true hc, Bool.true_and]
  rfl

theorem toOff_sound {s : State} (h : s.tables.Sound) (p : PairIx) (cause : Cause) :
    toOff p cause s = leave p .off .off cause .quiet s := by
  rw [toOff_eq, leaving_sound h, wouldBeUp_setPairState h p (by decide)]
  rfl

/-- What a departure makes of the state before the group is evaluated. -/
structure Left (s : State) (p : PairIx) (target : PairState) (cause : Cause) (cmd : XcvrCmd) (y : State) : Prop where
  frame : BlockFrame s y
  pair : ∀ q, y.pair q = if q = p then (s.pair p).departed target cause cmd else s.pair q
  groupUp : y.groupUp = s.groupUp
  list : s.minPairs ≤ s.othersActive p →
    y.dist = { s.dist with reroute := (s.pair p).fragments.foldl (fun l f => insertByGsn s.dist.nextGsn f l) s.dist.reroute }
      ∧ y.counter .rerouted = (s.bumpBy .rerouted (s.pair p).fragments.length).counter .rerouted
  reas : y.reas = if (s.pair p).state.running then
      { s.reas with suspension := some (max (s.reas.suspension.getD 0) (s.now + s.holdTime)) } else s.reas

theorem left_leave {s : State} (h : s.tables.Sound) (p : PairIx) (st target : PairState) (cause : Cause) (cmd : XcvrCmd) :
    Left s p target cause cmd (leave p st target cause cmd s) where
  frame := (blockFrame_updPair s p rfl).trans (blockFrame_depart ..)
  pair q := by
    unfold leave
    rw [depart_pair]
    split
    · unfold setPairState; rw [State.updPair_pair_same]; rfl
    · next hq => exact setPairState_pair_ne hq st s
  groupUp := by obtain ⟨_, -, -, hu⟩ := depart_dist p (s.pair p).state target cause cmd _ (setPairState p st s); exact hu
  list hk := by
    obtain ⟨hd, hc⟩ := depart_kept p (s.pair p).state target cause cmd (setPairState p st s)
    have fragments : ((setPairState p st s).pair p).fragments = (s.pair p).fragments := by
      unfold setPairState; rw [State.updPair_pair_same]; rfl
    unfold leave
    rw [decide_eq_true hk, hd, hc, fragments]
    refine ⟨rfl, ?_⟩
    unfold State.counter
    simp only [bumpBy_counter_congr (s := s) (t := setPairState p st s) rfl]
  reas := depart_reas (s := setPairState p st s) h ..

/-- A departure raises PAIR_DOWN and no other kind (R11). -/
theorem event_leave (p : PairIx) (st target : PairState) (cause : Cause) (cmd : XcvrCmd) (s : State) {k : EventKind}
    (hk : k.NoFinding) :
    (leave p st target cause cmd s).event k
      = if k = .pairDown then (s.event .pairDown).occur (detail1 (byteFields p.val cause.code (s.pair p).state.code 0))
        else s.event k := event_depart p _ target cause cmd _ (setPairState p st s) hk

/-- An event raised after a departure leaves what the departure made as it is. -/
theorem Left.raise {s y : State} {p : PairIx} {target : PairState} {cause : Cause} {cmd : XcvrCmd}
    (h : Left s p target cause cmd y) (k : EventKind) (d : Detail) : Left s p target cause cmd (raiseEvent k d y) :=
  have r := onlyReported_raiseEvent k d y
  { frame := h.frame.trans (settles_raiseEvent k d y).toBlockFrame
    pair := fun q => (r.pair q).trans (h.pair q)
    groupUp := r.groupUp.trans h.groupUp
    list := fun hk => ⟨r.dist.trans (h.list hk).1, (r.counters _ (by decide)).trans (h.list hk).2⟩
    reas := r.reas.trans h.reas }

/-! ### What becomes of the fragments -/

/-- The fragments that a pair gives up, through the evaluation of the group and the distributor's work (R89, R122). -/
theorem gaveBack_of {s y t : State} {p : PairIx} {fs : List Frag} (h : s.tables.Sound) (tables : y.tables = s.tables)
    (digit : y.digit = s.digit) (up : y.groupUp = s.groupUp) (gone : (y.pair p).state ≠ .active) (others : ∀ q, q ≠ p → y.pair q = s.pair q)
    (list : s.minPairs ≤ s.othersActive p →
      y.dist = { s.dist with reroute := fs.foldl (fun l f => insertByGsn s.dist.nextGsn f l) s.dist.reroute }
        ∧ y.counter .rerouted = (s.bumpBy .rerouted fs.length).counter .rerouted)
    (work : OnlyPlaced (settledAfter y) t) : GaveBack s p fs t := by
  have count : y.activeCount = s.othersActive p := State.activeCount_without gone others
  have least : y.minPairs = s.minPairs := State.minPairs_congr tables digit
  have ys : y.tables.Sound := by rw [tables]; exact h
  refine ⟨fun hu hk => ?_, fun hu hk => ?_⟩
  · have agrees : evaluateGroup y = y := evaluateGroup_agrees ys (by rw [up, hu, count, least, decide_eq_true hk])
    obtain ⟨hd, hc⟩ := list hk
    have tested := reasWork_testShortcut y
    have list' : (settledAfter y).dist = y.dist := by unfold settledAfter; rw [agrees]; exact tested.dist
    refine ⟨settledAfter y, fun q hq => ?_, ?_, ?_, ?_, work⟩
    · rw [settledAfter_pair, agrees]; exact others q hq
    · rw [list', hd]
    · rw [list', hd]
    · unfold settledAfter; rw [agrees, tested.rerouted]; exact hc
  · have fell : evaluateGroup y = groupFall y := evaluateGroup_falls ys (up.trans hu) (by rw [count, least]; exact hk)
    have tested := reasWork_testShortcut (groupFall y)
    have after : settledAfter y = testShortcut (groupFall y) := congrArg testShortcut fell
    have empty : (settledAfter y).EmptyWhenDown := by rw [after]; exact tested.settles.empty (empty_groupFall y)
    have down : (settledAfter y).groupUp = false := by rw [after, tested.groupUp]; exact (groupFall_dist y).2
    obtain ⟨w, rfl⟩ := work.frame.down down
    exact ⟨down, empty.reroute down, empty.inProgress down, empty.stores down⟩

theorem State.othersActive_congr {s s' : State} {p : PairIx} (h : ∀ q, q ≠ p → s'.pair q = s.pair q) :
    s'.othersActive p = s.othersActive p := by
  unfold State.othersActive
  congr 1
  refine List.filter_congr fun q _ => ?_
  by_cases e : q = p
  · subst e; simp
  · rw [h q e]

/-- What became of the fragments depends on the group, the other pairs, the distributor and the counters alone. -/
theorem GaveBack.congr {s s' t : State} {p : PairIx} {fs : List Frag} (h : GaveBack s' p fs t) (up : s'.groupUp = s.groupUp)
    (least : s'.minPairs = s.minPairs) (others : ∀ q, q ≠ p → s'.pair q = s.pair q) (dist : s'.dist = s.dist)
    (counters : s'.counters = s.counters) : GaveBack s p fs t where
  rerouted hu hk := by
    have count := State.othersActive_congr others
    obtain ⟨u, kept, hd, list, rose, work⟩ := h.rerouted (up.trans hu) (by rw [least, count]; exact hk)
    rw [dist] at hd list
    refine ⟨u, fun q hq => (kept q hq).trans (others q hq), hd, list, rose.trans ?_, work⟩
    unfold State.counter
    simp only [bumpBy_counter_congr counters]
  discarded hu hk := h.discarded (up.trans hu) (by rw [least, State.othersActive_congr others]; exact hk)

/-- What became of the fragments does not depend on the moment. -/
theorem GaveBack.of_atTime {s t : State} {tm : Nat} {p : PairIx} {fs : List Frag} (h : GaveBack (s.atTime tm) p fs t) :
    GaveBack s p fs t := h.congr rfl rfl (fun _ _ => rfl) rfl rfl

/-! ### To the end of the command -/

/-- Out of service. -/
def PairState.Out (st : PairState) : Prop := st = .down ∨ st = .off

theorem PairPort.emptied_of_departed (pp : PairPort) (target : PairState) (cause : Cause) (cmd : XcvrCmd) :
    (pp.departed target cause cmd).emptied = pp.departed target cause cmd := rfl

/-- The port of a pair that has gone out of service stays so to the end of the command. -/
theorem departed_stays {y t : State} (h : y.tables.Sound) {p : PairIx} {pp : PairPort} {target : PairState} {cause : Cause}
    {cmd : XcvrCmd} (out : target.Out) (port : y.pair p = pp.departed target cause cmd) (work : OnlyPlaced (settledAfter y) t) :
    t.pair p = pp.departed target cause cmd := by
  have state : (y.pair p).state = target := by rw [port]; rfl
  have kept : (settledAfter y).pair p = y.pair p := by
    rw [settledAfter_pair]
    refine evaluateGroup_pair_of_empty h ?_ (by rw [port, PairPort.emptied_of_departed])
    rw [state]; obtain rfl | rfl := out <;> decide
  rw [work.frame.idle p (by rw [kept, state]; obtain rfl | rfl := out <;> decide), kept, port]

section departed

variable {s y t : State} {p : PairIx} {target : PairState} {cause : Cause} {cmd : XcvrCmd} (hs : s.tables.Sound)
  (h : Left s p target cause cmd y) (out : target.Out) (work : OnlyPlaced (settledAfter y) t)

include h in
theorem Left.port : y.pair p = (s.pair p).departed target cause cmd := (h.pair p).trans (if_pos rfl)

include h in
theorem Left.others (q : PairIx) (hq : q ≠ p) : y.pair q = s.pair q := (h.pair q).trans (if_neg hq)

include h in
theorem Left.state : (y.pair p).state = target := by rw [h.port]; rfl

include hs h out work in
/-- The port of a pair that has left service stays so to the end of the command. -/
theorem Left.service : LeftService (s.pair p) (t.pair p) target cause cmd := by
  rw [departed_stays (h.frame.isSound hs) out h.port work]
  exact (s.pair p).leftService_departed target cause cmd

include hs h out work in
theorem Left.gaveBack : GaveBack s p (s.pair p).fragments t :=
  gaveBack_of hs (h.frame.sound hs) h.frame.digit h.groupUp (by rw [h.state]; obtain rfl | rfl := out <;> decide) h.others h.list work

include h out in
/-- No pair but `p` drained. -/
theorem Left.noDrain (hd : ∀ q, q ≠ p → (s.pair q).state ≠ .draining) (q : PairIx) : (y.pair q).state ≠ .draining := by
  by_cases e : q = p
  · subst e; rw [h.state]; obtain rfl | rfl := out <;> decide
  · rw [h.others q e]; exact hd q e

include hs h work in
/-- What an evaluation and the distributor leave of a kind raised. -/
theorem Left.event {k : EventKind} (hk : k.NoFinding) (hu : k ≠ .groupUp) (hd : k ≠ .groupDown)
    (hp : k ≠ .pairDown ∨ ∀ q, (y.pair q).state ≠ .draining) : t.event k = y.event k := by
  have ys := h.frame.isSound hs
  rw [work.frame.event, settledAfter_event ys, event_evaluateGroup ys hk hu hd hp]

include hs h work in
/-- A departure from PROBATION, ACTIVE or DRAINING suspends the shortcut (R113). -/
theorem Left.suspends (hr : (s.pair p).state.running = true) :
    t.reas.suspension = some (max (s.reas.suspension.getD 0) (s.now + s.holdTime)) := by
  have suspended : y.reas.suspension = some (max (s.reas.suspension.getD 0) (s.now + s.holdTime)) := by
    rw [h.reas, if_pos hr]
  rw [work.frame.reas, settledAfter_suspension, suspension_evaluateGroup (h.frame.isSound hs), suspended]
  refine .inr ⟨_, suspended, ?_⟩
  rw [h.frame.now, h.frame.holdTime hs]
  exact le_max_right _ _

include hs h out work in
theorem Left.keepsSuspension (hr : (s.pair p).state.running = false) (hd : ∀ q, (s.pair q).state ≠ .draining) :
    t.reas.suspension = s.reas.suspension := by
  rw [work.frame.reas, settledAfter_suspension, suspension_evaluateGroup (h.frame.isSound hs), h.reas, if_neg (by simp [hr])]
  exact .inl (h.noDrain out fun q _ => hd q)

end departed

/-- PAIR_DOWN raised by a departure stands at the end of the command. -/
theorem pairDownRaised_of {s y t : State} {p : PairIx} {st target : PairState} {cause : Cause} {cmd : XcvrCmd} (hs : s.tables.Sound)
    (h : Left s p target cause cmd y) (out : target.Out) (work : OnlyPlaced (settledAfter y) t)
    (he : y.event .pairDown = (leave p st target cause cmd s).event .pairDown) : PairDownRaised s p cause t := fun hd => by
  have noFinding : EventKind.NoFinding .pairDown := by constructor <;> decide
  rw [h.event hs work noFinding (by decide) (by decide) (.inr (h.noDrain out hd)), he,
    event_leave p st target cause cmd s noFinding]
  rfl

/-! ### The moment of a command -/

theorem byAdmin_out (s : State) (p : PairIx) : PairState.Out (if s.adminOn p then .down else .off) := by
  split
  · exact .inl rfl
  · exact .inr rfl

theorem Left.lose {s : State} (h : s.tables.Sound) (p : PairIx) {cause : Cause} (hc : cause ≠ .groupRestart) :
    Left s p (if s.adminOn p then .down else .off) cause (if s.adminOn p then .retrain else .quiet) (toDown p cause s) := by
  rw [toDown_sound h p hc]
  exact left_leave h ..

theorem Left.toOff {s : State} (h : s.tables.Sound) (p : PairIx) (cause : Cause) :
    Left s p .off cause .quiet (toOff p cause s) := by
  rw [toOff_sound h]
  exact left_leave h ..

end Sys2Proof.Machine
end

section
/-! PROOFS of the family 01: the reports of a transceiver, the departures from service, the restart of a pair, and the end of
PROBATION. Settles O23, O24, O25, O26, O27, O31, O32 and O54. -/

namespace Sys2Proof.Machine

/-! ### Commands that do nothing but let time pass -/

theorem sound_atTime {s : State} (h : s.tables.Sound) (tm : Nat) : (s.atTime tm).tables.Sound := h

/-- A command that comes to nothing leaves the distributor's work alone. -/
theorem passes {s : State} {tm : Nat} {c : Instr} (hs : s.tables.Sound) (h : exec c s = .next (finish (s.atTime tm))) :
    ∃ t, exec c s = .next t ∧ OnlyPlaced (s.atTime tm) t := ⟨_, h, onlyPlaced_finish (sound_atTime hs tm)⟩

section ignored

variable (s : State) (tm : Nat) (p : PairIx) (u d : Nat) (bytes : List Byte)

theorem exec_rate_idle (h : (s.pair p).state.running = false) : exec (.rate tm p u d) s = .next (finish (s.atTime tm)) := by
  simp [exec, execRate, h]

theorem exec_ready_idle (h : (s.pair p).state.running = false) : exec (.ready tm p) s = .next (finish (s.atTime tm)) := by
  simp [exec, execReady, h]

theorem exec_received_idle (h : (s.pair p).state.running = false) :
    exec (.received tm p bytes) s = .next (finish (s.atTime tm)) := by
  simp [exec, execReceived, h]

theorem exec_down_idle (h : (s.pair p).state = .off ∨ (s.pair p).state = .down) :
    exec (.down tm p) s = .next (finish (s.atTime tm)) := by
  obtain h | h := h <;> simp [exec, execDown, h]

theorem exec_trainStart_idle (h : (s.pair p).state = .off ∨ (s.pair p).state = .training) :
    exec (.trainStart tm p) s = .next (finish (s.atTime tm)) := by
  obtain h | h := h <;> simp [exec, execTrainStart, h]

theorem exec_up_idle (h : (s.pair p).state = .off) : exec (.up tm p u d) s = .next (finish (s.atTime tm)) := by
  simp [exec, execUp, h]

end ignored

/-- Settles O23: each report ignored comes to the end of a command alone. -/
theorem reportsIgnored : Obligations.ReportsIgnored := by
  intro s tm p u d bytes hs
  have out : ∀ {st : PairState}, (s.pair p).state = st → st.running = false → (s.pair p).state.running = false := fun e h => e ▸ h
  refine ⟨fun c h hc => passes hs ?_, fun c h hc => passes hs ?_, fun c h hc => passes hs ?_⟩ <;>
    simp only [List.mem_cons, List.not_mem_nil, or_false] at hc
  · obtain rfl | rfl | rfl | rfl | rfl | rfl := hc
    · exact exec_trainStart_idle s tm p (.inl h)
    · exact exec_up_idle s tm p u d h
    · exact exec_rate_idle s tm p u d (out h rfl)
    · exact exec_down_idle s tm p (.inl h)
    · exact exec_ready_idle s tm p (out h rfl)
    · exact exec_received_idle s tm p bytes (out h rfl)
  · obtain rfl | rfl | rfl | rfl := hc
    · exact exec_rate_idle s tm p u d (out h rfl)
    · exact exec_down_idle s tm p (.inr h)
    · exact exec_ready_idle s tm p (out h rfl)
    · exact exec_received_idle s tm p bytes (out h rfl)
  · obtain rfl | rfl | rfl | rfl := hc
    · exact exec_trainStart_idle s tm p (.inr h)
    · exact exec_rate_idle s tm p u d (out h rfl)
    · exact exec_ready_idle s tm p (out h rfl)
    · exact exec_received_idle s tm p bytes (out h rfl)

/-! ### Training and PROBATION -/

/-- The state of a port that does not drain outlasts an evaluation. -/
theorem evaluateGroup_state {s : State} (h : s.tables.Sound) {q : PairIx} (hd : (s.pair q).state ≠ .draining) :
    ((evaluateGroup s).pair q).state = (s.pair q).state := by
  obtain hall | ⟨-, -, hall⟩ := evaluateGroup_pair h
  · rw [hall]
  · rw [hall, PairPort.fallen_of_ne hd]; rfl

/-- The state of a port through the evaluation of the group and the distributor's work. -/
theorem settledAfter_state {s t : State} (h : s.tables.Sound) {q : PairIx} (hd : (s.pair q).state ≠ .draining)
    (work : OnlyPlaced (settledAfter s) t) : (t.pair q).state = (s.pair q).state := by
  obtain ⟨fs, after⟩ := work.frame.pairs q
  rw [after, settledAfter_pair, evaluateGroup_state h hd]

/-- Settles O24: the pair change is the model's `setPairState`. -/
theorem trainStartBeginsTraining : Obligations.TrainStartBeginsTraining := by
  intro s tm p hs hd
  have sound : (setPairState p .training (s.atTime tm)).tables.Sound := hs
  have port : ((setPairState p .training (s.atTime tm)).pair p).state = .training := by
    unfold setPairState; rw [State.updPair_pair_same]
  have work := onlyPlaced_pairChanged_finish sound
  refine ⟨_, by simp [exec, execTrainStart, hd], ?_, work⟩
  rw [settledAfter_state sound (by rw [port]; decide) work, port]

/-- Settles O25: entering service sets what the record holds from then on, and the group's evaluation empties stores alone. -/
theorem upEntersProbation : Obligations.UpEntersProbation := by
  intro s tm p u d hs hst
  have taken : exec (.up tm p u d) s = .next (finish (enterService p u d (s.atTime tm))) := by
    obtain h | h := hst <;> simp [exec, execUp, h]
  generalize hy : (s.atTime tm).updPair p (fun pp =>
    { (pp.enterProbation (s.atTime tm).now) with upRate := clampRate u, downRate := clampRate d, lastHandoff := (s.atTime tm).now }) = y
  have sound : y.tables.Sound := by rw [← hy]; exact hs
  have port : y.pair p = { ((s.pair p).enterProbation (max s.now tm)) with
      upRate := clampRate u, downRate := clampRate d, lastHandoff := max s.now tm } := by rw [← hy, State.updPair_pair_same]; rfl
  have entered : enterService p u d (s.atTime tm) = pairChanged y := by rw [← hy]; rfl
  have work := onlyPlaced_pairChanged_finish sound
  obtain ⟨fs, after⟩ := work.frame.pairs p
  have state : (y.pair p).state ≠ .draining := by rw [port]; simp [PairPort.enterProbation]
  refine ⟨_, by rw [taken, entered], ?_⟩
  rw [after, settledAfter_pair]
  obtain hall | ⟨-, -, hall⟩ := evaluateGroup_pair sound
  · rw [hall, port]
    exact ⟨rfl, rfl, rfl, rfl, rfl, rfl, rfl, rfl, rfl, rfl, rfl, rfl⟩
  · rw [hall, PairPort.fallen_of_ne state, port]
    exact ⟨rfl, rfl, rfl, rfl, rfl, rfl, rfl, rfl, rfl, rfl, rfl, rfl⟩

/-! ### Departures -/

/-- A departure, to the end of its command. -/
structure Departed (s : State) (p : PairIx) (target : PairState) (cause : Cause) (cmd : XcvrCmd) (t : State) : Prop where
  service : LeftService (s.pair p) (t.pair p) target cause cmd
  raised : PairDownRaised s p cause t
  gaveBack : GaveBack s p (s.pair p).fragments t
  suspends : (s.pair p).state.running = true →
    t.reas.suspension = some (max (s.reas.suspension.getD 0) (s.now + s.holdTime))
  keepsSuspension : (s.pair p).state.running = false → (∀ q, (s.pair q).state ≠ .draining) →
    t.reas.suspension = s.reas.suspension

theorem Left.departed {s y t : State} {p : PairIx} {st target : PairState} {cause : Cause} {cmd : XcvrCmd} (hs : s.tables.Sound)
    (h : Left s p target cause cmd y) (out : target.Out) (work : OnlyPlaced (settledAfter y) t)
    (he : y.event .pairDown = (leave p st target cause cmd s).event .pairDown) : Departed s p target cause cmd t where
  service := h.service hs out work
  raised := pairDownRaised_of hs h out work he
  gaveBack := h.gaveBack hs out work
  suspends := h.suspends hs work
  keepsSuspension := h.keepsSuspension hs out work

/-- The departures through DOWN (R7, R11, R20, R42). -/
theorem departed_lose {s : State} (hs : s.tables.Sound) (p : PairIx) {cause : Cause} (hc : cause ≠ .groupRestart) :
    Departed s p (if s.adminOn p then .down else .off) cause (if s.adminOn p then .retrain else .quiet)
      (finish (lose p cause s)) :=
  have left := Left.lose hs p hc
  left.departed (st := .down) hs (byAdmin_out s p) (onlyPlaced_pairChanged_finish (left.frame.isSound hs))
    (by rw [toDown_sound hs p hc])

theorem departed_toOff {s : State} (hs : s.tables.Sound) (p : PairIx) (cause : Cause) :
    Departed s p .off cause .quiet (finish (pairChanged (toOff p cause s))) :=
  have left := Left.toOff hs p cause
  left.departed (st := .off) hs (.inr rfl) (onlyPlaced_pairChanged_finish (left.frame.isSound hs)) (by rw [toOff_sound hs])

/-- A departure at the moment of a command, as the state before the command shows it. -/
theorem Departed.of_atTime {s t : State} {tm : Nat} {p : PairIx} {target : PairState} {cause : Cause} {cmd : XcvrCmd}
    (h : Departed (s.atTime tm) p target cause cmd t) :
    LeftService (s.pair p) (t.pair p) target cause cmd ∧ PairDownRaised s p cause t
      ∧ GaveBack s p ((s.pair p).store.map RetryEntry.frag ++ (s.pair p).txq) t
      ∧ ((s.pair p).state.running = true →
          t.reas.suspension = some (max (s.reas.suspension.getD 0) (max s.now tm + s.holdTime)))
      ∧ ((s.pair p).state.running = false → (∀ q, (s.pair q).state ≠ .draining) → t.reas.suspension = s.reas.suspension) :=
  ⟨h.service, h.raised, h.gaveBack.of_atTime, h.suspends, h.keepsSuspension⟩

theorem exec_down_lose {s : State} (tm : Nat) (p : PairIx) (ho : (s.pair p).state ≠ .off) (hd : (s.pair p).state ≠ .down) :
    exec (.down tm p) s = .next (finish (lose p .lineLost (s.atTime tm))) := by
  cases h : (s.pair p).state with
  | off => exact absurd h ho
  | down => exact absurd h hd
  | _ => simp [exec, execDown, h]

theorem exec_trainStart_lose {s : State} (tm : Nat) (p : PairIx) (hr : (s.pair p).state.running = true) :
    exec (.trainStart tm p) s = .next (finish (lose p .lineLost (s.atTime tm))) := by
  cases h : (s.pair p).state with
  | off => rw [h] at hr; cases hr
  | down => rw [h] at hr; cases hr
  | training => rw [h] at hr; cases hr
  | _ => simp [exec, execTrainStart, h]

/-- On sound table memory the silence limit is tested as it stands (R42). -/
theorem exec_silence {s : State} (hs : s.tables.Sound) (tm : Nat) (p : PairIx) :
    exec (.silence tm p) s = if (s.pair p).state.running = true ∧ (s.pair p).lastHeard + s.silenceLimit ≤ max s.now tm
      then .next (finish (lose p .silence (s.atTime tm))) else .next (finish (s.atTime tm)) := by
  have read : (if ((s.atTime tm).pair p).state.running then useGroup 0x05 (s.atTime tm) else s.atTime tm) = s.atTime tm := by
    rw [useGroup_sound (sound_atTime hs tm), ite_self]
  change (if (State.silenceDue (if _ then _ else _) p) = true then _ else _) = _
  rw [read]
  have due : (s.atTime tm).silenceDue p = true
      ↔ (s.pair p).state.running = true ∧ (s.pair p).lastHeard + s.silenceLimit ≤ max s.now tm := by
    unfold State.silenceDue
    rw [Bool.and_eq_true, decide_eq_true_iff]
    rfl
  simp only [due]

theorem exec_drainLimit {s : State} (tm : Nat) (p : PairIx) :
    exec (.drainLimit tm p) s = if (s.atTime tm).drainDue p then .next (finish (pairChanged (toOff p .drainLimit (s.atTime tm))))
      else .next (finish (s.atTime tm)) := rfl

theorem drainDue_draining {s : State} {p : PairIx} {d : Drain} (hst : (s.pair p).state = .draining)
    (hd : (s.pair p).drain = some d) : s.drainDue p = decide (d.deadline ≤ s.now) := by
  unfold State.drainDue; rw [hst, hd]

theorem drainDue_ne {s : State} {p : PairIx} (hst : (s.pair p).state ≠ .draining) : s.drainDue p = false := by
  unfold State.drainDue
  split
  · next h _ => exact absurd h hst
  · rfl

/-- Settles O27: line loss and silence through DOWN, the drain limit to OFF, all by one departure. -/
theorem pairsLeaveService : Obligations.PairsLeaveService := by
  intro s tm p hs
  refine ⟨fun c cause h => ?_, fun h => ?_, fun d hst hd => ⟨fun hdue => ?_, fun hdue => ?_⟩, fun h => ?_⟩
  · obtain ⟨rfl, rfl, ho, hd⟩ | ⟨rfl, rfl, hr⟩ | ⟨rfl, rfl, hr, hdue⟩ := h
    · exact ⟨_, exec_down_lose tm p ho hd, (departed_lose (s := s.atTime tm) hs p (by decide)).of_atTime⟩
    · exact ⟨_, exec_trainStart_lose tm p hr, (departed_lose (s := s.atTime tm) hs p (by decide)).of_atTime⟩
    · exact ⟨_, (exec_silence hs tm p).trans (if_pos ⟨hr, hdue⟩), (departed_lose (s := s.atTime tm) hs p (by decide)).of_atTime⟩
  · refine passes hs ((exec_silence hs tm p).trans (if_neg fun hc => ?_))
    obtain hr | hlt := h
    · rw [hr] at hc; exact absurd hc.1 (by decide)
    · exact absurd hc.2 (Nat.not_le.mpr hlt)
  · obtain ⟨service, raised, given, suspends, -⟩ := (departed_toOff (s := s.atTime tm) hs p .drainLimit).of_atTime
    refine ⟨_, ?_, service, raised, given, suspends (by rw [hst]; rfl)⟩
    rw [exec_drainLimit, if_pos]
    rw [drainDue_draining (s := s.atTime tm) hst hd]
    exact decide_eq_true hdue
  · refine passes hs ?_
    rw [exec_drainLimit, if_neg]
    rw [drainDue_draining (s := s.atTime tm) hst hd, decide_eq_true_iff]
    exact Nat.not_le.mpr hdue
  · refine passes hs ?_
    rw [exec_drainLimit, drainDue_ne (by exact h)]
    rfl

end Sys2Proof.Machine
end

section
/-! PROOFS of the family 01: the end of PROBATION, RATE reports, group identity mismatches and restart requests. Settles O26,
O31, O32 and O54. -/

namespace Sys2Proof.Machine

/-! ### Becoming ACTIVE -/

/-- The port of a pair that becomes ACTIVE. -/
def PairPort.activated (pp : PairPort) (due : Nat) : PairPort :=
  { pp with state := .active, probeDue := due, bar := false, drain := none }

theorem toActive_pair (p q : PairIx) (s : State) :
    (toActive p s).pair q = if q = p then (s.pair p).activated (s.probeDueActive p) else s.pair q := by
  unfold toActive
  dsimp only
  rw [(onlyReported_raiseEvent _ _ _).pair, (onlyReported_touch _ _).pair, State.updPair_pair]
  have drawn : ∀ r, (if (s.pair p).lastProbe.isNone = true then s.drawFree else s).pair r = s.pair r := fun r => by split <;> rfl
  simp only [drawn]
  rfl

/-- What becoming ACTIVE changes besides the port: a free value drawn, and PAIR_ACTIVE raised (R9). -/
theorem toActive_sound {s : State} (h : s.tables.Sound) (p : PairIx) :
    ∃ x : State, x.tables = s.tables ∧ x.events = s.events ∧ (x.pair p).upRate = (s.pair p).upRate
      ∧ toActive p s = raiseEvent .pairActive
          { w1 := byteFields p.val 0 0 0, w2 := asWord (x.pair p).upRate, w3 := asWord (x.offsetE p) } x := by
  unfold toActive
  dsimp only
  generalize hd : (if (s.pair p).lastProbe.isNone = true then s.drawFree else s) = d
  have drawn : d.tables = s.tables ∧ d.events = s.events ∧ d.pair p = s.pair p := by rw [← hd]; split <;> exact ⟨rfl, rfl, rfl⟩
  obtain ⟨ht, he, hp⟩ := drawn
  refine ⟨d.updPair p fun pp => { pp with state := .active, probeDue := s.probeDueActive p, bar := false, drain := none },
    ht, he, by rw [State.updPair_pair_same, hp], ?_⟩
  rw [touch_sound (by exact (ht ▸ h : d.tables.Sound))]

theorem toActive_tables {s : State} (h : s.tables.Sound) (p : PairIx) : (toActive p s).tables = s.tables := by
  obtain ⟨x, ht, -, -, hx⟩ := toActive_sound h p
  rw [hx, raiseEvent_tables _ _ (by rw [ht]; exact h), ht]

/-- PAIR_ACTIVE is raised with the rate and E (R9). -/
theorem event_toActive {s : State} (h : s.tables.Sound) (p : PairIx) :
    (toActive p s).event .pairActive = (s.event .pairActive).occur
      { w1 := byteFields p.val 0 0 0, w2 := asWord (s.pair p).upRate, w3 := asWord (s.offsetE p) } := by
  obtain ⟨x, ht, he, hr, hx⟩ := toActive_sound h p
  have records : x.event .pairActive = s.event .pairActive := State.event_congr (congrArg EventUnit.kinds he) _
  have offset : x.offsetE p = s.offsetE p := by unfold State.offsetE; rw [ht]
  rw [hx, raiseEvent_event_sound _ _ _ (by rw [ht]; exact h), if_pos rfl, records, hr, offset]

theorem mayActivate_state {s : State} {p : PairIx} (h : s.mayActivate p = true) : (s.pair p).state = .probation := by
  unfold State.mayActivate at h
  simp only [Bool.and_eq_true, decide_eq_true_eq] at h
  exact h.1.1.1.1

/-- The examination on sound table memory: the pair becomes ACTIVE, or nothing happens (R9). -/
theorem examine_sound {s : State} (h : s.tables.Sound) (p : PairIx) :
    examine p s = if s.mayActivate p then pairChanged (toActive p s) else s := by
  unfold examine
  dsimp only
  rw [useGroup_sound h, useGroup_sound h]
  split
  · rfl
  · next hst => rw [if_neg fun hm => hst (mayActivate_state hm)]

theorem mayActivate_of {s : State} {p : PairIx} (hst : (s.pair p).state = .probation)
    (ht : (s.pair p).probStart + s.probationTime ≤ s.now) (hn : 4 ≤ (s.pair p).samples) (hr : s.minRate ≤ (s.pair p).upRate)
    (hb : (s.pair p).bar = false) : s.mayActivate p = true := by
  unfold State.mayActivate
  simp [hst, ht, hn, hr, hb]

/-- Settles O32. -/
theorem probationEnds : Obligations.ProbationEnds := by
  intro s tm p hs
  have exec_eq : exec (.probationTimeExpiry tm p) s = .next (finish (examine p (s.atTime tm))) := rfl
  refine ⟨fun hst ht hn hr hb => ?_, fun hm => ?_⟩
  · have sound : (s.atTime tm).tables.Sound := hs
    have ysound : (toActive p (s.atTime tm)).tables.Sound := by rw [toActive_tables sound]; exact hs
    have work := onlyPlaced_pairChanged_finish ysound
    have port : ((toActive p (s.atTime tm)).pair p).state = .active := by rw [toActive_pair, if_pos rfl]; rfl
    refine ⟨finish (pairChanged (toActive p (s.atTime tm))), ?_, ?_, ?_⟩
    · rw [exec_eq, examine_sound sound, if_pos (mayActivate_of (s := s.atTime tm) hst ht hn hr hb)]
    · rw [settledAfter_state ysound (by rw [port]; decide) work, port]
    · rw [work.frame.event, settledAfter_event ysound,
        event_evaluateGroup ysound ⟨by decide, by decide⟩ (by decide) (by decide) (.inl (by decide)), event_toActive sound]
      rfl
  · refine passes hs ?_
    rw [exec_eq, examine_sound (by exact hs), hm]
    rfl

/-! ### RATE reports -/

/-- What stands of a port through the evaluation of the group and the distributor's work, where it does not drain. -/
theorem settledAfter_port {s t : State} (h : s.tables.Sound) {q : PairIx} (hd : (s.pair q).state ≠ .draining)
    (work : OnlyPlaced (settledAfter s) t) : ∃ fs, t.pair q = { s.pair q with txq := (s.pair q).txq ++ fs }
      ∨ t.pair q = { s.pair q with txq := fs, store := [], replay := none } := by
  obtain ⟨fs, after⟩ := work.frame.pairs q
  rw [settledAfter_pair] at after
  obtain hall | ⟨-, -, hall⟩ := evaluateGroup_pair h
  · exact ⟨fs, .inl (by rw [after, hall])⟩
  · exact ⟨fs, .inr (by rw [after, hall, PairPort.fallen_of_ne hd]; rfl)⟩

/-- What an examination and the distributor's work leave of the rates, and of an ACTIVE pair's state (R9). -/
theorem examine_rates {s : State} (h : s.tables.Sound) (p : PairIx) :
    ((finish (examine p s)).pair p).upRate = (s.pair p).upRate ∧ ((finish (examine p s)).pair p).downRate = (s.pair p).downRate
      ∧ ((s.pair p).state = .active → ((finish (examine p s)).pair p).state = .active) := by
  rw [examine_sound h]
  split
  · next hm =>
    have ysound : (toActive p s).tables.Sound := by rw [toActive_tables h]; exact h
    have port : (toActive p s).pair p = (s.pair p).activated (s.probeDueActive p) := by rw [toActive_pair, if_pos rfl]
    obtain ⟨fs, after | after⟩ := settledAfter_port ysound (q := p) (by rw [port]; simp [PairPort.activated])
      (onlyPlaced_pairChanged_finish ysound) <;> rw [after, port] <;> exact ⟨rfl, rfl, fun _ => rfl⟩
  · obtain ⟨fs, after⟩ := (onlyPlaced_finish h).frame.pairs p
    rw [after]
    exact ⟨rfl, rfl, id⟩

/-- The port with the rates of a RATE report (R10). -/
def PairPort.rated (pp : PairPort) (u d : Nat) : PairPort := { pp with upRate := clampRate u, downRate := clampRate d }

/-- A RATE report on sound table memory: LOW_RATE, or the rates alone before the examination (R9, R10). -/
theorem takeRate_sound {s : State} (h : s.tables.Sound) (p : PairIx) (u d : Nat) :
    takeRate p u d s = if (s.pair p).state = .active ∧ clampRate u < s.minRate then lowRate p (s.updPair p fun pp => pp.rated u d)
      else examine p (if clampRate u = (s.pair p).upRate then s.updPair p fun pp => pp.rated u d
        else attempt (s.updPair p fun pp => pp.rated u d)) := by
  have read : (if ((s.updPair p fun pp => pp.rated u d).pair p).state = .active then useGroup 0x06 (s.updPair p fun pp => pp.rated u d)
      else s.updPair p fun pp => pp.rated u d) = s.updPair p fun pp => pp.rated u d := by
    rw [useGroup_sound (by exact h), ite_self]
  unfold takeRate
  dsimp only
  unfold PairPort.rated at read ⊢
  rw [read]
  simp only [State.updPair_pair_same]
  rfl

theorem exec_takeRate {s : State} {tm : Nat} {p : PairIx} {u d : Nat} {c : Instr} (hr : (s.pair p).state.running = true)
    (hc : c ∈ [Instr.rate tm p u d, .up tm p u d]) : exec c s = .next (finish (takeRate p u d (s.atTime tm))) := by
  simp only [List.mem_cons, List.not_mem_nil, or_false] at hc
  obtain rfl | rfl := hc
  · simp [exec, execRate, hr]
  · cases hst : (s.pair p).state <;> simp_all [exec, execUp, PairState.running]

/-- The port of an ACTIVE pair sent back to PROBATION for its rate (R10). -/
def PairPort.lowered (pp : PairPort) (now : Nat) : PairPort := { (pp.enterProbation now) with cause := .lowRate, txq := [] }

/-- LOW_RATE before the group is evaluated: the port moved, its queue merged into the reroute list (R10, R89). -/
def lowering (p : PairIx) (s : State) : State := (s.pair p).txq.foldl joinReroute (s.updPair p fun pp => pp.lowered s.now)

theorem lowRate_eq (p : PairIx) (s : State) : lowRate p s = pairChanged (lowering p s) := rfl

/-- Fragments merged into the reroute list: the list and its counter alone change (R89). -/
theorem foldl_joinReroute_spec (fs : List Frag) (s : State) :
    (fs.foldl joinReroute s).pairs = s.pairs ∧ (fs.foldl joinReroute s).tables = s.tables
      ∧ (fs.foldl joinReroute s).digit = s.digit ∧ (fs.foldl joinReroute s).groupUp = s.groupUp
      ∧ (fs.foldl joinReroute s).dist = { s.dist with reroute := fs.foldl (fun l f => insertByGsn s.dist.nextGsn f l) s.dist.reroute }
      ∧ (fs.foldl joinReroute s).counters = (s.bumpBy .rerouted fs.length).counters := by
  obtain ⟨c, rs, raised⟩ := tallied_bumpBy
    (s.updDist fun d => { d with reroute := fs.foldl (fun l f => insertByGsn s.dist.nextGsn f l) d.reroute }) .rerouted fs.length
  rw [foldl_joinReroute]
  have counted := bumpBy_counter_congr (s := s) (t := s.updDist fun d =>
    { d with reroute := fs.foldl (fun l f => insertByGsn s.dist.nextGsn f l) d.reroute }) rfl .rerouted fs.length
  refine ⟨?_, ?_, ?_, ?_, ?_, counted⟩ <;> rw [raised] <;> rfl

/-- What LOW_RATE comes to on sound table memory: the port, its stores apart, in either case. -/
theorem lowRate_spec {s : State} (h : s.tables.Sound) (p : PairIx) :
    (∃ st r, (finish (lowRate p s)).pair p = { (s.pair p).lowered s.now with store := st, replay := r })
      ∧ (s.groupUp = true → s.minPairs ≤ s.othersActive p → (finish (lowRate p s)).pair p = (s.pair p).lowered s.now)
      ∧ GaveBack s p (s.pair p).txq (finish (lowRate p s)) := by
  obtain ⟨pairs, tables, digit, up, list, count⟩ :=
    foldl_joinReroute_spec (s.pair p).txq (s.updPair p fun pp => pp.lowered s.now)
  rw [lowRate_eq]
  change (lowering p s).pairs = _ at pairs
  change (lowering p s).tables = s.tables at tables
  change (lowering p s).digit = s.digit at digit
  change (lowering p s).groupUp = s.groupUp at up
  change (lowering p s).dist = _ at list
  change (lowering p s).counters = _ at count
  generalize lowering p s = y at pairs tables digit up list count
  have port : y.pair p = (s.pair p).lowered s.now := (State.pair_congr pairs p).trans (State.updPair_pair_same ..)
  have others : ∀ q, q ≠ p → y.pair q = s.pair q := fun q hq => (State.pair_congr pairs q).trans (State.updPair_pair_ne s p q _ hq)
  have sound : y.tables.Sound := by rw [tables]; exact h
  have gone : (y.pair p).state ≠ .active := by rw [port]; simp [PairPort.lowered, PairPort.enterProbation]
  have work := onlyPlaced_pairChanged_finish sound
  have state : ((evaluateGroup y).pair p).state = .probation := by
    rw [evaluateGroup_state sound (by rw [port]; simp [PairPort.lowered, PairPort.enterProbation]), port]; rfl
  have idle : (finish (pairChanged y)).pair p = (evaluateGroup y).pair p := by
    rw [work.frame.idle p (by rw [settledAfter_pair, state]; decide), settledAfter_pair]
  refine ⟨?_, fun hu hk => ?_, ?_⟩
  · rw [idle]
    obtain hall | ⟨-, -, hall⟩ := evaluateGroup_pair sound
    · exact ⟨_, _, by rw [hall, port]⟩
    · exact ⟨[], none, by rw [hall, PairPort.fallen_of_ne (by rw [port]; simp [PairPort.lowered, PairPort.enterProbation]), port]; rfl⟩
  · have agrees : evaluateGroup y = y := evaluateGroup_agrees sound (by
      rw [up, hu, State.activeCount_without gone others, State.minPairs_congr tables digit, decide_eq_true hk])
    rw [idle, agrees, port]
  · refine gaveBack_of h tables digit up gone others (fun _ => ?_) work
    refine ⟨list, ?_⟩
    unfold State.counter
    simp only [count, bumpBy_counter_congr (s := s) (t := s.updPair p fun pp => pp.lowered s.now) rfl]

/-- Settles O26: LOW_RATE by `lowRate_spec`, and otherwise the rates alone before the examination. -/
theorem rateReportTaken : Obligations.RateReportTaken := by
  intro s tm p u d c hs hr hc
  have sound : ((s.atTime tm).updPair p fun pp => pp.rated u d).tables.Sound := hs
  have port : ((s.atTime tm).updPair p fun pp => pp.rated u d).pair p = (s.pair p).rated u d := State.updPair_pair_same ..
  refine ⟨_, exec_takeRate hr hc, ?_⟩
  rw [takeRate_sound (sound_atTime hs tm)]
  split
  · next hlow =>
    obtain ⟨hst, hlow⟩ := hlow
    obtain ⟨⟨st, r, after⟩, kept, given⟩ := lowRate_spec sound p
    rw [port] at after kept given
    refine ⟨by rw [after]; rfl, by rw [after]; rfl, fun _ _ => ?_, fun _ hle => ?_⟩
    · refine ⟨by rw [after]; rfl, by rw [after]; rfl, by rw [after]; rfl, by rw [after]; rfl, by rw [after]; rfl, by rw [after]; rfl,
        by rw [after]; rfl, ?_, fun hu hk => ?_⟩
      · exact given.congr rfl rfl (fun q hq => State.updPair_pair_ne _ p q _ hq) rfl rfl
      · have least : State.othersActive ((s.atTime tm).updPair p fun pp => pp.rated u d) p = s.othersActive p :=
          State.othersActive_congr fun q hq => State.updPair_pair_ne (s.atTime tm) p q _ hq
        rw [kept hu (by rw [least]; exact hk)]
        exact ⟨rfl, rfl⟩
    · exact absurd hle (Nat.not_le.mpr hlow)
  · next hlow =>
    generalize hx : (if clampRate u = ((s.atTime tm).pair p).upRate then (s.atTime tm).updPair p fun pp => pp.rated u d
      else attempt ((s.atTime tm).updPair p fun pp => pp.rated u d)) = x
    have work : OnlyPlaced ((s.atTime tm).updPair p fun pp => pp.rated u d) x := by
      rw [← hx]
      split
      · exact .refl
      · exact onlyPlaced_attempt sound
    obtain ⟨fs, after⟩ := work.frame.pairs p
    rw [port] at after
    obtain ⟨hu, hd, ha⟩ := examine_rates (work.sound sound) p
    rw [after] at hu hd ha
    exact ⟨hu, hd, fun hst hlt => absurd ⟨hst, hlt⟩ hlow, fun hst _ => ha hst⟩

/-! ### Group identity mismatches -/

/-- A good or void fragment on a running pair, on sound table memory (R26). -/
theorem receive_sound {s : State} (h : s.tables.Sound) {p : PairIx} (hr : (s.pair p).state.running = true) {bytes : List Byte}
    (hc : classify bytes ≠ .bad) :
    receive p bytes s = if (FragFields.parse bytes).gid = s.gid
      then takeFragment p (FragFields.parse bytes) (decide (classify bytes = .void)) s
      else mismatch p (FragFields.parse bytes).gid s := by
  unfold receive
  split
  · next hb => exact absurd hb hc
  · dsimp only
    rw [useGroup_sound h]
    unfold whileRunning
    rw [if_pos hr]

theorem exec_received {s : State} (tm : Nat) {p : PairIx} (hr : (s.pair p).state.running = true) (bytes : List Byte) :
    exec (.received tm p bytes) s = .next (finish (receive p bytes (s.atTime tm))) := if_pos hr

/-- A mismatch out of PROBATION: MISWIRED, and the pair leaves service (R15). -/
theorem mismatch_departs {s : State} (h : s.tables.Sound) (p : PairIx) (got : Nat) (hst : (s.pair p).state ≠ .probation) :
    LeftService (s.pair p) ((finish (mismatch p got s)).pair p) (if s.adminOn p then .down else .off) .miswired
        (if s.adminOn p then .retrain else .quiet)
      ∧ (finish (mismatch p got s)).event .miswired = (s.event .miswired).occur (detail1 (byteFields p.val got s.gid 0)) := by
  have moved : mismatch p got s
      = pairChanged (raiseEvent .miswired (detail1 (byteFields p.val got s.gid 0)) (toDown p .miswired s)) := if_neg hst
  rw [moved]
  have left := (Left.lose h p (cause := .miswired) (by decide)).raise .miswired (detail1 (byteFields p.val got s.gid 0))
  have work := onlyPlaced_pairChanged_finish (left.frame.isSound h)
  have noFinding : EventKind.NoFinding .miswired := ⟨by decide, by decide⟩
  refine ⟨left.service h (byAdmin_out s p) work, ?_⟩
  rw [left.event h work noFinding (by decide) (by decide) (.inl (by decide)),
    raiseEvent_event _ _ _ noFinding.1 noFinding.2, if_pos rfl, toDown_sound h p (by decide), event_leave p _ _ _ _ _ noFinding]
  rfl

/-- Settles O31. -/
theorem identityMismatch : Obligations.IdentityMismatch := by
  intro s tm p bytes hs hc hg
  have miss : (s.pair p).state.running = true →
      exec (.received tm p bytes) s = .next (finish (mismatch p (FragFields.parse bytes).gid (s.atTime tm))) := fun hr => by
    rw [exec_received tm hr, receive_sound (sound_atTime hs tm) (by exact hr) hc, if_neg (by exact hg)]
  refine ⟨fun hst => ⟨_, miss (by rw [hst]; rfl), ?_⟩, fun hst => ⟨_, miss ?_, ?_⟩⟩
  · have barred : mismatch p (FragFields.parse bytes).gid (s.atTime tm) = (s.atTime tm).updPair p fun pp => { pp with bar := true } :=
      if_pos hst
    rw [barred]
    exact onlyPlaced_finish (by exact hs)
  · obtain hst | hst := hst <;> rw [hst] <;> rfl
  · exact mismatch_departs (s := s.atTime tm) hs p _ (by
      change (s.pair p).state ≠ _
      obtain hst | hst := hst <;> rw [hst] <;> decide)

/-! ### Restart requests -/

/-- A restart due at once that stands last in the list. -/
def State.LastRestart (s : State) (k : RestartKind) : Prop := s.ctl.restarts.getLast? = some { kind := k, awaits := none }

theorem lastRestart_fragmentGone {s : State} {k : RestartKind} (h : s.LastRestart k) (f : Frag) : (fragmentGone f s).LastRestart k := by
  unfold fragmentGone
  split
  · unfold responseLeft State.LastRestart at *
    simp [h]
  · exact h

/-- The distributor's work loses responses, which leaves a restart that waits for none as it is (R155). -/
theorem OnlyPlaced.lastRestart {s t : State} {k : RestartKind} (h : OnlyPlaced s t) (hs : s.LastRestart k) : t.LastRestart k := by
  have moves : ∀ {x y : State}, y.ctl = x.ctl → x.LastRestart k → y.LastRestart k := fun e h => by
    unfold State.LastRestart at *; rwa [e]
  induction h with
  | refl => exact hs
  | cut _ _ move ih => cases move <;> exact moves rfl ih
  | place _ _ move ih =>
    cases move with
    | discard f rest =>
      exact moves (x := fragmentGone f _) rfl
        (lastRestart_fragmentGone (s := State.updDist _ fun d => { d with reroute := rest }) (moves rfl ih) f)
    | again => exact moves rfl ih
    | new => exact moves rfl ih
  | hold w _ _ _ ih =>
    refine moves ?_ ih
    unfold recordHold
    dsimp only
    split <;> rfl
  | rest _ _ ih => exact moves rfl ih

/-- The gate's test of a request whose origin may make it, on sound table memory (R149). -/
theorem gateFlagTest_allowed {s : State} (h : s.tables.Sound) {o : Origin} {i : Nat} (ho : o = .farm → s.gateFlag i = true) :
    gateFlagTest o i s = (s, true) := by
  cases o with
  | line => rfl
  | farm =>
    unfold gateFlagTest
    dsimp only
    rw [useWord_sound h, ho rfl]

/-- A restart request taken as a command of its own (R155). -/
theorem single_restart {s : State} (h : s.tables.Sound) (tm : Nat) (o : Origin) (tag : Byte) (addr : Word) (k : ReqKind)
    (r : RestartKind) (i : Nat) (hk : ∀ q x, runKind k o none q x = runRestart r i o none q x) (hp : k.posted = false)
    (ho : o = .farm → s.gateFlag i = true) :
    single k tm o tag addr 0 [] s = finish (((s.atTime tm).updCtl fun c =>
      { c with restarts := c.restarts ++ [{ kind := r, awaits := none }] }).answer
        { code := k.code, tag := tag, status := .ok, data := [] }) := by
  have allowed := gateFlagTest_allowed (s := s.atTime tm) h (by exact ho)
  unfold single request
  simp only [hk, hp, runRestart, allowed]
  simp only [Bool.not_true, Bool.false_eq_true, if_false, ne_eq, not_true, recordRestart]
  rw [settleOwed_sound (by exact h)]
  rfl

/-- A restart recorded stands at the end of the list to the end of the command (R155). -/
theorem restart_recorded {s : State} (h : s.tables.Sound) (r : RestartKind) (rec : Record) :
    let x := (s.updCtl fun c => { c with restarts := c.restarts ++ [{ kind := r, awaits := none }] }).answer rec
    (finish x).ctl.restarts.map Restart.kind = s.ctl.restarts.map Restart.kind ++ [r]
      ∧ (finish x).ctl.restarts.getLast? = some { kind := r, awaits := none } ∧ OnlyPlaced x (finish x) := by
  intro x
  have work : OnlyPlaced x (finish x) := onlyPlaced_finish (by exact h)
  refine ⟨work.frame.kinds.trans ?_, work.lastRestart ?_, work⟩
  · change (s.ctl.restarts ++ [_]).map _ = _
    rw [List.map_append]; rfl
  · change (s.ctl.restarts ++ [_]).getLast? = _
    rw [List.getLast?_append]; rfl

/-- PAIR_RESTART taken as a command of its own (R20). -/
theorem single_pairRestart {s : State} (h : s.tables.Sound) (tm : Nat) (o : Origin) (tag : Byte) (addr : Word) (p : PairIx)
    (ho : o = .farm → s.gateFlag 5 = true) :
    single .pairRestart tm o tag addr 1 [byteOf p.val] s
      = finish ((restartPair p (s.atTime tm)).answer { code := 0x30, tag := tag, status := .ok, data := [] }) := by
  have allowed := gateFlagTest_allowed (s := s.atTime tm) (i := 5) h (by exact ho)
  have number : byteNat [byteOf p.val] 0 = p.val := by revert p; decide
  have kept : (restartPair p (s.atTime tm)).tables.Sound := by
    unfold restartPair
    split
    · exact h
    · exact ((blockFrame_toDown p .restart (s.atTime tm)).trans (settles_pairChanged _).toBlockFrame).isSound h
  unfold single request
  simp only [runKind, runPairRestart, allowed]
  simp only [number, ne_eq, not_true, if_false, p.isLt, dite_true, Bool.not_true, Bool.false_eq_true, ReqKind.posted]
  rw [settleOwed_sound kept]
  rfl

/-- What a pair restart leaves of a pair in service, to the end of the command (R20). -/
theorem restartPair_departs {s : State} (h : s.tables.Sound) (p : PairIx) (hp : (s.pair p).state ≠ .off) (rec : Record) :
    let t := finish ((restartPair p s).answer rec)
    t.ctl.answers = s.ctl.answers ++ [rec]
      ∧ LeftService (s.pair p) (t.pair p) (if s.adminOn p then .down else .off) .restart (if s.adminOn p then .retrain else .quiet)
      ∧ PairDownRaised s p .restart t := by
  intro t
  have moved : restartPair p s = pairChanged (toDown p .restart s) := if_neg hp
  have left := Left.lose h p (cause := .restart) (by decide)
  have ysound := left.frame.isSound h
  have work : OnlyPlaced (settledAfter (toDown p .restart s)) (restartPair p s) := by rw [moved]; exact onlyPlaced_pairChanged ysound
  have frame : BlockFrame s (restartPair p s) := by rw [moved]; exact left.frame.trans (settles_pairChanged _).toBlockFrame
  have departed := left.departed (st := .down) h (byAdmin_out s p) work (by rw [toDown_sound h p (by decide)])
  have after : OnlyPlaced ((restartPair p s).answer rec) t := onlyPlaced_finish (by exact frame.isSound h)
  obtain ⟨_, ctl⟩ := after.frame.ctl
  have port : t.pair p = (restartPair p s).pair p := by
    refine after.frame.idle p ?_
    change ((restartPair p s).pair p).state ≠ .active
    rw [departed.service.state]
    split <;> decide
  refine ⟨?_, ?_, fun hd => ?_⟩
  · rw [ctl, ← frame.answers]; rfl
  · rw [port]; exact departed.service
  · rw [after.frame.event]; exact departed.raised hd

/-- Settles O54. -/
theorem restartRequests : Obligations.RestartRequests := by
  intro s tm o tag addr hs
  refine ⟨fun ho => ⟨fun p => ?_, ?_⟩, fun ho => ?_⟩
  · have run : exec (.pairRestart tm o tag addr [byteOf p.val]) s
        = .next (finish ((restartPair p (s.atTime tm)).answer { code := 0x30, tag := tag, status := .ok, data := [] })) :=
      congrArg Host.Outcome.next (single_pairRestart hs tm o tag addr p ho)
    by_cases hp : (s.pair p).state = .off
    · have same : restartPair p (s.atTime tm) = s.atTime tm := if_pos hp
      have work : OnlyPlaced ((s.atTime tm).answer { code := 0x30, tag := tag, status := .ok, data := [] }) (finish _) :=
        onlyPlaced_finish (by exact hs)
      obtain ⟨_, ctl⟩ := work.frame.ctl
      exact ⟨_, by rw [run, same], by rw [ctl]; rfl, fun h => absurd hp h, fun _ => work⟩
    · obtain ⟨answers, service, raised⟩ := restartPair_departs (s := s.atTime tm) hs p hp
        { code := 0x30, tag := tag, status := .ok, data := [] }
      exact ⟨_, run, answers, fun _ => ⟨service, raised⟩, fun h => absurd h hp⟩
  · have run : exec (.groupRestart tm o tag addr []) s = .next (single .groupRestart tm o tag addr 0 [] s) := rfl
    rw [single_restart hs tm o tag addr .groupRestart .group 5 (fun _ _ => rfl) rfl ho] at run
    exact ⟨_, run, restart_recorded (s := s.atTime tm) hs .group { code := 0x31, tag := tag, status := .ok, data := [] }⟩
  · have run : exec (.partReset tm o tag addr []) s = .next (single .partReset tm o tag addr 0 [] s) := rfl
    rw [single_restart hs tm o tag addr .partReset .part 6 (fun _ _ => rfl) rfl ho] at run
    exact ⟨_, run, restart_recorded (s := s.atTime tm) hs .part { code := 0x32, tag := tag, status := .ok, data := [] }⟩

end Sys2Proof.Machine
end

section
/-! PROOFS of the family 01: what a READY hands out (R27..R29, R33..R36). Settles O28. -/

namespace Sys2Proof.Machine

/-! ### Hand-offs as R28 says them -/

/-- The hand-off of a fragment without payload is the record of R28. -/
theorem PairPort.handOff_plain (pp : PairPort) {kind : FragKind} (hk : kind ≠ .data) (num gid now : Nat) :
    pp.handOff (plainFields kind num) false gid now = pp.handed (pp.plainHeader kind num gid) false now := by
  unfold PairPort.handOff
  dsimp only
  rw [if_neg (by exact hk)]
  rfl

/-- The hand-off of a DATA fragment is the record of R28, counted as DATA. -/
theorem PairPort.handOff_data (pp : PairPort) (f : Frag) (txn : Txn) (gid now : Nat) :
    pp.handOff (dataFields f txn) f.void gid now = (pp.handed (pp.dataHeader f txn gid) f.void now).bump .dataHanded := by
  unfold PairPort.handOff
  dsimp only
  rw [if_pos (show (dataFields f txn).kind = .data from rfl)]
  rfl

/-- A port replaced by what a function makes of it. -/
theorem State.updPair_const (s : State) (p : PairIx) (f : PairPort → PairPort) :
    s.updPair p f = s.updPair p fun _ => f (s.pair p) := rfl

/-! ### What is picked -/

section picks

variable {pp : PairPort} {now : Nat}

theorem PairPort.pick_echo {st : BitVec 16} (h : pp.echo = some st) : pp.pick now = .echo st := by
  unfold PairPort.pick; rw [h]

theorem PairPort.pick_probe (he : pp.echo = none) (hp : pp.probeDue ≤ now) : pp.pick now = .probe := by
  unfold PairPort.pick; rw [he]; exact if_pos hp

/-- Past ECHO and PROBE, the replay's next entry comes first. -/
theorem PairPort.pick_replay {e : RetryEntry} {newer : List RetryEntry} (he : pp.echo = none) (hp : now < pp.probeDue)
    (hr : pp.toReplay = e :: newer) : pp.pick now = .replay e := by
  unfold PairPort.pick
  simp only [he, Nat.not_le.mpr hp, if_false, hr]

theorem PairPort.pick_head {f : Frag} {rest : List Frag} (he : pp.echo = none) (hp : now < pp.probeDue) (hr : pp.toReplay = [])
    (hq : pp.txq = f :: rest) : pp.pick now = .queue f := by
  unfold PairPort.pick
  simp only [he, Nat.not_le.mpr hp, if_false, hr, hq]

theorem PairPort.pick_last (he : pp.echo = none) (hp : now < pp.probeDue) (hr : pp.toReplay = []) (hq : pp.txq = []) :
    pp.pick now = if pp.fillerDue now then .filler else .nothing := by
  unfold PairPort.pick
  simp only [he, Nat.not_le.mpr hp, if_false, hr, hq]

/-- The entries from a replay's cursor on (R86). -/
theorem PairPort.toReplay_split {r : Replay} {older newer : List RetryEntry} {e : RetryEntry} (hr : pp.replay = some r)
    (hs : pp.store = older ++ e :: newer) (ho : ∀ x ∈ older, x.txn ≠ r.cursor) (he : e.txn = r.cursor) :
    pp.toReplay = e :: newer := by
  unfold PairPort.toReplay
  rw [hr, hs]
  dsimp only
  rw [List.dropWhile_append, List.dropWhile_eq_nil_iff.mpr fun x hx => by simpa using ho x hx]
  simp [he]

/-- A replay without an entry at its cursor has nothing to send. -/
theorem PairPort.toReplay_none (h : ∀ r, pp.replay = some r → ∀ x ∈ pp.store, x.txn ≠ r.cursor) : pp.toReplay = [] := by
  unfold PairPort.toReplay
  split
  · rfl
  · next r hr => exact List.dropWhile_eq_nil_iff.mpr fun x hx => by simpa using h r hr x hx

theorem PairPort.fillerDue_iff :
    pp.fillerDue now = true ↔ pp.owedAck = true ∨ pp.rx = .retryAsk ∨ pp.lastHandoff + 50000 ≤ now := by
  unfold PairPort.fillerDue
  simp [or_assoc]

/-- The replay after an entry is re-sent (R33). -/
theorem PairPort.advanceReplay_split {r : Replay} {e : RetryEntry} {newer : List RetryEntry} (hr : pp.replay = some r)
    (ht : pp.toReplay = e :: newer) : pp.advanceReplay = newer.head?.map fun x => { r with cursor := x.txn } := by
  unfold PairPort.advanceReplay
  rw [hr, ht]
  cases newer <;> rfl

end picks

/-! ### READY on sound table memory -/

theorem touchHandOff_sound {s : State} (h : s.tables.Sound) (p : PairIx) : touchHandOff p s = s := by
  unfold touchHandOff
  split
  · rfl
  · dsimp only; rw [useGroup_sound h, useGroup_sound h, ite_self]
  · rw [useGroup_sound h, useGroup_sound h]
  · exact useGroup_sound h

theorem exec_ready {s : State} (h : s.tables.Sound) (tm : Nat) {p : PairIx} (hr : (s.pair p).state.running = true) :
    exec (.ready tm p) s = .next (finish (handOut p (s.atTime tm))) := by
  change (if (s.pair p).state.running = true then _ else _) = _
  rw [if_pos hr, touchHandOff_sound (sound_atTime h tm)]
  exact if_pos hr

/-- An attempt after a port changed, and the end of the command. -/
theorem onlyPlaced_updPair {s : State} (h : s.tables.Sound) (p : PairIx) (f : PairPort → PairPort) :
    OnlyPlaced (s.updPair p fun _ => f (s.pair p)) (finish (attempt (s.updPair p f))) := by
  rw [← State.updPair_const]
  exact onlyPlaced_attempt_finish (by exact h)

section ready

variable {s : State} (h : s.tables.Sound) {p : PairIx}
include h

theorem handOut_echo {st : BitVec 16} (hp : (s.pair p).pick s.now = .echo st) :
    OnlyPlaced (s.updPair p fun _ =>
      { ((s.pair p).handed ((s.pair p).plainHeader .echo st.toNat s.gid) false s.now) with echo := none })
      (finish (handOut p s)) := by
  have handed : handOut p s = attempt (s.updPair p fun pp =>
      { (pp.handOff (plainFields .echo st.toNat) false s.gid s.now) with echo := none }) := by unfold handOut; rw [hp]
  rw [← PairPort.handOff_plain _ (by decide), handed]
  exact onlyPlaced_updPair h p fun pp => { (pp.handOff (plainFields .echo st.toNat) false s.gid s.now) with echo := none }

theorem handOut_probe (hp : (s.pair p).pick s.now = .probe) :
    OnlyPlaced (s.updPair p fun _ =>
      { ((s.pair p).handed ((s.pair p).plainHeader .probe (s.now / 10 % 65536) s.gid) false s.now) with
        probeDue := s.now + (if (s.pair p).state = .probation then 100000 else 1000000), lastProbe := some s.now })
      (finish (handOut p s)) := by
  have handed : handOut p s = attempt (s.updPair p fun pp => pp.handProbe s.gid s.now) := by unfold handOut; rw [hp]
  rw [← PairPort.handOff_plain _ (by decide), handed]
  exact onlyPlaced_updPair h p fun pp => pp.handProbe s.gid s.now

theorem handOut_filler (hp : (s.pair p).pick s.now = .filler) :
    OnlyPlaced (s.updPair p fun _ => (s.pair p).handed ((s.pair p).plainHeader .filler 0 s.gid) false s.now)
      (finish (handOut p s)) := by
  have handed : handOut p s = attempt (s.updPair p fun pp => pp.handOff (plainFields .filler 0) false s.gid s.now) := by
    unfold handOut; rw [hp]
  rw [← PairPort.handOff_plain _ (by decide), handed]
  exact onlyPlaced_updPair h p fun pp => pp.handOff (plainFields .filler 0) false s.gid s.now

theorem handOut_nothing (hp : (s.pair p).pick s.now = .nothing) : OnlyPlaced s (finish (handOut p s)) := by
  unfold handOut
  rw [hp]
  exact onlyPlaced_finish h

/-- The entry at a replay's cursor re-sent (R33, R35). -/
theorem handOut_replay {r : Replay} {e : RetryEntry} {newer : List RetryEntry} (hp : (s.pair p).pick s.now = .replay e)
    (hr : (s.pair p).replay = some r) (ht : (s.pair p).toReplay = e :: newer) (hc : e.count < s.retryLimit) :
    OnlyPlaced (s.updPair p fun _ =>
      { ((((s.pair p).handed ((s.pair p).dataHeader e.frag e.txn s.gid) e.frag.void s.now).bump .dataHanded).bump .replays) with
        store := (s.pair p).store.map fun x => if x.txn = e.txn then { x with count := x.count + 1, lastSent := s.now } else x
        replay := newer.head?.map fun x => { r with cursor := x.txn } })
      (finish (handOut p s)) := by
  have handed : handOut p s = attempt (s.updPair p fun pp => pp.handReplay e s.gid s.now) := by
    unfold handOut
    rw [hp]
    exact if_neg (Nat.not_le.mpr hc)
  rw [← PairPort.handOff_data, ← PairPort.advanceReplay_split hr ht, handed]
  exact onlyPlaced_updPair h p fun pp => pp.handReplay e s.gid s.now

/-- A replay whose entry has been sent as often as it may be takes the pair out of service (R34). -/
theorem handOut_exhausted {e : RetryEntry} (hp : (s.pair p).pick s.now = .replay e) (hc : s.retryLimit ≤ e.count) :
    Departed s p (if s.adminOn p then .down else .off) .retryExhausted (if s.adminOn p then .retrain else .quiet)
        (finish (handOut p s))
      ∧ (finish (handOut p s)).event .retryExhausted
          = (s.event .retryExhausted).occur (detail1 (byteFields p.val e.txn.toNat 0 0)) := by
  have moved : handOut p s
      = pairChanged (raiseEvent .retryExhausted (detail1 (byteFields p.val e.txn.toNat 0 0)) (toDown p .retryExhausted s)) := by
    unfold handOut
    rw [hp]
    exact if_pos hc
  rw [moved]
  have left := (Left.lose h p (cause := .retryExhausted) (by decide)).raise .retryExhausted
    (detail1 (byteFields p.val e.txn.toNat 0 0))
  have work := onlyPlaced_pairChanged_finish (left.frame.isSound h)
  have noFinding : EventKind.NoFinding .retryExhausted := ⟨by decide, by decide⟩
  refine ⟨left.departed (st := .down) h (byAdmin_out s p) work ?_, ?_⟩
  · rw [raiseEvent_event _ _ _ (by decide) (by decide), if_neg (by decide), toDown_sound h p (by decide)]
  · rw [left.event h work noFinding (by decide) (by decide) (.inl (by decide)),
      raiseEvent_event _ _ _ noFinding.1 noFinding.2, if_pos rfl, toDown_sound h p (by decide), event_leave p _ _ _ _ _ noFinding]
    rfl

end ready

/-! ### The head of the transmit queue -/

/-- The port after the head of its transmit queue has been handed out (R29, R36). -/
def PairPort.sentHead (pp : PairPort) (f : Frag) (rest : List Frag) (limit gid now : Nat) : PairPort :=
  { ((pp.handed (pp.dataHeader f pp.nextTxn gid) f.void now).bump .dataHanded) with
    nextTxn := pp.nextTxn + 1, txq := rest
    store := if limit = 0 then [] else
      pp.store ++ [{ frag := { f with resp := none }, txn := pp.nextTxn, count := 0, lastSent := now }]
    replay := if limit = 0 then none else pp.replay }

theorem PairPort.handQueue_eq {pp : PairPort} {f : Frag} {rest : List Frag} (hq : pp.txq = f :: rest) (limit gid now : Nat) :
    pp.handQueue f limit gid now = pp.sentHead f rest limit gid now := by
  unfold PairPort.handQueue PairPort.sentHead
  dsimp only
  rw [PairPort.handOff_data, hq]
  split <;> rfl

theorem PairPort.sentHead_state (pp : PairPort) (f : Frag) (rest : List Frag) (limit gid now : Nat) :
    (pp.sentHead f rest limit gid now).state = pp.state := rfl

/-- A drain ends with the head of its queue only where nothing is held for replay (R13, R36). -/
theorem PairPort.sentHead_isEmpty (pp : PairPort) (f : Frag) (rest : List Frag) (limit gid now : Nat) :
    (pp.sentHead f rest limit gid now).isEmpty = true ↔ rest = [] ∧ limit = 0 := by
  unfold PairPort.isEmpty PairPort.sentHead
  by_cases hl : limit = 0 <;> simp [hl]

/-- What follows a change of a port's stores, where the drain ends by it (R13). -/
theorem afterStores_drained {s : State} (h : s.tables.Sound) {p : PairIx} (hst : (s.pair p).state = .draining)
    (he : (s.pair p).isEmpty = true) :
    LeftService (s.pair p) ((finish (afterStores p s)).pair p) .off .drained .quiet := by
  have ended : afterStores p s = pairChanged (drained p s) := if_pos ⟨hst, he⟩
  have sound : (drained p s).tables.Sound := (blockFrame_depart ..).isSound h
  have port : (drained p s).pair p = (s.pair p).departed .off .drained .quiet := (depart_pair ..).trans (if_pos rfl)
  rw [ended, departed_stays sound (.inr rfl) port (onlyPlaced_pairChanged_finish sound)]
  exact (s.pair p).leftService_departed ..

theorem afterStores_goesOn {s : State} (h : s.tables.Sound) {p : PairIx}
    (hn : ¬((s.pair p).state = .draining ∧ (s.pair p).isEmpty = true)) : OnlyPlaced s (finish (afterStores p s)) := by
  have goes : afterStores p s = attempt s := if_neg hn
  rw [goes]
  exact onlyPlaced_attempt_finish h

theorem fragmentGone_pair (f : Frag) (s : State) (p : PairIx) : (fragmentGone f s).pair p = s.pair p := by
  obtain ⟨_, _, h⟩ := tallied_fragmentGone f s
  rw [h]; rfl

theorem handOut_queue {s : State} {p : PairIx} {f : Frag} {rest : List Frag} (hp : (s.pair p).pick s.now = .queue f)
    (hq : (s.pair p).txq = f :: rest) :
    handOut p s = afterStores p (fragmentGone f (s.updPair p fun _ => (s.pair p).sentHead f rest s.retryLimit s.gid s.now)) := by
  rw [← PairPort.handQueue_eq hq, ← State.updPair_const s p fun pp => pp.handQueue f s.retryLimit s.gid s.now]
  unfold handOut
  rw [hp]

/-- Settles O28, pick by pick. -/
theorem readyHandsOut : Obligations.ReadyHandsOut := by
  rintro s tm p _ _ hs rfl rfl hr
  have sound := sound_atTime hs tm
  have run := exec_ready hs tm hr
  refine ⟨fun st he => ⟨_, run, handOut_echo sound (PairPort.pick_echo he)⟩,
    fun he hp => ⟨_, run, handOut_probe sound (PairPort.pick_probe he hp)⟩,
    fun r older e newer he hp hrep hsto ho hc => ?_, fun he hp hno => ⟨fun f rest sent hq hsent => ?_, fun hq hdue => ?_, fun hq ha hx hl => ?_⟩⟩
  · have ht := PairPort.toReplay_split hrep hsto ho hc
    have hpick := PairPort.pick_replay he hp ht
    refine ⟨fun hlim => ?_, fun hlim => ⟨_, run, handOut_replay sound hpick hrep ht hlim⟩⟩
    obtain ⟨departed, raised⟩ := handOut_exhausted sound hpick hlim
    obtain ⟨service, down, given, -, -⟩ := departed.of_atTime
    exact ⟨_, run, service, down, given, raised⟩
  · have hpick := PairPort.pick_head he hp (PairPort.toReplay_none hno) hq
    have hsent : sent = (s.pair p).sentHead f rest s.retryLimit s.gid (max s.now tm) := hsent
    rw [handOut_queue (s := s.atTime tm) hpick hq] at run
    have gone : (fragmentGone f ((s.atTime tm).updPair p fun _ => sent)).tables.Sound := by
      obtain ⟨_, _, e⟩ := tallied_fragmentGone f ((s.atTime tm).updPair p fun _ => sent)
      rw [e]; exact hs
    have port : (fragmentGone f ((s.atTime tm).updPair p fun _ => sent)).pair p = sent := by
      rw [fragmentGone_pair, State.updPair_pair_same]
    have state : sent.state = (s.pair p).state := by rw [hsent, PairPort.sentHead_state]
    have ends : sent.isEmpty = true ↔ rest = [] ∧ s.retryLimit = 0 := by rw [hsent]; exact PairPort.sentHead_isEmpty ..
    refine ⟨fun hd => ⟨_, run, ?_⟩, fun hd => ⟨_, run, ?_⟩⟩
    · obtain ⟨hst, hend⟩ := hd
      have := afterStores_drained gone (p := p) (by rw [port, state, hst]) (by rw [port]; exact ends.mpr hend)
      rw [port, hsent] at this
      rw [hsent]
      exact this
    · have := afterStores_goesOn gone (p := p) (by rw [port, state, ends]; exact hd)
      rw [hsent] at this ⊢
      exact this
  · have hpick := PairPort.pick_last he hp (PairPort.toReplay_none hno) hq
    rw [if_pos (PairPort.fillerDue_iff.mpr hdue)] at hpick
    exact ⟨_, run, handOut_filler sound hpick⟩
  · have hpick := PairPort.pick_last he hp (PairPort.toReplay_none hno) hq
    rw [if_neg (by rw [PairPort.fillerDue_iff, ha, hx]; simp [Nat.not_le.mpr hl])] at hpick
    exact ⟨_, run, handOut_nothing sound hpick⟩

end Sys2Proof.Machine
end

section
/-! PROOFS of the family 01: a bad fragment, taken by the burst guard, the probation timing and the receiver (R26, R40, R44..R49,
R52). Settles O30. -/

namespace Sys2Proof.Machine

/-! ### Pair counters -/

/-- The counters in the order of their places. -/
def PairCtr.inOrder : List PairCtr :=
  [.handed, .dataHanded, .replays, .good, .void, .bad, .duplicates, .retryAsk, .bursts, .strays]

theorem PairCtr.inOrder_index (c : PairCtr) : PairCtr.inOrder[c.index.val]? = some c := by cases c <;> rfl

theorem PairCtr.index_inj {c d : PairCtr} (h : c.index = d.index) : c = d :=
  Option.some.inj (by rw [← PairCtr.inOrder_index c, h, PairCtr.inOrder_index])

/-- A pair counter after one is raised. -/
theorem PairPort.bump_counter (pp : PairPort) (c d : PairCtr) :
    (pp.bump c).counter d = if d = c then satInc32 (pp.counter c) else pp.counter d := by
  unfold PairPort.bump PairPort.counter
  simp only [Vector.getElem_set]
  by_cases h : d = c
  · subst h; simp
  · have : c.index.val ≠ d.index.val := fun e => h (PairCtr.index_inj (Fin.ext e)).symm
    simp [h, this]

theorem PairPort.counter_congr {pp pp' : PairPort} (h : pp'.counters = pp.counters) (c : PairCtr) : pp'.counter c = pp.counter c := by
  unfold PairPort.counter; rw [h]

/-! ### What an unlocked guard learns -/

theorem Guard.learn_lastBad (g : Guard) (b : Option Nat) (t : Nat) :
    ({ g with lastBad := b } : Guard).learn t = { g.learn t with lastBad := b } := by
  unfold Guard.learn
  dsimp only
  split <;> rfl

/-- What R46 says of a burst start is what the guard learns. -/
theorem Guard.learn_of_learns {g : Guard} {t P c : Nat} (h : g.Learns t P c) :
    g.learn t = { g with lastStart := some t, period := P, confidence := c } := by
  have interval : ∀ {l : Nat}, g.lastStart = some l → g.learnInterval (t - l) = (P, c) →
      g.learn t = { g with lastStart := some t, period := P, confidence := c } := fun hl hi => by
    unfold Guard.learn
    rw [hl]
    dsimp only
    rw [hi]
  cases h with
  | first undefined hP hc =>
    unfold Guard.learn
    rw [undefined, hP, hc]
  | outOfRange l last range hP hc =>
    refine interval last ?_
    unfold Guard.learnInterval
    rw [if_pos range, hP, hc]
  | firstPeriod l last range unlearnt hP hc =>
    refine interval last ?_
    unfold Guard.learnInterval
    rw [if_neg (by omega), if_pos unlearnt, hP, hc]
  | agrees l last range learnt near hP hc =>
    refine interval last ?_
    unfold Guard.learnInterval
    rw [if_neg (by omega), if_neg learnt, if_pos near, hP, hc]
  | differs l last range learnt far hP hc =>
    refine interval last ?_
    unfold Guard.learnInterval
    rw [if_neg (by omega), if_neg learnt, if_neg (by omega), hP, hc]

/-! ### A bad check taken by the guard -/

/-- What a burst start at `t` ms makes of a guard (R46, R47). -/
def Guard.afterLearning (g : Guard) (threshold t : Nat) : Guard :=
  if threshold ≤ (g.learn t).confidence then (g.learn t).lock t else g.learn t

/-- The port after its guard has taken a bad check at `now` (R44..R49). -/
def PairPort.guardTaken (pp : PairPort) (now threshold : Nat) : PairPort :=
  let g := { pp.guard with lastBad := some now }
  if pp.guard.isBurstStart now then
    if pp.guard.locked then
      if pp.guard.openAt now then
        if pp.guard.metNow then { (pp.bump .bursts) with guard := g } else { (pp.bump .bursts) with guard := g.accept (now / 1000) }
      else { ((pp.bump .bursts).bump .strays) with guard := g }
    else { (pp.bump .bursts) with guard := g.afterLearning threshold (now / 1000) }
  else { pp with guard := g }

/-- Apart from the guard and the counters the port is as it was, and only the burst counters rise. -/
theorem PairPort.guardTaken_frame (pp : PairPort) (now threshold : Nat) :
    ∃ g c, pp.guardTaken now threshold = { pp with guard := g, counters := c }
      ∧ ∀ d, d ≠ .bursts → d ≠ .strays → (pp.guardTaken now threshold).counter d = pp.counter d := by
  have bursts : ∀ d, d ≠ .bursts → (pp.bump .bursts).counter d = pp.counter d := fun d hd => by rw [PairPort.bump_counter, if_neg hd]
  unfold PairPort.guardTaken
  dsimp only
  split_ifs
  · exact ⟨_, _, rfl, fun d hd _ => bursts d hd⟩
  · exact ⟨_, _, rfl, fun d hd _ => bursts d hd⟩
  · refine ⟨_, _, rfl, fun d hd hs => ?_⟩
    have stray := (pp.bump .bursts).bump_counter .strays d
    rw [if_neg hs, bursts d hd] at stray
    exact stray
  · exact ⟨_, _, rfl, fun d hd _ => bursts d hd⟩
  · exact ⟨_, _, rfl, fun _ _ _ => rfl⟩

/-- What the guard's part changes of the state: the port, and GUARD_LOCKED where it locks (R47). -/
structure GuardStep (s : State) (p : PairIx) (t : State) : Prop where
  port : t.pair p = (s.pair p).guardTaken s.now s.guardThreshold
  tables : t.tables = s.tables
  now : t.now = s.now
  reas : t.reas = s.reas
  locks : (s.pair p).guard.isBurstStart s.now = true → (s.pair p).guard.locked = false →
    s.guardThreshold ≤ ((s.pair p).guard.learn (s.now / 1000)).confidence →
    t.event .guardLocked = (s.event .guardLocked).occur
      (detail2 (byteFields p.val 0 (((s.pair p).guard.learn (s.now / 1000)).period / 256) ((s.pair p).guard.learn (s.now / 1000)).period)
        (asWord (s.now / 1000 + ((s.pair p).guard.learn (s.now / 1000)).period)))

/-- A burst start taken by an unlocked guard, on sound table memory (R46, R47). -/
theorem learnBurst_sound {s : State} (h : s.tables.Sound) (p : PairIx) (t : Nat) :
    (learnBurst p t s).pair p = { s.pair p with guard := (s.pair p).guard.afterLearning s.guardThreshold t }
      ∧ (learnBurst p t s).tables = s.tables ∧ (learnBurst p t s).now = s.now ∧ (learnBurst p t s).reas = s.reas
      ∧ (s.guardThreshold ≤ ((s.pair p).guard.learn t).confidence →
          (learnBurst p t s).event .guardLocked = (s.event .guardLocked).occur
            (detail2 (byteFields p.val 0 (((s.pair p).guard.learn t).period / 256) ((s.pair p).guard.learn t).period)
              (asWord (t + ((s.pair p).guard.learn t).period)))) := by
  unfold learnBurst Guard.afterLearning
  dsimp only
  rw [useGroup_sound (by exact h)]
  have same : ∀ f : PairPort → PairPort, (s.updPair p f).guardThreshold = s.guardThreshold := fun _ => rfl
  simp only [same]
  split_ifs with hc
  · have reported := onlyReported_raiseEvent .guardLocked
      (detail2 (byteFields p.val 0 (((s.pair p).guard.learn t).period / 256) ((s.pair p).guard.learn t).period)
        (asWord (t + ((s.pair p).guard.learn t).period)))
      ((s.updPair p fun pp => { pp with guard := (s.pair p).guard.learn t }).updPair p fun pp =>
        { pp with guard := ((s.pair p).guard.learn t).lock t })
    refine ⟨?_, raiseEvent_tables _ _ (by exact h), reported.now, reported.reas, fun _ => ?_⟩
    · rw [reported.pair, State.updPair_pair_same, State.updPair_pair_same]
    · rw [raiseEvent_event _ _ _ (by decide) (by decide), if_pos rfl]
      rfl
  · exact ⟨State.updPair_pair_same .., rfl, rfl, rfl, fun h => absurd h hc⟩

theorem guardBadCheck_step {s : State} (h : s.tables.Sound) (p : PairIx) : GuardStep s p (guardBadCheck p s) := by
  have learnt := (s.pair p).guard.learn_lastBad (some s.now) (s.now / 1000)
  unfold guardBadCheck
  dsimp only
  split
  · next hb =>
    split
    · next hl =>
      unfold judgeBurst
      simp only [State.updPair_pair_same, State.updPair_now]
      change GuardStep s p (if (s.pair p).guard.openAt s.now = true then if (s.pair p).guard.metNow = true then _ else _ else _)
      have locked : ∀ {P : Prop}, (s.pair p).guard.locked = false → P := fun h => by rw [h] at hl; cases hl
      split
      · next ho =>
        split
        · next hm =>
          refine ⟨?_, rfl, rfl, rfl, fun _ h => locked h⟩
          unfold PairPort.guardTaken
          simp only [hb, hl, ho, hm, if_true, State.updPair_pair_same]
          rfl
        · next hm =>
          refine ⟨?_, rfl, rfl, rfl, fun _ h => locked h⟩
          unfold PairPort.guardTaken
          simp only [hb, hl, ho, hm, if_true, Bool.false_eq_true, if_false, State.updPair_pair_same]
          rfl
      · next ho =>
        refine ⟨?_, rfl, rfl, rfl, fun _ h => locked h⟩
        unfold PairPort.guardTaken
        simp only [hb, hl, ho, if_true, Bool.false_eq_true, if_false, State.updPair_pair_same]
        rfl
    · next hl =>
      have unlocked : (s.pair p).guard.locked = false := by simpa using hl
      obtain ⟨port, tables, now, reas, locks⟩ := learnBurst_sound (s := (s.updPair p fun pp =>
        { pp with guard := { (s.pair p).guard with lastBad := some s.now } }).updPair p fun pp => pp.bump .bursts) h p (s.now / 1000)
      rw [State.updPair_pair_same, State.updPair_pair_same] at port locks
      have guard : (({ s.pair p with guard := { (s.pair p).guard with lastBad := some s.now } } : PairPort).bump .bursts).guard
          = { (s.pair p).guard with lastBad := some s.now } := rfl
      rw [guard] at port locks
      rw [learnt] at locks
      refine ⟨?_, tables, now, reas, fun _ _ hc => locks hc⟩
      rw [port]
      unfold PairPort.guardTaken
      simp only [hb, unlocked, if_true, Bool.false_eq_true, if_false]
      rfl
  · next hb =>
    refine ⟨?_, rfl, rfl, rfl, fun h => absurd h hb⟩
    unfold PairPort.guardTaken
    simp only [hb, Bool.false_eq_true, if_false, State.updPair_pair_same]

/-! ### A bad fragment -/

/-- The port after a bad check in PROBATION (R9, R52). -/
def PairPort.probationMoved (pp : PairPort) (now : Nat) : PairPort :=
  if pp.state = .probation ∧ ¬(pp.guard.locked ∧ pp.guard.openAt now) then { pp with probStart := now } else pp

theorem probationBadCheck_eq (p : PairIx) (s : State) :
    (probationBadCheck p s).pair p = (s.pair p).probationMoved s.now ∧ (probationBadCheck p s).tables = s.tables
      ∧ (probationBadCheck p s).reas = s.reas ∧ (probationBadCheck p s).events = s.events := by
  unfold probationBadCheck PairPort.probationMoved
  dsimp only
  split
  · exact ⟨State.updPair_pair_same .., rfl, rfl, rfl⟩
  · exact ⟨rfl, rfl, rfl, rfl⟩

theorem PairPort.probationMoved_frame (pp : PairPort) (now : Nat) :
    ∃ t, pp.probationMoved now = { pp with probStart := t }
      ∧ (pp.state ≠ .probation → t = pp.probStart)
      ∧ (pp.state = .probation → t = if pp.guard.locked = true ∧ pp.guard.openAt now = true then pp.probStart else now) := by
  unfold PairPort.probationMoved
  split
  · next h => exact ⟨now, rfl, fun hn => absurd h.1 hn, fun _ => (if_neg h.2).symm⟩
  · next h =>
    refine ⟨pp.probStart, rfl, fun _ => rfl, fun hp => (if_pos ?_).symm⟩
    by_contra hn
    exact h ⟨hp, hn⟩

/-- What a bad fragment makes of the port, and of the rest of the state nothing but what the guard reports (R26, R40). -/
structure BadTaken (s : State) (p : PairIx) (t : State) : Prop where
  port : t.pair p = (((((s.pair p).bump .bad).guardTaken s.now s.guardThreshold).probationMoved s.now).ask)
  tables : t.tables = s.tables
  reas : t.reas = s.reas
  locks : (s.pair p).guard.isBurstStart s.now = true → (s.pair p).guard.locked = false →
    s.guardThreshold ≤ ((s.pair p).guard.learn (s.now / 1000)).confidence →
    t.event .guardLocked = (s.event .guardLocked).occur
      (detail2 (byteFields p.val 0 (((s.pair p).guard.learn (s.now / 1000)).period / 256) ((s.pair p).guard.learn (s.now / 1000)).period)
        (asWord (s.now / 1000 + ((s.pair p).guard.learn (s.now / 1000)).period)))

theorem takeBad_sound {s : State} (h : s.tables.Sound) {p : PairIx} (hr : (s.pair p).state.running = true) :
    BadTaken s p (takeBad p s) := by
  have step := guardBadCheck_step (s := s.updPair p fun pp => pp.bump .bad) h p
  obtain ⟨port, tables, now, reas, locks⟩ := step
  rw [State.updPair_pair_same] at port locks
  unfold takeBad
  dsimp only
  generalize guardBadCheck p (s.updPair p fun pp => pp.bump .bad) = x at port tables now reas locks ⊢
  obtain ⟨moved, mtables, mreas, mevents⟩ := probationBadCheck_eq p x
  rw [port, now] at moved
  generalize probationBadCheck p x = y at moved mtables mreas mevents ⊢
  obtain ⟨g, c, guarded, -⟩ := ((s.pair p).bump .bad).guardTaken_frame s.now s.guardThreshold
  obtain ⟨t, started, -⟩ := (((s.pair p).bump .bad).guardTaken s.now s.guardThreshold).probationMoved_frame s.now
  have running : (y.pair p).state.running = true := by
    rw [moved]
    change (PairPort.probationMoved (PairPort.guardTaken _ s.now s.guardThreshold) s.now).state.running = true
    rw [started, guarded]
    exact hr
  unfold whileRunning
  rw [if_pos running]
  refine ⟨?_, mtables.trans tables, mreas.trans reas, fun hb hl hc => ?_⟩
  · rw [State.updPair_pair_same, moved]
    rfl
  · exact (State.event_congr (congrArg EventUnit.kinds mevents) _).trans (locks hb hl hc)

/-! ### The burst guard's cases -/

theorem Guard.isBurstStart_iff (g : Guard) (now : Nat) : g.isBurstStart now = true ↔ ∀ b, g.lastBad = some b → b + 20000 < now := by
  unfold Guard.isBurstStart
  split
  · next h => simp [h]
  · next b h => simp [h]

theorem Guard.openAt_iff (g : Guard) (now : Nat) : g.openAt now = true ↔ ∃ w, g.window = some w ∧ now ≤ w.endMs * 1000 := by
  unfold Guard.openAt
  split
  · next w h => simp [h]
  · next h => simp [h]

/-- The last bad check is recorded (R44). -/
theorem PairPort.guardTaken_lastBad (pp : PairPort) (now threshold : Nat) :
    (pp.guardTaken now threshold).guard.lastBad = some now := by
  unfold PairPort.guardTaken
  dsimp only
  split_ifs
  · rfl
  · rfl
  · rfl
  · dsimp only
    unfold Guard.afterLearning
    rw [Guard.learn_lastBad]
    split <;> rfl
  · rfl

section taken

variable {pp : PairPort} {now threshold : Nat}

/-- A bad check of a burst already begun (R44). -/
theorem PairPort.guardTaken_repeat (h : pp.guard.isBurstStart now = false) :
    pp.guardTaken now threshold = { pp with guard := { pp.guard with lastBad := some now } } := by
  unfold PairPort.guardTaken
  simp only [h, Bool.false_eq_true, if_false]

/-- A burst start is counted (R44). -/
theorem PairPort.guardTaken_bursts (h : pp.guard.isBurstStart now = true) :
    (pp.guardTaken now threshold).counter .bursts = satInc32 (pp.counter .bursts) := by
  have counted : (pp.bump .bursts).counter .bursts = satInc32 (pp.counter .bursts) := by rw [PairPort.bump_counter, if_pos rfl]
  have stray := (pp.bump .bursts).bump_counter .strays .bursts
  rw [if_neg (by decide), counted] at stray
  unfold PairPort.guardTaken
  simp only [h, if_true]
  split_ifs
  · exact counted
  · exact counted
  · exact stray
  · exact counted

/-- A burst start inside a locked guard's window: in-window, or a repeat of one already met (R49). -/
theorem PairPort.guardTaken_inWindow {w : GuardWindow} (h : pp.guard.isBurstStart now = true) (hl : pp.guard.locked = true)
    (hw : pp.guard.window = some w) (ho : now ≤ w.endMs * 1000) :
    (pp.guardTaken now threshold).counter .strays = pp.counter .strays
      ∧ (pp.guardTaken now threshold).guard = (if w.met then { pp.guard with lastBad := some now } else
          { pp.guard with lastBad := some now, lastStart := some (now / 1000), confidence := min 7 (pp.guard.confidence + 1)
                          nextStart := some (now / 1000 + pp.guard.period), window := some { w with met := true } }) := by
  have opened := (pp.guard.openAt_iff now).mpr ⟨w, hw, ho⟩
  have met : pp.guard.metNow = w.met := by unfold Guard.metNow; rw [hw]
  have stray : (pp.bump .bursts).counter .strays = pp.counter .strays := by rw [PairPort.bump_counter, if_neg (by decide)]
  unfold PairPort.guardTaken
  simp only [h, hl, opened, met, if_true]
  split
  · exact ⟨stray, rfl⟩
  · refine ⟨stray, ?_⟩
    unfold Guard.accept
    simp only [hw, Option.map_some]

/-- A burst start outside a locked guard's window is a stray (R49). -/
theorem PairPort.guardTaken_stray (h : pp.guard.isBurstStart now = true) (hl : pp.guard.locked = true)
    (hw : pp.guard.openAt now = false) :
    (pp.guardTaken now threshold).counter .strays = satInc32 (pp.counter .strays)
      ∧ (pp.guardTaken now threshold).guard = { pp.guard with lastBad := some now } := by
  have first : (pp.bump .bursts).counter .strays = pp.counter .strays := by rw [PairPort.bump_counter, if_neg (by decide)]
  have stray := (pp.bump .bursts).bump_counter .strays .strays
  rw [if_pos rfl, first] at stray
  unfold PairPort.guardTaken
  dsimp only
  rw [if_pos h, if_pos hl, if_neg (by simp [hw])]
  exact ⟨stray, rfl⟩

/-- A burst start that an unlocked guard learns from, and which may lock it (R46, R47). -/
theorem PairPort.guardTaken_learns {P c : Nat} (h : pp.guard.isBurstStart now = true) (hl : pp.guard.locked = false)
    (learns : pp.guard.Learns (now / 1000) P c) :
    (pp.guardTaken now threshold).counter .strays = pp.counter .strays
      ∧ (pp.guardTaken now threshold).guard = (if threshold ≤ c then
          { pp.guard with lastBad := some now, lastStart := some (now / 1000), period := P, confidence := c, locked := true
                          nextStart := some (now / 1000 + P), window := none }
        else { pp.guard with lastBad := some now, lastStart := some (now / 1000), period := P, confidence := c }) := by
  have stray : (pp.bump .bursts).counter .strays = pp.counter .strays := by rw [PairPort.bump_counter, if_neg (by decide)]
  unfold PairPort.guardTaken
  dsimp only
  rw [if_pos h, if_neg (by simp [hl])]
  refine ⟨stray, ?_⟩
  unfold Guard.afterLearning
  rw [Guard.learn_lastBad, Guard.learn_of_learns learns]
  rfl

end taken

/-- Asking for a replay: counted when the receiver was IN_STEP (R40). -/
theorem PairPort.ask_spec (pp : PairPort) :
    ∃ c, pp.ask = { pp with rx := .retryAsk, counters := c } ∧ (∀ d, d ≠ .retryAsk → pp.ask.counter d = pp.counter d)
      ∧ pp.ask.counter .retryAsk = if pp.rx = .inStep then satInc32 (pp.counter .retryAsk) else pp.counter .retryAsk := by
  unfold PairPort.ask
  split
  · next h =>
    refine ⟨_, rfl, fun d hd => ?_, ?_⟩
    · exact (pp.bump_counter .retryAsk d).trans (if_neg hd)
    · exact (pp.bump_counter .retryAsk .retryAsk).trans (by rw [if_pos rfl, h, if_pos rfl])
  · next h =>
    refine ⟨pp.counters, ?_, fun _ _ => rfl, ?_⟩
    · rw [← h]
    · rw [h, if_neg (by decide)]

/-- The port after a bad fragment (R26, R40). -/
def PairPort.badTaken (pp : PairPort) (now threshold : Nat) : PairPort :=
  (((pp.bump .bad).guardTaken now threshold).probationMoved now).ask

/-- What a bad fragment changes of a port: the guard, the probation start, the receiver and the counters (R26). -/
theorem PairPort.badTaken_spec (pp : PairPort) (now threshold : Nat) :
    ∃ start c, pp.badTaken now threshold
        = { pp with guard := ((pp.bump .bad).guardTaken now threshold).guard, probStart := start, rx := .retryAsk, counters := c }
      ∧ (∀ d, d ≠ .retryAsk → (pp.badTaken now threshold).counter d = ((pp.bump .bad).guardTaken now threshold).counter d)
      ∧ (pp.badTaken now threshold).counter .retryAsk
          = (if pp.rx = .inStep then satInc32 (pp.counter .retryAsk) else pp.counter .retryAsk)
      ∧ (pp.state ≠ .probation → start = pp.probStart)
      ∧ (pp.state = .probation → start = if ((pp.bump .bad).guardTaken now threshold).guard.locked = true
          ∧ ((pp.bump .bad).guardTaken now threshold).guard.openAt now = true then pp.probStart else now) := by
  obtain ⟨g, c, guarded, kept⟩ := (pp.bump .bad).guardTaken_frame now threshold
  have asked : ((pp.bump .bad).guardTaken now threshold).counter .retryAsk = pp.counter .retryAsk := by
    rw [kept _ (by decide) (by decide), PairPort.bump_counter, if_neg (by decide)]
  unfold PairPort.badTaken
  generalize (pp.bump .bad).guardTaken now threshold = q at guarded asked ⊢
  obtain ⟨start, moved, notProbation, probation⟩ := q.probationMoved_frame now
  obtain ⟨c', result, others, asks⟩ := (q.probationMoved now).ask_spec
  have unmoved : ∀ d, (q.probationMoved now).counter d = q.counter d := fun d => by rw [moved]; rfl
  subst guarded
  refine ⟨start, c', ?_, fun d hd => (others d hd).trans (unmoved d), ?_, notProbation, probation⟩
  · rw [result, moved]; rfl
  · rw [asks, unmoved, asked, moved]; rfl

/-- Settles O30: the port by `badTaken_spec`, the guard by its cases, and then the distributor's work. -/
theorem receivedBad : Obligations.ReceivedBad := by
  rintro s tm p bytes _ now hs hr hc rfl rfl
  have bad : receive p bytes (s.atTime tm) = takeBad p (s.atTime tm) := by unfold receive; rw [hc]
  obtain ⟨port, tables, reas, locks⟩ := takeBad_sound (s := s.atTime tm) hs (p := p) hr
  have work := onlyPlaced_finish (s := takeBad p (s.atTime tm)) (by rw [tables]; exact hs)
  obtain ⟨fs, after⟩ := work.frame.pairs p
  have port : (takeBad p (s.atTime tm)).pair p = (s.pair p).badTaken (max s.now tm) s.guardThreshold := port
  refine ⟨_, by rw [exec_received tm hr, bad], ?_⟩
  obtain ⟨start, c, changed, kept, asks, notProbation, probation⟩ := (s.pair p).badTaken_spec (max s.now tm) s.guardThreshold
  have count : ∀ d, ((finish (takeBad p (s.atTime tm))).pair p).counter d
      = ((s.pair p).badTaken (max s.now tm) s.guardThreshold).counter d := fun d => by rw [after, port]; rfl
  have counter : ∀ d, d ≠ .retryAsk → ((finish (takeBad p (s.atTime tm))).pair p).counter d
      = (((s.pair p).bump .bad).guardTaken (max s.now tm) s.guardThreshold).counter d := fun d hd => (count d).trans (kept d hd)
  have full := after.trans (by rw [port, changed])
  have before : ∀ d, d ≠ .bad → ((s.pair p).bump .bad).counter d = (s.pair p).counter d := fun d hd => by
    rw [PairPort.bump_counter, if_neg hd]
  have starts := (s.pair p).guard.isBurstStart_iff (max s.now tm)
  have guard : ((finish (takeBad p (s.atTime tm))).pair p).guard
      = (((s.pair p).bump .bad).guardTaken (max s.now tm) s.guardThreshold).guard := by rw [full]
  refine ⟨?_, by rw [full], by rw [full], by rw [full], by rw [full], by rw [full], by rw [work.frame.reas, reas]; rfl, ?_, ?_, ?_, ?_, ?_, ?_⟩
  · obtain ⟨-, -, -, others⟩ := ((s.pair p).bump .bad).guardTaken_frame (max s.now tm) s.guardThreshold
    rw [counter _ (by decide), others _ (by decide) (by decide), PairPort.bump_counter, if_pos rfl]
  · rw [guard, PairPort.guardTaken_lastBad]
  · rw [count, asks]
  · rintro ⟨b, hb, hle⟩
    have quiet : (s.pair p).guard.isBurstStart (max s.now tm) = false := by
      rw [Bool.eq_false_iff, ne_eq, starts]
      exact fun h => absurd (h b hb) (by omega)
    have same := PairPort.guardTaken_repeat (pp := (s.pair p).bump .bad) (threshold := s.guardThreshold) quiet
    exact ⟨by rw [guard, same]; rfl, by rw [counter _ (by decide), same]; exact before _ (by decide)⟩
  · intro hb
    have burst := starts.mpr hb
    refine ⟨?_, fun w hl hw ho => ?_, fun hl hw => ?_, fun P c hl learns => ?_⟩
    · rw [counter _ (by decide), PairPort.guardTaken_bursts (pp := (s.pair p).bump .bad) burst, before _ (by decide)]
    · obtain ⟨hstray, hguard⟩ := PairPort.guardTaken_inWindow (pp := (s.pair p).bump .bad) (threshold := s.guardThreshold) burst hl hw ho
      rw [counter _ (by decide), hstray, before _ (by decide), guard, hguard]
      exact ⟨rfl, rfl⟩
    · have closed : (s.pair p).guard.openAt (max s.now tm) = false := by
        rw [Bool.eq_false_iff, ne_eq, Guard.openAt_iff]
        rintro ⟨w, h, ho⟩
        exact absurd (hw w h) (by omega)
      obtain ⟨hstray, hguard⟩ := PairPort.guardTaken_stray (pp := (s.pair p).bump .bad) (threshold := s.guardThreshold) burst hl closed
      rw [counter _ (by decide), hstray, before _ (by decide), guard, hguard]
      exact ⟨rfl, rfl⟩
    · obtain ⟨hstray, hguard⟩ := PairPort.guardTaken_learns (pp := (s.pair p).bump .bad) (threshold := s.guardThreshold) burst hl learns
      have learnt := Guard.learn_of_learns learns
      refine ⟨by rw [counter _ (by decide), hstray, before _ (by decide)], by rw [guard, hguard]; rfl, fun hle => ?_⟩
      have locked := locks burst hl (by change s.guardThreshold ≤ ((s.pair p).guard.learn (max s.now tm / 1000)).confidence; rw [learnt]; exact hle)
      change _ = (s.event .guardLocked).occur (detail2 (byteFields p.val 0 (((s.pair p).guard.learn (max s.now tm / 1000)).period / 256)
        ((s.pair p).guard.learn (max s.now tm / 1000)).period) (asWord (max s.now tm / 1000
          + ((s.pair p).guard.learn (max s.now tm / 1000)).period))) at locked
      rw [learnt] at locked
      rw [work.frame.event, locked]
  · intro hst
    rw [full, ← notProbation hst]
  · intro hst
    have hstart : ((finish (takeBad p (s.atTime tm))).pair p).probStart = start := by rw [full]
    rw [hstart, probation hst, guard]
    simp only [← Guard.openAt_iff]
    exact ⟨fun h => if_pos h, fun h => if_neg h⟩

end Sys2Proof.Machine
end

section
/-! PROOFS of the family 01: a good or void fragment at the link of its pair, and the samples of the measured latency (R17..R19,
R26, R30, R31, R33, R37). Settles O19. -/

namespace Sys2Proof.Machine

/-! ### Work on one port -/

/-- `t` is `s` after changes of pair `p`'s port, to `pp` but for fragments placed on it, and after the distributor's work. -/
structure PortWork (s : State) (p : PairIx) (pp : PairPort) (t : State) : Prop where
  tables : t.tables = s.tables
  digit : t.digit = s.digit
  now : t.now = s.now
  reas : t.reas = s.reas
  port : ∃ fs, t.pair p = { pp with txq := pp.txq ++ fs }

theorem PortWork.refl (s : State) (p : PairIx) : PortWork s p (s.pair p) s := ⟨rfl, rfl, rfl, rfl, [], by simp⟩

theorem PortWork.sound {s t : State} {p : PairIx} {pp : PairPort} (h : PortWork s p pp t) (hs : s.tables.Sound) : t.tables.Sound := by
  rw [h.tables]; exact hs

/-- A change of the port that passes over its transmit queue. -/
def Overlooks (g : PairPort → PairPort) : Prop :=
  ∀ (pp : PairPort) (fs : List Frag), g { pp with txq := pp.txq ++ fs } = { g pp with txq := (g pp).txq ++ fs }

theorem PortWork.updPair {s t : State} {p : PairIx} {pp : PairPort} (h : PortWork s p pp t) {g : PairPort → PairPort}
    (hg : Overlooks g) : PortWork s p (g pp) (t.updPair p g) where
  tables := h.tables
  digit := h.digit
  now := h.now
  reas := h.reas
  port := by
    obtain ⟨fs, e⟩ := h.port
    exact ⟨fs, by rw [State.updPair_pair_same, e, hg]⟩

theorem PortWork.placed {s t u : State} {p : PairIx} {pp : PairPort} (h : PortWork s p pp t) (k : OnlyPlaced t u) :
    PortWork s p pp u where
  tables := k.frame.tables.trans h.tables
  digit := k.frame.digit.trans h.digit
  now := k.frame.now.trans h.now
  reas := k.frame.reas.trans h.reas
  port := by
    obtain ⟨fs, e⟩ := h.port
    obtain ⟨gs, k⟩ := k.frame.pairs p
    exact ⟨fs ++ gs, by rw [k, e]; simp⟩

/-! ### The steps of R26 on the port -/

/-- A good or void fragment heard and counted, and the rewind mark cleared (R26, R37). -/
def PairPort.heard (pp : PairPort) (void : Bool) (a : Txn) (now : Nat) : PairPort :=
  ({ pp.bump (if void then .void else .good) with lastHeard := now }).clearMark a

/-- An acknowledgement taken (R30, R33). -/
def PairPort.acknowledged (pp : PairPort) (a : Txn) : PairPort := if pp.ackCount a = 0 then pp else pp.acked (pp.ackCount a)

/-- A replay request taken (R31, R37). -/
def PairPort.requested (pp : PairPort) (a : Txn) : PairPort :=
  if pp.store.any fun e => decide (e.txn = a + 1) then
    if pp.startsReplay a then { pp with replay := some { cursor := a + 1, base := a } } else pp
  else if pp.mayRewind a then { pp with nextTxn := a + 1, rewindMark := some a } else pp

theorem overlooks_clearMark (a : Txn) : Overlooks fun pp => pp.clearMark a := fun pp fs => by
  dsimp only
  unfold PairPort.clearMark
  dsimp only
  split <;> rfl

theorem overlooks_heard (void : Bool) (a : Txn) (now : Nat) : Overlooks fun pp => pp.heard void a now := fun pp fs =>
  overlooks_clearMark a { pp.bump (if void then .void else .good) with lastHeard := now } fs

theorem overlooks_acked (n : Nat) : Overlooks fun pp => pp.acked n := fun _ _ => rfl

/-- What the steps leave of the port: all but what they write. -/
structure PairPort.SameBut (pp pp' : PairPort) : Prop where
  result : pp' = { pp with lastHeard := pp'.lastHeard, counters := pp'.counters, rewindMark := pp'.rewindMark, store := pp'.store
                           replay := pp'.replay, nextTxn := pp'.nextTxn }

theorem PairPort.SameBut.trans {a b c : PairPort} (h : a.SameBut b) (k : b.SameBut c) : a.SameBut c := by
  obtain ⟨h⟩ := h
  obtain ⟨k⟩ := k
  exact ⟨by rw [k, h]⟩

theorem PairPort.sameBut_clearMark (pp : PairPort) (a : Txn) : pp.SameBut (pp.clearMark a) := by
  unfold PairPort.clearMark
  split <;> exact ⟨rfl⟩

theorem PairPort.sameBut_heard (pp : PairPort) (void : Bool) (a : Txn) (now : Nat) : pp.SameBut (pp.heard void a now) :=
  PairPort.SameBut.trans (b := { pp.bump (if void then .void else .good) with lastHeard := now }) ⟨rfl⟩
    (PairPort.sameBut_clearMark _ a)

theorem PairPort.sameBut_acknowledged (pp : PairPort) (a : Txn) : pp.SameBut (pp.acknowledged a) := by
  unfold PairPort.acknowledged
  split <;> exact ⟨rfl⟩

theorem PairPort.sameBut_requested (pp : PairPort) (a : Txn) : pp.SameBut (pp.requested a) := by
  unfold PairPort.requested
  split_ifs <;> exact ⟨rfl⟩

/-! ### The steps of R26 on sound table memory -/

/-- The acknowledgement ends the pair's drain (R13). -/
def PairPort.EndsDrain (pp : PairPort) (a : Txn) : Prop :=
  pp.state = .draining ∧ pp.ackCount a ≠ 0 ∧ (pp.acknowledged a).isEmpty = true

/-- An acknowledgement that does not end a drain. -/
theorem portWork_applyAck {s t : State} {p : PairIx} {pp : PairPort} (hs : s.tables.Sound) (h : PortWork s p pp t) (a : Txn)
    (hn : ¬((t.pair p).EndsDrain a)) : PortWork s p (pp.acknowledged a) (applyAck p a t) := by
  obtain ⟨fs, e⟩ := h.port
  have count : (t.pair p).ackCount a = pp.ackCount a := by rw [e]; rfl
  unfold applyAck PairPort.acknowledged
  dsimp only
  rw [count]
  split
  · exact h
  · next hc =>
    have changed := h.updPair (overlooks_acked (pp.ackCount a))
    have goes : afterStores p (t.updPair p fun pp' => pp'.acked (pp.ackCount a)) = attempt (t.updPair p fun pp' => pp'.acked (pp.ackCount a)) := by
      refine if_neg fun hd => hn ?_
      rw [State.updPair_pair_same] at hd
      refine ⟨hd.1, by rw [count]; exact hc, ?_⟩
      unfold PairPort.acknowledged
      rw [if_neg (by rw [count]; exact hc), count]
      exact hd.2
    rw [goes]
    exact changed.placed (onlyPlaced_attempt (changed.sound hs))

theorem portWork_applyRequest {s t : State} {p : PairIx} {pp : PairPort} (hs : s.tables.Sound) (h : PortWork s p pp t) (a : Txn) :
    PortWork s p (pp.requested a) (applyRequest p a t) := by
  obtain ⟨fs, e⟩ := h.port
  have stored : (t.pair p).store = pp.store := by rw [e]
  have starts : (t.pair p).startsReplay a = pp.startsReplay a := by rw [e]; rfl
  have rewinds : (t.pair p).mayRewind a = pp.mayRewind a := by rw [e]; rfl
  unfold applyRequest PairPort.requested
  dsimp only
  rw [stored, starts, rewinds]
  split_ifs
  · have changed := h.updPair (g := fun pp => { pp with replay := some { cursor := a + 1, base := a } }) fun _ _ => rfl
    exact changed.placed (onlyPlaced_attempt (changed.sound hs))
  · exact h
  · exact h.updPair (g := fun pp => { pp with nextTxn := a + 1, rewindMark := some a }) fun _ _ => rfl
  · exact h

/-- The port of a pair that is still running when the fragment is acted on by kind (R26, steps 1 to 4). -/
def PairPort.linked (pp : PairPort) (f : FragFields) (void : Bool) (now : Nat) : PairPort :=
  if f.rrq then ((pp.heard void f.ackn now).acknowledged f.ackn).requested f.ackn else (pp.heard void f.ackn now).acknowledged f.ackn

theorem PairPort.sameBut_linked (pp : PairPort) (f : FragFields) (void : Bool) (now : Nat) : pp.SameBut (pp.linked f void now) := by
  have acked := (pp.sameBut_heard void f.ackn now).trans (PairPort.sameBut_acknowledged _ f.ackn)
  unfold PairPort.linked
  split
  · exact acked.trans (PairPort.sameBut_requested _ _)
  · exact acked

theorem PairPort.SameBut.state {pp pp' : PairPort} (h : pp.SameBut pp') : pp'.state = pp.state := by rw [h.result]

/-- The state in which a fragment is acted on by kind. -/
def beforeKind (p : PairIx) (f : FragFields) (void : Bool) (s : State) : State :=
  let s := s.updPair p fun pp => pp.heard void f.ackn s.now
  let s := applyAck p f.ackn s
  if f.rrq then whileRunning p (applyRequest p f.ackn) s else s

theorem takeFragment_eq (p : PairIx) (f : FragFields) (void : Bool) (s : State) :
    takeFragment p f void s = whileRunning p (byKind p f void) (beforeKind p f void s) := rfl

/-- Where no drain ends, the link's part of a fragment is work on the port (R26). -/
theorem portWork_beforeKind {s : State} (hs : s.tables.Sound) {p : PairIx} (hr : (s.pair p).state.running = true) (f : FragFields)
    (void : Bool) (hn : ¬((s.pair p).heard void f.ackn s.now).EndsDrain f.ackn) :
    PortWork s p ((s.pair p).linked f void s.now) (beforeKind p f void s) := by
  have heard := (PortWork.refl s p).updPair (overlooks_heard void f.ackn s.now)
  have acked := portWork_applyAck hs heard f.ackn (by rw [State.updPair_pair_same]; exact hn)
  unfold beforeKind PairPort.linked
  dsimp only
  split
  · have running : ((applyAck p f.ackn (s.updPair p fun pp => pp.heard void f.ackn s.now)).pair p).state.running = true := by
      obtain ⟨fs, e⟩ := acked.port
      have same := ((s.pair p).sameBut_heard void f.ackn s.now).trans (PairPort.sameBut_acknowledged _ f.ackn)
      rw [e]
      change ((PairPort.acknowledged _ _).state).running = true
      rw [same.state]
      exact hr
    unfold whileRunning
    rw [if_pos running]
    exact portWork_applyRequest hs acked f.ackn
  · exact acked

theorem takeFragment_running {s : State} (hs : s.tables.Sound) {p : PairIx} (hr : (s.pair p).state.running = true) (f : FragFields)
    (void : Bool) (hn : ¬((s.pair p).heard void f.ackn s.now).EndsDrain f.ackn) :
    takeFragment p f void s = byKind p f void (beforeKind p f void s) := by
  obtain ⟨fs, e⟩ := (portWork_beforeKind hs hr f void hn).port
  rw [takeFragment_eq]
  unfold whileRunning
  rw [if_pos]
  rw [e]
  change ((PairPort.linked _ _ _ _).state).running = true
  rw [((s.pair p).sameBut_linked f void s.now).state]
  exact hr

/-! ### Samples of the measured latency -/

theorem nextLatency_first (m x : Nat) : nextLatency 1 m x = x := if_pos rfl

/-- A later sample moves the measured latency an eighth of the way, truncated toward zero (R18). -/
theorem nextLatency_later {n : Nat} (hn : n ≠ 1) (m x : Nat) :
    (nextLatency n m x : Int) = (m : Int) + ((x : Int) - (m : Int)).tdiv 8 := by
  have nonneg : 0 ≤ (m : Int) + ((x : Int) - (m : Int)).tdiv 8 := by
    rcases le_total m x with h | h
    · have quot := Int.tdiv_nonneg (a := (x : Int) - m) (b := 8) (by omega) (by omega)
      omega
    · have back : (x : Int) - m = -((m : Int) - x) := by omega
      have split := Int.mul_tdiv_add_tmod ((m : Int) - x) 8
      have rest := Int.tmod_nonneg 8 (a := (m : Int) - x) (by omega)
      rw [back, Int.neg_tdiv]
      omega
  unfold nextLatency
  rw [if_neg hn, Int.toNat_of_nonneg nonneg]

theorem latencySample_eq (now : Nat) (stamp : BitVec 16) :
    latencySample now stamp = min 20000 ((BitVec.ofNat 16 (now / 10) - stamp).toNat * 5) := by
  unfold latencySample
  congr 1
  omega

/-- Table memory after a good ECHO: in AUTO mode the measured latency is stored as E (R19). -/
def TableStore.withSample (t : TableStore) (p : PairIx) (auto : Bool) (latency : Nat) : TableStore :=
  if auto then t.store (.pair .active p 1) (asWord latency) else t

theorem TableStore.Sound.withSample {t : TableStore} (h : t.Sound) (p : PairIx) (auto : Bool) (latency : Nat) :
    (t.withSample p auto latency).Sound := by
  unfold TableStore.withSample
  split
  · exact h.store _ _
  · exact h

/-- What a good ECHO comes to on sound table memory: the port sampled, E stored in AUTO mode, and then the examination (R18, R19). -/
theorem takeEcho_sound {s : State} (hs : s.tables.Sound) (p : PairIx) (stamp : BitVec 16) :
    ∃ x, PortWork ((s.updPair p fun pp => pp.sample (latencySample s.now stamp)).updTables fun t =>
        t.withSample p (s.autoE p) ((s.pair p).sample (latencySample s.now stamp)).latency) p
        ((s.pair p).sample (latencySample s.now stamp)) x
      ∧ takeEcho p stamp s = examine p x := by
  have unmarked : ∀ f, (s.updPair p f).tables.pairDamaged[p.val] = false := fun _ => hs.pairs p
  unfold takeEcho
  dsimp only
  rw [useWord_sound (by exact hs)]
  simp only [unmarked, Bool.not_false, Bool.and_true]
  generalize hy : (if (s.updPair p fun pp => pp.sample (latencySample s.now stamp)).autoE p = true then _ else _ : State) = y
  have stored : y = (s.updPair p fun pp => pp.sample (latencySample s.now stamp)).updTables fun t =>
      t.withSample p (s.autoE p) ((s.pair p).sample (latencySample s.now stamp)).latency := by
    rw [← hy, State.updPair_pair_same]
    unfold TableStore.withSample
    change (if s.autoE p = true then _ else _) = _
    split
    · rfl
    · rfl
  have sound : y.tables.Sound := by rw [stored]; exact hs.withSample ..
  have work : PortWork y p (y.pair p) y := .refl y p
  have port : y.pair p = (s.pair p).sample (latencySample s.now stamp) := by
    rw [stored, State.updTables_pair, State.updPair_pair_same]
  rw [port] at work
  rw [← stored]
  split
  · exact ⟨y, work, rfl⟩
  · exact ⟨attempt y, work.placed (onlyPlaced_attempt sound), rfl⟩

/-- What an examination and the end of the command leave of the measured latency and of table memory (R9). -/
theorem examine_latency {s : State} (h : s.tables.Sound) (p : PairIx) :
    ((finish (examine p s)).pair p).samples = (s.pair p).samples ∧ ((finish (examine p s)).pair p).latency = (s.pair p).latency
      ∧ ((finish (examine p s)).pair p).sampled = (s.pair p).sampled ∧ (finish (examine p s)).tables = s.tables := by
  rw [examine_sound h]
  split
  · next hm =>
    have tables := toActive_tables h p
    have ysound : (toActive p s).tables.Sound := by rw [tables]; exact h
    have port : (toActive p s).pair p = (s.pair p).activated (s.probeDueActive p) := by rw [toActive_pair, if_pos rfl]
    have work := onlyPlaced_pairChanged_finish ysound
    have kept := work.frame.tables.trans (((settles_settledAfter _).sound ysound).trans tables)
    obtain ⟨fs, after | after⟩ := settledAfter_port ysound (q := p) (by rw [port]; simp [PairPort.activated]) work <;>
      rw [after, port] <;> exact ⟨rfl, rfl, rfl, kept⟩
  · have work := onlyPlaced_finish h
    obtain ⟨fs, after⟩ := work.frame.pairs p
    rw [after]
    exact ⟨rfl, rfl, rfl, work.frame.tables⟩

/-- A good fragment of this identity on a pair in PROBATION or ACTIVE comes to its action by kind (R26). -/
theorem receive_kind {s : State} (hs : s.tables.Sound) {p : PairIx} (hst : (s.pair p).state = .probation ∨ (s.pair p).state = .active)
    {bytes : List Byte} (hc : classify bytes = .good) (hg : (FragFields.parse bytes).gid = s.gid) :
    ∃ x pp, PortWork s p pp x ∧ (s.pair p).SameBut pp ∧ receive p bytes s = byKind p (FragFields.parse bytes) false x := by
  have running : (s.pair p).state.running = true := by obtain h | h := hst <;> rw [h] <;> rfl
  have runs : ¬((s.pair p).heard false (FragFields.parse bytes).ackn s.now).EndsDrain (FragFields.parse bytes).ackn := fun hd => by
    have state := hd.1
    rw [((s.pair p).sameBut_heard false (FragFields.parse bytes).ackn s.now).state] at state
    obtain h | h := hst <;> rw [h] at state <;> cases state
  refine ⟨_, _, portWork_beforeKind hs running _ false runs, (s.pair p).sameBut_linked _ false s.now, ?_⟩
  have notVoid : decide (FragClass.good = FragClass.void) = false := rfl
  rw [receive_sound hs running (by rw [hc]; decide), if_pos hg, hc, notVoid, takeFragment_running hs running _ false runs]

/-- Settles O19. -/
theorem latencyMovesTowardSample : Obligations.LatencyMovesTowardSample := by
  refine ⟨fun n m x => ⟨nextLatency_first m x, (nextLatency_between n m x).1, (nextLatency_between n m x).2,
    fun hn => nextLatency_later hn m x⟩, ?_⟩
  rintro s tm p bytes _ x hs hst rfl hc hg rfl
  have sound := sound_atTime hs tm
  have running : (s.pair p).state.running = true := by obtain h | h := hst <;> rw [h] <;> rfl
  have run := exec_received tm running bytes
  obtain ⟨y, pp, work, same, kind⟩ := receive_kind sound hst hc hg
  rw [kind] at run
  have same : (s.pair p).SameBut pp := same
  refine ⟨fun hk => ?_, fun hk => ?_⟩
  · have probed : byKind p (FragFields.parse bytes) false y
        = y.updPair p fun pp => { pp with echo := some (FragFields.parse bytes).stamp } := by unfold byKind; rw [hk]
    rw [probed] at run
    have changed := work.updPair (g := fun pp => { pp with echo := some (FragFields.parse bytes).stamp }) fun _ _ => rfl
    have final := changed.placed (onlyPlaced_finish (changed.sound sound))
    obtain ⟨fs, after⟩ := final.port
    refine ⟨_, run, ?_⟩
    rw [after, same.result]
    exact ⟨rfl, rfl, rfl, rfl, final.tables⟩
  · have echoed : byKind p (FragFields.parse bytes) false y = takeEcho p (FragFields.parse bytes).stamp y := by
      unfold byKind; rw [hk]
    rw [echoed] at run
    have ysound := work.sound sound
    obtain ⟨z, sampled, examined⟩ := takeEcho_sound ysound p (FragFields.parse bytes).stamp
    rw [examined] at run
    have zsound : z.tables.Sound := by rw [sampled.tables]; exact ysound.withSample ..
    obtain ⟨samples, latency, taken, tables⟩ := examine_latency zsound p
    obtain ⟨fs, port⟩ := sampled.port
    obtain ⟨gs, before⟩ := work.port
    have unchanged : (y.pair p).samples = (s.pair p).samples ∧ (y.pair p).latency = (s.pair p).latency := by
      rw [before, same.result]; exact ⟨rfl, rfl⟩
    have sample : latencySample y.now (FragFields.parse bytes).stamp
        = min 20000 ((BitVec.ofNat 16 (max s.now tm / 10) - (FragFields.parse bytes).stamp).toNat * 5) := by
      rw [work.now, latencySample_eq]; rfl
    have count : (z.pair p).samples = min 255 ((s.pair p).samples + 1) := by
      rw [port, ← unchanged.1]; rfl
    have measured : (z.pair p).latency = nextLatency (min 255 ((s.pair p).samples + 1)) (s.pair p).latency
        (min 20000 ((BitVec.ofNat 16 (max s.now tm / 10) - (FragFields.parse bytes).stamp).toNat * 5)) := by
      rw [port, ← unchanged.1, ← unchanged.2, ← sample]; rfl
    have auto : y.autoE p = s.autoE p := by unfold State.autoE; rw [work.tables]; rfl
    have stored : z.tables = s.tables.withSample p (s.autoE p) (z.pair p).latency := by
      rw [sampled.tables, port, ← auto]
      change y.tables.withSample _ _ _ = _
      rw [work.tables]; rfl
    refine ⟨_, run, samples.trans count, taken.trans (by rw [port]; rfl), fun h0 => ?_, fun h0 _ => ?_, ?_, fun r hr => ?_⟩
    · rw [latency, measured, h0]
      exact nextLatency_first ..
    · rw [latency, measured]
      exact nextLatency_later (by omega) ..
    · rw [tables, latency, stored]
      unfold TableStore.withSample
      split
      · rw [TableStore.get_store, if_pos rfl]
      · rfl
    · rw [tables, stored]
      unfold TableStore.withSample
      split
      · rw [TableStore.get_store, if_neg hr]
      · rfl

end Sys2Proof.Machine
end

section
/-! PROOFS of the family 01: the replay timeout, the windows of the burst guard, and the acknowledgement and the replay request of
a FILLER (R13, R30..R33, R37, R48, R50). Settles O33. -/

namespace Sys2Proof.Machine

/-! ### The replay timeout -/

theorem exec_replayTimeout {s : State} (hs : s.tables.Sound) (tm : Nat) (p : PairIx) :
    exec (.replayTimeout tm p) s = match (s.atTime tm).replayDue p with
      | some x => .next (finish (attempt ((s.atTime tm).updPair p fun pp => { pp with replay := some { cursor := x, base := x - 1 } })))
      | none => .next (finish (s.atTime tm)) := by
  have read : (if ((s.atTime tm).pair p).waiting.isSome then useGroup 0x04 (s.atTime tm) else s.atTime tm) = s.atTime tm := by
    rw [useGroup_sound (sound_atTime hs tm), ite_self]
  change (match (State.replayDue (if _ then _ else _) p) with | some x => _ | none => _) = _
  rw [read]

theorem PairPort.waiting_none {pp : PairPort} (h : pp.replay ≠ none ∨ pp.store = []) : pp.waiting = none := by
  unfold PairPort.waiting
  obtain h | h := h
  · rw [if_neg (by simpa using h)]
  · rw [h]; exact ite_self none

theorem PairPort.waiting_oldest {pp : PairPort} {x : RetryEntry} {rest : List RetryEntry} (hr : pp.replay = none)
    (hs : pp.store = x :: rest) : pp.waiting = some x := by
  unfold PairPort.waiting; rw [hr, hs]; rfl

theorem State.replayDue_none {s : State} {p : PairIx} (h : (s.pair p).waiting = none) : s.replayDue p = none := by
  unfold State.replayDue; rw [h]

theorem State.replayDue_oldest {s : State} {p : PairIx} {x : RetryEntry} (h : (s.pair p).waiting = some x) :
    s.replayDue p = if x.lastSent + s.replayTimeout < s.now then some x.txn else none := by
  unfold State.replayDue; rw [h]

/-! ### The windows of a locked guard -/

theorem exec_guardWindowOpen {s : State} (hs : s.tables.Sound) (tm : Nat) (p : PairIx) :
    exec (.guardWindowOpen tm p) s = match (s.atTime tm).windowOpens p with
      | some n => .next (finish (attempt (openWindow p n (s.atTime tm))))
      | none => .next (finish (s.atTime tm)) := by
  have read : (if ((s.atTime tm).pair p).guard.awaitsWindow.isSome then useGroup 0x08 (s.atTime tm) else s.atTime tm) = s.atTime tm := by
    rw [useGroup_sound (sound_atTime hs tm), ite_self]
  change (match (State.windowOpens (if _ then _ else _) p) with | some n => _ | none => _) = _
  rw [read]

theorem Guard.awaitsWindow_none {g : Guard} (h : g.locked = false ∨ g.window ≠ none ∨ g.nextStart = none) : g.awaitsWindow = none := by
  unfold Guard.awaitsWindow
  obtain h | h | h := h
  · simp [h]
  · simp [h]
  · simp [h]

theorem Guard.awaitsWindow_some {g : Guard} {n : Nat} (hl : g.locked = true) (hw : g.window = none) (hn : g.nextStart = some n) :
    g.awaitsWindow = some n := by
  unfold Guard.awaitsWindow
  simp [hl, hw, hn]

theorem State.windowOpens_none {s : State} {p : PairIx} (h : (s.pair p).guard.awaitsWindow = none) : s.windowOpens p = none := by
  unfold State.windowOpens; rw [h]

theorem State.windowOpens_some {s : State} {p : PairIx} {n : Nat} (h : (s.pair p).guard.awaitsWindow = some n) :
    s.windowOpens p = if n * 1000 ≤ s.now + s.guardLead * 1000 then some n else none := by
  unfold State.windowOpens; rw [h]

theorem exec_guardWindowEnd (s : State) (tm : Nat) (p : PairIx) :
    exec (.guardWindowEnd tm p) s = match (s.atTime tm).windowEnds p with
      | some w => .next (finish (attempt (closeWindow p w (s.atTime tm))))
      | none => .next (finish (s.atTime tm)) := rfl

theorem State.windowEnds_open {s : State} {p : PairIx} {w : GuardWindow} (h : (s.pair p).guard.window = some w) :
    s.windowEnds p = if w.endMs * 1000 ≤ s.now then some w else none := by
  unfold State.windowEnds; rw [h]

theorem State.windowEnds_none {s : State} {p : PairIx} (h : ∀ w, (s.pair p).guard.window = some w → s.now < w.endMs * 1000) :
    s.windowEnds p = none := by
  unfold State.windowEnds
  split
  · next w hw => exact if_neg (Nat.not_le.mpr (h w hw))
  · rfl

/-- The guard after the end of its window (R50). -/
def Guard.closed (g : Guard) (w : GuardWindow) (threshold : Nat) : Guard :=
  if w.met then { g with window := none } else if g.miss.confidence < threshold then g.miss.unlock else g.miss

theorem closeWindow_sound {s : State} (h : s.tables.Sound) (p : PairIx) (w : GuardWindow) :
    (closeWindow p w s).tables = s.tables
      ∧ (closeWindow p w s).pair p = { s.pair p with guard := (s.pair p).guard.closed w s.guardThreshold } := by
  unfold closeWindow Guard.closed
  split
  · exact ⟨rfl, State.updPair_pair_same ..⟩
  · dsimp only
    rw [useGroup_sound (by exact h), State.updPair_pair_same]
    have same : ∀ f : PairPort → PairPort, (s.updPair p f).guardThreshold = s.guardThreshold := fun _ => rfl
    rw [same]
    split
    · exact ⟨rfl, by rw [State.updPair_pair_same, State.updPair_pair_same]⟩
    · exact ⟨rfl, State.updPair_pair_same ..⟩

/-- What the end of a window leaves of the guard, whatever it was (R50). -/
theorem Guard.closed_spec (g : Guard) (w : GuardWindow) (threshold : Nat) :
    (g.closed w threshold).window = none
      ∧ (g.closed w threshold).confidence = g.confidence - (if w.met then 0 else 1)
      ∧ (g.closed w threshold).lastStart = g.lastStart ∧ (g.closed w threshold).period = g.period := by
  unfold Guard.closed
  split
  · exact ⟨rfl, rfl, rfl, rfl⟩
  · split <;> exact ⟨rfl, rfl, rfl, rfl⟩

theorem Guard.closed_met (g : Guard) {w : GuardWindow} (threshold : Nat) (h : w.met = true) :
    g.closed w threshold = { g with window := none } := if_pos h

/-- A miss that keeps the guard locked moves its next predicted start on (R50). -/
theorem Guard.closed_miss {g : Guard} {w : GuardWindow} {threshold : Nat} (h : w.met = false) (hc : threshold ≤ g.confidence - 1) :
    g.closed w threshold = g.miss := by
  unfold Guard.closed
  rw [h]
  exact if_neg (Nat.not_lt.mpr hc)

theorem Guard.closed_unlocks {g : Guard} {w : GuardWindow} {threshold : Nat} (h : w.met = false) (hc : g.confidence - 1 < threshold) :
    g.closed w threshold = g.miss.unlock := by
  unfold Guard.closed
  rw [h]
  exact if_pos hc

/-! ### Entries acknowledged -/

/-- A retry store whose entries are numbered one after another from `a` (R29). -/
def Consecutive (a : Txn) (store : List RetryEntry) : Prop :=
  ∀ i (hi : i < store.length), (store[i]).txn = a + BitVec.ofNat 7 i

theorem txn_offset (a : Txn) {i : Nat} (h : i < 128) : (a + BitVec.ofNat 7 i - a).toNat = i := by
  rw [BitVec.add_comm, BitVec.add_sub_cancel, BitVec.toNat_ofNat, Nat.mod_eq_of_lt h]

/-- The span of a store numbered one after another, and the entries an ACKN removes from it (R30). -/
theorem PairPort.ackCount_consecutive {pp : PairPort} {a b : Txn} (hc : Consecutive a pp.store) (hl : pp.store.length ≤ 32) :
    pp.ackCount b = if (b - a).toNat < pp.store.length then (b - a).toNat + 1 else 0 := by
  unfold PairPort.ackCount
  cases hs : pp.store with
  | nil => rfl
  | cons x rest =>
    have bound : rest.length < 128 := by rw [hs] at hl; simp only [List.length_cons] at hl; omega
    have first : x.txn = a := by
      have := hc 0 (by simp [hs])
      simpa [hs] using this
    have last : ((x :: rest).getLast (by simp)).txn = a + BitVec.ofNat 7 rest.length := by
      have := hc rest.length (by simp [hs])
      simpa [hs, List.getLast_eq_getElem] using this
    rw [List.head?_cons, List.getLast?_eq_some_getLast (by simp)]
    dsimp only
    rw [first, last, txn_offset a bound, List.length_cons]
    exact if_congr Nat.lt_succ_iff.symm rfl rfl

/-- Where the store's first entries up to the acknowledged one are `gone`, as many are removed (R30). -/
theorem PairPort.ackCount_gone {pp : PairPort} {a b : Txn} {gone left : List RetryEntry} (hc : Consecutive a pp.store)
    (hl : pp.store.length ≤ 32) (hs : pp.store = gone ++ left)
    (hg : (gone = [] ∧ ∀ x ∈ pp.store, x.txn ≠ b) ∨ ∃ x, gone.getLast? = some x ∧ x.txn = b) : pp.ackCount b = gone.length := by
  rw [PairPort.ackCount_consecutive hc hl]
  obtain ⟨rfl, out⟩ | ⟨x, last, rfl⟩ := hg
  · refine if_neg fun hd => out _ (List.getElem_mem hd) ?_
    rw [hc _ hd, BitVec.ofNat_toNat, BitVec.setWidth_eq, BitVec.add_comm, BitVec.sub_add_cancel]
  · rw [List.getLast?_eq_getElem?, List.getElem?_eq_some_iff] at last
    obtain ⟨hlt, hx⟩ := last
    have inStore : gone.length - 1 < pp.store.length := by rw [hs, List.length_append]; omega
    have entry : pp.store[gone.length - 1] = x := by
      simp only [hs, List.getElem_append_left hlt, hx]
    rw [← entry, hc _ inStore, txn_offset a (by omega), if_pos inStore]
    omega

/-- The replay once `gone` has left the store and `left` remains (R33). -/
def replayLeft (r : Option Replay) (gone left : List RetryEntry) : Option Replay := if gone = [] then r else replayAfter r left

/-- The port after a good fragment was heard and its ACKN taken (R26, R30, R33, R37). -/
def PairPort.afterAck (pp : PairPort) (a : Txn) (gone left : List RetryEntry) (now : Nat) : PairPort :=
  { pp.bump .good with
    lastHeard := now, store := left, replay := replayLeft pp.replay gone left
    rewindMark := if pp.rewindMark = some a then some a else none }

theorem PairPort.clearMark_eq (pp : PairPort) (a : Txn) :
    pp.clearMark a = { pp with rewindMark := if pp.rewindMark = some a then some a else none } := by
  unfold PairPort.clearMark
  split
  · next h => rw [← h]
  · rfl

theorem PairPort.heard_good (pp : PairPort) (a : Txn) (now : Nat) :
    pp.heard false a now = { pp.bump .good with lastHeard := now, rewindMark := if pp.rewindMark = some a then some a else none } := by
  unfold PairPort.heard
  rw [if_neg (by decide), PairPort.clearMark_eq]
  rfl

theorem PairPort.acknowledged_heard {pp : PairPort} {a : Txn} {gone left : List RetryEntry} (hs : pp.store = gone ++ left)
    (hn : pp.ackCount a = gone.length) (now : Nat) : (pp.heard false a now).acknowledged a = pp.afterAck a gone left now := by
  rw [PairPort.heard_good]
  unfold PairPort.acknowledged PairPort.afterAck replayLeft
  have count : ({ pp.bump .good with lastHeard := now, rewindMark := if pp.rewindMark = some a then some a else none } : PairPort).ackCount a
      = gone.length := hn
  rw [count]
  cases gone with
  | nil =>
    rw [if_pos List.length_nil, if_pos rfl, ← List.nil_append left, ← hs]
    rfl
  | cons x gone =>
    rw [if_neg (show (x :: gone).length ≠ 0 from Nat.succ_ne_zero _), if_neg (List.cons_ne_nil x gone)]
    unfold PairPort.acked
    have rest : (pp.bump .good).store.drop (x :: gone).length = left := by
      change pp.store.drop _ = left
      rw [hs, List.drop_left]
    dsimp only
    rw [rest]
    rfl

/-- The acknowledgement ends the drain where it empties both stores of a draining pair (R13). -/
theorem PairPort.endsDrain_heard {pp : PairPort} {a : Txn} {gone left : List RetryEntry} (hs : pp.store = gone ++ left)
    (hn : pp.ackCount a = gone.length) (now : Nat) :
    (pp.heard false a now).EndsDrain a ↔ pp.state = .draining ∧ gone ≠ [] ∧ left = [] ∧ pp.txq = [] := by
  unfold PairPort.EndsDrain
  rw [PairPort.acknowledged_heard hs hn, PairPort.heard_good]
  change pp.state = .draining ∧ pp.ackCount a ≠ 0 ∧ (pp.txq.isEmpty && left.isEmpty) = true ↔ _
  rw [hn]
  simp [and_comm]

/-! ### A replay request -/

/-- A replay request changes the replay or the numbering alone. -/
theorem PairPort.requested_frame (pp : PairPort) (a : Txn) :
    ∃ r n m, pp.requested a = { pp with replay := r, nextTxn := n, rewindMark := m } := by
  unfold PairPort.requested
  split_ifs <;> exact ⟨_, _, _, rfl⟩

section requested

variable {pp : PairPort} {a : Txn}

/-- The entry asked for is held: a replay from it, unless one of that base runs (R31). -/
theorem PairPort.requested_held (h : ∃ x ∈ pp.store, x.txn = a + 1) :
    (pp.requested a).nextTxn = pp.nextTxn ∧ (pp.requested a).rewindMark = pp.rewindMark
      ∧ ((∃ r, pp.replay = some r ∧ r.base = a) → (pp.requested a).replay = pp.replay)
      ∧ ((∀ r, pp.replay = some r → r.base ≠ a) → (pp.requested a).replay = some { cursor := a + 1, base := a }) := by
  have held : (pp.store.any fun e => decide (e.txn = a + 1)) = true := by simpa using h
  unfold PairPort.requested PairPort.startsReplay
  rw [if_pos held]
  cases hr : pp.replay with
  | none => simp
  | some r =>
    by_cases hb : r.base = a
    · simp [hb, hr]
    · simp [hb]

/-- The entry asked for is not held: the numbering of an empty store may be rewound, once (R37). -/
theorem PairPort.requested_notHeld (h : ∀ x ∈ pp.store, x.txn ≠ a + 1) :
    pp.requested a = if pp.mayRewind a then { pp with nextTxn := a + 1, rewindMark := some a } else pp := by
  have held : (pp.store.any fun e => decide (e.txn = a + 1)) = false := by simpa using h
  unfold PairPort.requested
  rw [if_neg (by rw [held]; decide)]

theorem PairPort.mayRewind_iff :
    pp.mayRewind a = true ↔ pp.store = [] ∧ (1 ≤ (pp.nextTxn - (a + 1)).toNat ∧ (pp.nextTxn - (a + 1)).toNat ≤ 63)
      ∧ pp.rewindMark ≠ some a := by
  unfold PairPort.mayRewind txnAhead
  rw [Bool.and_eq_true, Bool.and_eq_true, Bool.and_eq_true, decide_eq_true_iff, decide_eq_true_iff, decide_eq_true_iff,
    List.isEmpty_iff, and_assoc]

end requested

/-! ### A good FILLER -/

/-- Leaving service is said against the port's lasting fields alone. -/
theorem LeftService.congr {pp qq pp' : PairPort} {st : PairState} {cause : Cause} {cmd : XcvrCmd}
    (h : LeftService qq pp' st cause cmd) (sent : qq.sent = pp.sent) (rates : qq.upRate = pp.upRate ∧ qq.downRate = pp.downRate)
    (latency : qq.latency = pp.latency ∧ qq.samples = pp.samples) (guard : qq.guard = pp.guard) (counters : qq.counters = pp.counters) :
    LeftService pp pp' st cause cmd :=
  { h with
    sent := by rw [h.sent, sent]
    rates := by rw [h.rates.1, h.rates.2]; exact rates
    latency := by rw [h.latency.1, h.latency.2]; exact latency
    guard := h.guard.trans guard
    counters := h.counters.trans counters }

theorem receive_filler {s : State} (hs : s.tables.Sound) {p : PairIx} (hr : (s.pair p).state.running = true) {bytes : List Byte}
    (hc : classify bytes = .good) (hg : (FragFields.parse bytes).gid = s.gid) (hk : (FragFields.parse bytes).kind = .filler) :
    receive p bytes s = beforeKind p (FragFields.parse bytes) false s := by
  have notVoid : decide (FragClass.good = FragClass.void) = false := rfl
  have acts : ∀ x, byKind p (FragFields.parse bytes) false x = x := fun x => by unfold byKind; rw [hk]
  rw [receive_sound hs hr (by rw [hc]; decide), if_pos hg, hc, notVoid, takeFragment_eq]
  unfold whileRunning
  rw [acts, ite_self]

/-- An acknowledgement that ends the drain: the pair goes to OFF, and the replay request finds it there (R13, log entry 9). -/
theorem beforeKind_drained {s : State} (hs : s.tables.Sound) {p : PairIx} {f : FragFields} {gone left : List RetryEntry}
    (hst : (s.pair p).store = gone ++ left) (hn : (s.pair p).ackCount f.ackn = gone.length)
    (hd : (s.pair p).state = .draining ∧ gone ≠ [] ∧ left = [] ∧ (s.pair p).txq = []) :
    LeftService ((s.pair p).bump .good) ((finish (beforeKind p f false s)).pair p) .off .drained .quiet := by
  have ends := (PairPort.endsDrain_heard hst hn s.now).mpr hd
  obtain ⟨state, count, empty⟩ := ends
  rw [PairPort.acknowledged_heard hst hn] at empty
  generalize hy : ((s.updPair p fun pp => pp.heard false f.ackn s.now).updPair p fun pp =>
    pp.acked (((s.pair p).heard false f.ackn s.now).ackCount f.ackn)) = y
  have ysound : y.tables.Sound := by rw [← hy]; exact hs
  have port : y.pair p = (s.pair p).afterAck f.ackn gone left s.now := by
    rw [← hy, State.updPair_pair_same, State.updPair_pair_same, ← PairPort.acknowledged_heard hst hn]
    unfold PairPort.acknowledged
    rw [if_neg count]
  have ypair : (y.pair p).state = .draining ∧ (y.pair p).isEmpty = true := by rw [port]; exact ⟨hd.1, empty⟩
  have acked : applyAck p f.ackn (s.updPair p fun pp => pp.heard false f.ackn s.now) = afterStores p y := by
    unfold applyAck
    dsimp only
    rw [State.updPair_pair_same, if_neg count, hy]
  have gone : beforeKind p f false s = afterStores p y := by
    have ended : afterStores p y = pairChanged (drained p y) := if_pos ypair
    have off : (afterStores p y).pair p = (y.pair p).departed .off .drained .quiet := by
      have dsound : (drained p y).tables.Sound := (blockFrame_depart ..).isSound ysound
      rw [ended]
      exact departed_stays dsound (.inr rfl) ((depart_pair ..).trans (if_pos rfl)) (onlyPlaced_pairChanged dsound)
    unfold beforeKind
    dsimp only
    rw [acked]
    unfold whileRunning
    rw [if_neg (show ¬((afterStores p y).pair p).state.running = true by rw [off]; exact Bool.false_ne_true), ite_self]
  have service := afterStores_drained ysound ypair.1 ypair.2
  rw [gone]
  rw [port] at service
  exact service.congr rfl ⟨rfl, rfl⟩ ⟨rfl, rfl⟩ rfl rfl

/-- The replay left in the store, as R33 has it. -/
theorem replayLeft_eq (r : Option Replay) (gone left : List RetryEntry) :
    replayLeft r gone left = match r, gone, left with
      | some r, [], _ => some r
      | some r, _ :: _, o :: _ => if left.any (fun x => decide (x.txn = r.cursor)) then some r else some { r with cursor := o.txn }
      | _, _, _ => none := by
  unfold replayLeft
  cases r <;> cases gone <;> cases left <;> rfl

/-- Settles O33. -/
theorem replayTimeoutAndWindows : Obligations.ReplayTimeoutAndWindows := by
  intro s tm p hs
  have sound := sound_atTime hs tm
  refine ⟨fun x rest hr hst => ?_, fun h => ?_, fun n hl hw hn => ?_, fun h => ?_, fun h => ?_, fun w hw hend => ?_, ?_⟩
  · have due : (s.atTime tm).replayDue p = if x.lastSent + s.replayTimeout < max s.now tm then some x.txn else none :=
      State.replayDue_oldest (s := s.atTime tm) (PairPort.waiting_oldest hr hst)
    refine ⟨fun hlt => ?_, fun hle => passes hs ?_⟩
    · rw [exec_replayTimeout hs, due, if_pos hlt]
      exact ⟨_, rfl, onlyPlaced_attempt_finish (by exact hs)⟩
    · rw [exec_replayTimeout hs, due, if_neg (Nat.not_lt.mpr hle)]
  · refine passes hs ?_
    rw [exec_replayTimeout hs, State.replayDue_none (s := s.atTime tm) (PairPort.waiting_none h)]
  · have opens : (s.atTime tm).windowOpens p = if n * 1000 ≤ max s.now tm + s.guardLead * 1000 then some n else none :=
      State.windowOpens_some (s := s.atTime tm) (Guard.awaitsWindow_some hl hw hn)
    refine ⟨fun hle => ?_, fun hlt => passes hs ?_⟩
    · rw [exec_guardWindowOpen hs, opens, if_pos hle]
      exact ⟨_, rfl, onlyPlaced_attempt_finish (by exact hs)⟩
    · rw [exec_guardWindowOpen hs, opens, if_neg (Nat.not_le.mpr hlt)]
  · refine passes hs ?_
    rw [exec_guardWindowOpen hs, State.windowOpens_none (s := s.atTime tm) (Guard.awaitsWindow_none h)]
  · refine passes hs ?_
    rw [exec_guardWindowEnd, State.windowEnds_none (by exact h)]
  · obtain ⟨tables, port⟩ := closeWindow_sound sound p w
    have work := onlyPlaced_attempt_finish (s := closeWindow p w (s.atTime tm)) (by rw [tables]; exact hs)
    obtain ⟨fs, after⟩ := work.frame.pairs p
    have guard : ((finish (attempt (closeWindow p w (s.atTime tm)))).pair p).guard
        = (s.pair p).guard.closed w s.guardThreshold := by rw [after, port]; rfl
    obtain ⟨window, confidence, start, period⟩ := (s.pair p).guard.closed_spec w s.guardThreshold
    refine ⟨_, ?_, work, ?_⟩
    · rw [exec_guardWindowEnd, State.windowEnds_open (s := s.atTime tm) hw, if_pos (by exact hend)]
    · rw [guard]
      refine ⟨window, confidence, start, period, fun hm => Guard.closed_met _ _ hm, fun hm hc => ?_, fun hm hc => ?_⟩
      · rw [Guard.closed_miss hm hc]; exact ⟨rfl, rfl⟩
      · rw [Guard.closed_unlocks hm hc]; exact ⟨rfl, rfl⟩
  · rintro bytes _ _ gone left r0 _ rfl hr rfl hc hg hk hlen ⟨a, hcons⟩ hst hack hr0 rfl
    obtain rfl : r0 = replayLeft (s.pair p).replay gone left := hr0.trans (replayLeft_eq ..).symm
    generalize hf : FragFields.parse bytes = f at hg hk hack ⊢
    have count : (s.pair p).ackCount f.ackn = gone.length := PairPort.ackCount_gone (a := a) hcons hlen hst hack
    have run := exec_received tm hr bytes
    rw [receive_filler (s := s.atTime tm) hs hr hc (by rw [hf]; exact hg) (by rw [hf]; exact hk), hf] at run
    refine ⟨fun hd => ⟨_, run, beforeKind_drained (s := s.atTime tm) hs hst count hd⟩, fun hd => ⟨_, run, ?_⟩⟩
    have goesOn := mt (PairPort.endsDrain_heard hst count (max s.now tm)).mp hd
    have worked := portWork_beforeKind (s := s.atTime tm) hs hr f false goesOn
    have final := worked.placed (onlyPlaced_finish (worked.sound sound))
    obtain ⟨fs, after⟩ := final.port
    have linked : ((s.atTime tm).pair p).linked f false (s.atTime tm).now
        = if f.rrq then ((s.pair p).afterAck f.ackn gone left (max s.now tm)).requested f.ackn
          else (s.pair p).afterAck f.ackn gone left (max s.now tm) := by
      unfold PairPort.linked
      rw [PairPort.acknowledged_heard (pp := (s.atTime tm).pair p) hst count]
      rfl
    rw [linked] at after
    have good : ((s.pair p).afterAck f.ackn gone left (max s.now tm)).counter .good = satInc32 ((s.pair p).counter .good) :=
      ((s.pair p).bump_counter .good .good).trans (if_pos rfl)
    generalize hq : (s.pair p).afterAck f.ackn gone left (max s.now tm) = q at after good
    obtain ⟨r, n, m, asked⟩ := q.requested_frame f.ackn
    have shape : ∃ r n m, (if f.rrq then q.requested f.ackn else q) = { q with replay := r, nextTxn := n, rewindMark := m } := by
      split
      · exact ⟨r, n, m, asked⟩
      · exact ⟨q.replay, q.nextTxn, q.rewindMark, rfl⟩
    obtain ⟨r', n', m', shape⟩ := shape
    have whole := after
    rw [shape] at whole
    refine ⟨by rw [whole, ← hq]; rfl, by rw [whole, ← hq]; rfl, by rw [whole, ← hq]; rfl, by rw [whole]; exact good,
      by rw [whole, ← hq]; rfl, by rw [whole, ← hq]; rfl, by rw [whole, ← hq]; rfl, by rw [whole, ← hq]; rfl, final.reas,
      fun h => ?_, fun h held => ?_, fun h notHeld => ?_⟩
    · rw [after, h, ← hq]
      exact ⟨rfl, rfl, rfl⟩
    · have held' : ∃ x ∈ q.store, x.txn = f.ackn + 1 := by rw [← hq]; exact held
      obtain ⟨next, mark, runs, starts⟩ := PairPort.requested_held held'
      rw [after, h, if_pos rfl]
      refine ⟨next.trans (by rw [← hq]; rfl), mark.trans (by rw [← hq]; rfl), fun hb => (runs (by rw [← hq]; exact hb)).trans (by rw [← hq]; rfl),
        fun hb => starts (by rw [← hq]; exact hb)⟩
    · have notHeld' : ∀ x ∈ q.store, x.txn ≠ f.ackn + 1 := by rw [← hq]; exact notHeld
      have rewinds := PairPort.mayRewind_iff (pp := q) (a := f.ackn)
      rw [after, h, if_pos rfl, PairPort.requested_notHeld notHeld']
      have mark : q.rewindMark = if (s.pair p).rewindMark = some f.ackn then some f.ackn else none := by rw [← hq]; rfl
      have stored : q.store = left := by rw [← hq]; rfl
      have next : q.nextTxn = (s.pair p).nextTxn := by rw [← hq]; rfl
      have runs : q.replay = replayLeft (s.pair p).replay gone left := by rw [← hq]; rfl
      rw [mark, stored, next] at rewinds
      refine ⟨?_, fun he h1 h2 hm => ?_, fun hno => ?_⟩
      · split <;> exact runs
      · rw [if_pos (rewinds.mpr ⟨he, ⟨h1, h2⟩, by rw [hm]; simp⟩)]
        exact ⟨rfl, rfl⟩
      · rw [if_neg]
        · exact ⟨next, mark⟩
        · rw [rewinds]
          rintro ⟨he, hb, hm⟩
          obtain h1 | h1 | h1 := hno
          · exact h1 he
          · exact h1 hb
          · refine hm ?_
            split at h1
            · next e => rw [if_pos e]
            · exact absurd rfl h1

end Sys2Proof.Machine
end

section
/-! PROOFS of the family 01: what the commands of one pair leave alone (R13, R19, R43, R122, R124). Settles O34. -/

namespace Sys2Proof.Machine

/-! ### Fragments placed on other pairs -/

/-- A fragment as it stands on the transmit queue it was placed on at `now`: new, or of the reroute list (R78, R87). -/
def Frag.PlacedAt (now : Nat) (x : Frag) : Prop := (x.gsn.isSome = true ∧ x.firstPlaced = some now) ∨ x.rrt = true

/-- Port `q` with fragments placed on it. -/
def PlacedOn (s t : State) (q : PairIx) : Prop :=
  ∃ fs, t.pair q = { s.pair q with txq := (s.pair q).txq ++ fs } ∧ ∀ x ∈ fs, x.PlacedAt s.now

theorem placedOn_of_eq {s t : State} {q : PairIx} (h : t.pair q = s.pair q) : PlacedOn s t q := ⟨[], by simp [h], by simp⟩

theorem PlacedOn.trans {s t u : State} {q : PairIx} (h : PlacedOn s t q) (hn : t.now = s.now) (k : PlacedOn t u q) : PlacedOn s u q := by
  obtain ⟨fs, port, each⟩ := h
  obtain ⟨gs, port', each'⟩ := k
  refine ⟨fs ++ gs, by rw [port', port]; simp, fun x hx => ?_⟩
  rw [List.mem_append] at hx
  exact hx.elim (each x) fun hx => hn ▸ each' x hx

theorem placedOn_append (s : State) (p q : PairIx) {x : Frag} (hx : x.PlacedAt s.now) :
    PlacedOn s (s.updPair p fun pp => { pp with txq := pp.txq ++ [x] }) q := by
  by_cases e : q = p
  · subst e
    exact ⟨[x], State.updPair_pair_same .., by simpa using hx⟩
  · exact placedOn_of_eq (State.updPair_pair_ne s p q _ e)

theorem DistCut.pair {s t : State} (h : DistCut s t) (q : PairIx) : t.pair q = s.pair q := by cases h <;> rfl

theorem DistPlace.placedOn {s t : State} (h : DistPlace s t) (q : PairIx) : PlacedOn s t q := by
  cases h with
  | discard f rest _ _ => exact placedOn_of_eq (fragmentGone_pair f _ q)
  | again f rest p _ _ _ => exact placedOn_append (s.updDist fun d => { d with reroute := rest }) p q (.inr rfl)
  | new f x p _ _ _ _ _ =>
    exact placedOn_append (s.updDist fun d =>
      { d with nextGsn := d.nextGsn + 1
               fip := if f.finalCut then .none else some { f with pendingFrag := .none, placedAny := true } }) p q (.inl ⟨rfl, rfl⟩)

theorem recordHold_pair (w : WaitReason) (s : State) (q : PairIx) : (recordHold w s).pair q = s.pair q := by
  unfold recordHold
  dsimp only
  split <;> rfl

theorem OnlyPlaced.placedOn {s t : State} (h : OnlyPlaced s t) (q : PairIx) : PlacedOn s t q := by
  induction h with
  | refl => exact placedOn_of_eq rfl
  | cut before _ move ih => exact ih.trans before.frame.now (placedOn_of_eq (move.pair q))
  | place before _ move ih => exact ih.trans before.frame.now (move.placedOn q)
  | hold w before _ _ ih => exact ih.trans before.frame.now (placedOn_of_eq (recordHold_pair w _ q))
  | rest before _ ih => exact ih.trans before.frame.now (placedOn_of_eq rfl)

/-! ### A command of one pair, but for the evaluation of the group -/

/-- Table memory but for one word. -/
def TableStore.SameBut (r : TRef) (t u : TableStore) : Prop := u = t ∨ ∃ v, u = t.store r v

theorem TableStore.SameBut.trans {p : PairIx} {t u v : TableStore} (h : t.SameBut (.pair .active p 1) u)
    (k : u.SameBut (.pair .active p 1) v) : t.SameBut (.pair .active p 1) v := by
  obtain rfl | ⟨a, rfl⟩ := h
  · exact k
  · obtain rfl | ⟨b, rfl⟩ := k
    · exact .inr ⟨a, rfl⟩
    · exact .inr ⟨b, by simp [TableStore.store, TableStore.put]⟩

theorem TableStore.SameBut.sound {r : TRef} {t u : TableStore} (h : t.SameBut r u) (ht : t.Sound) : u.Sound := by
  obtain rfl | ⟨a, rfl⟩ := h
  · exact ht
  · exact ht.store r a

/-- What the work of pair `p` alone leaves of the state, sound table memory granted: the other ports but for fragments placed on
ACTIVE ones with the group UP. -/
structure Elsewhere (p : PairIx) (s t : State) : Prop where
  now : t.now = s.now
  digit : t.digit = s.digit
  farm : t.farm = { s.farm with rx := t.farm.rx, outQueue := t.farm.outQueue }
  boxes : t.ctl.boxes = s.ctl.boxes
  respSlot : t.ctl.respSlot = s.ctl.respSlot
  groupUp : t.groupUp = s.groupUp
  tables : s.tables.Sound → s.tables.SameBut (.pair .active p 1) t.tables
  placed : ∀ q, q ≠ p → PlacedOn s t q
  idle : ∀ q, q ≠ p → (s.pair q).state ≠ .active ∨ s.groupUp = false → t.pair q = s.pair q

section elsewhere

variable {p : PairIx} {s t u : State}

theorem Elsewhere.sound (h : Elsewhere p s t) (hs : s.tables.Sound) : t.tables.Sound := (h.tables hs).sound hs

theorem Elsewhere.trans (h : Elsewhere p s t) (k : Elsewhere p t u) : Elsewhere p s u where
  now := k.now.trans h.now
  digit := k.digit.trans h.digit
  farm := by rw [k.farm, h.farm]
  boxes := k.boxes.trans h.boxes
  respSlot := k.respSlot.trans h.respSlot
  groupUp := k.groupUp.trans h.groupUp
  tables hs := (h.tables hs).trans (k.tables (h.sound hs))
  placed q hq := (h.placed q hq).trans h.now (k.placed q hq)
  idle q hq hi := by
    have kept := h.idle q hq hi
    exact (k.idle q hq (by rw [kept, h.groupUp]; exact hi)).trans kept

/-- Work that leaves the other ports and the group's state as they are. -/
theorem elsewhere_of_frame (h : BlockFrame s t) (hu : t.groupUp = s.groupUp) (hp : ∀ q, q ≠ p → t.pair q = s.pair q) :
    Elsewhere p s t where
  now := h.now
  digit := h.digit
  farm := h.farm
  boxes := h.boxes
  respSlot := h.respSlot
  groupUp := hu
  tables hs := .inl (h.sound hs)
  placed q hq := placedOn_of_eq (hp q hq)
  idle q hq _ := hp q hq

theorem Elsewhere.refl (p : PairIx) (s : State) : Elsewhere p s s :=
  elsewhere_of_frame (Settles.refl s).toBlockFrame rfl fun _ _ => rfl

theorem elsewhere_updPair (p : PairIx) (s : State) (f : PairPort → PairPort) : Elsewhere p s (s.updPair p f) where
  now := rfl
  digit := rfl
  farm := rfl
  boxes := rfl
  respSlot := rfl
  groupUp := rfl
  tables _ := .inl rfl
  placed q hq := placedOn_of_eq (State.updPair_pair_ne s p q f hq)
  idle q hq _ := State.updPair_pair_ne s p q f hq

theorem OnlyPlaced.elsewhere (h : OnlyPlaced s t) (p : PairIx) : Elsewhere p s t where
  now := h.frame.now
  digit := h.frame.digit
  farm := by rw [h.frame.farm]
  boxes := by obtain ⟨_, e⟩ := h.frame.ctl; rw [e]
  respSlot := by obtain ⟨_, e⟩ := h.frame.ctl; rw [e]
  groupUp := h.frame.groupUp
  tables _ := .inl h.frame.tables
  placed q _ := h.placedOn q
  idle q _ hi := by
    obtain hi | hd := hi
    · exact h.frame.idle q hi
    · obtain ⟨w, e⟩ := h.frame.down hd
      rw [e]; rfl

theorem elsewhere_raiseEvent (p : PairIx) (k : EventKind) (d : Detail) (s : State) : Elsewhere p s (raiseEvent k d s) :=
  have h := reports_raiseEvent k d s
  elsewhere_of_frame h.toBlockFrame h.groupUp fun q _ => h.pair q

theorem Tallied.elsewhere (h : Tallied s t) (p : PairIx) : Elsewhere p s t :=
  elsewhere_of_frame h.settles.toBlockFrame h.tidies.groupUp fun q _ => State.pair_congr h.same.1 q

theorem ReasWork.elsewhere (h : ReasWork s t) (p : PairIx) : Elsewhere p s t :=
  elsewhere_of_frame h.settles.toBlockFrame h.groupUp fun q _ => State.pair_congr h.pairs q

theorem Left.elsewhere {target : PairState} {cause : Cause} {cmd : XcvrCmd} (h : Left s p target cause cmd t) : Elsewhere p s t :=
  elsewhere_of_frame h.frame h.groupUp h.others

end elsewhere

theorem elsewhere_attempt {s : State} (hs : s.tables.Sound) (p : PairIx) : Elsewhere p s (attempt s) :=
  (onlyPlaced_attempt hs).elsewhere p

/-- A port changed, and then an attempt. -/
theorem elsewhere_updPair_attempt {s : State} (hs : s.tables.Sound) (p : PairIx) (f : PairPort → PairPort) :
    Elsewhere p s (attempt (s.updPair p f)) := (elsewhere_updPair p s f).trans (elsewhere_attempt (by exact hs) p)

/-! ### To the end of the command -/

/-- What O34 says of a command of pair `p`. -/
structure PairFrame (p : PairIx) (s t : State) : Prop where
  others : ∀ q, q ≠ p → OtherPairKept s t q
  tables : s.tables.SameBut (.pair .active p 1) t.tables
  boxes : t.ctl.boxes = s.ctl.boxes
  digit : t.digit = s.digit
  farm : t.farm = { s.farm with rx := t.farm.rx, outQueue := t.farm.outQueue }
  respSlot : t.ctl.respSlot = s.ctl.respSlot

theorem Elsewhere.pairFrame {p : PairIx} {s t : State} (hs : s.tables.Sound) (h : Elsewhere p s t) : PairFrame p s t where
  others q hq := by
    obtain ⟨fs, port, each⟩ := h.placed q hq
    exact .placed fs port (by rw [h.now]; exact each)
  tables := h.tables hs
  boxes := h.boxes
  digit := h.digit
  farm := h.farm
  respSlot := h.respSlot

/-- A port fallen with the group, as R43 and R122 have it. -/
theorem otherPairKept_fallen {s y t : State} {p q : PairIx} (h : Elsewhere p s y) (hq : q ≠ p) (up : s.groupUp = true)
    (down : t.groupUp = false) (port : t.pair q = (y.pair q).fallen) : OtherPairKept s t q := by
  by_cases hd : (s.pair q).state = .draining
  · have kept := h.idle q hq (.inl (by rw [hd]; decide))
    have left : t.pair q = (s.pair q).departed .off .drained .quiet := by
      rw [port, kept]; exact if_pos hd
    refine .drained ⟨up, down⟩ hd ?_ ?_ ?_ <;> rw [left]
    · exact PairPort.leftService_departed ..
    · rfl
    · exact ⟨rfl, rfl, rfl, rfl, rfl⟩
  · obtain ⟨fs, placed, -⟩ := h.placed q hq
    refine .emptied ⟨up, down⟩ hd ?_
    rw [port, placed, PairPort.fallen_of_ne (by exact hd)]
    rfl

/-- A pair's work, a pair change, and the end of the command (R119, R122, R123). -/
theorem pairFrame_changed {p : PairIx} {s y : State} (hs : s.tables.Sound) (h : Elsewhere p s y) :
    PairFrame p s (finish (pairChanged y)) := by
  have ysound := h.sound hs
  have settled := (settles_settledAfter y).toBlockFrame
  have placed := (onlyPlaced_pairChanged_finish ysound).elsewhere p
  refine ⟨fun q hq => ?_, ?_, placed.boxes.trans (settled.boxes.trans h.boxes), placed.digit.trans (settled.digit.trans h.digit),
    by rw [placed.farm, settled.farm, h.farm], placed.respSlot.trans (settled.respSlot.trans h.respSlot)⟩
  · have evaluated : ∀ r, (settledAfter y).pair r = (evaluateGroup y).pair r := settledAfter_pair y
    have tested : (settledAfter y).groupUp = (evaluateGroup y).groupUp := (reasWork_testShortcut _).groupUp
    obtain same | ⟨up, down, fell⟩ := evaluateGroup_pair ysound
    · obtain ⟨fs, port, each⟩ := ((h.placed q hq).trans h.now (placedOn_of_eq ((evaluated q).trans (same q)))).trans
        (settled.now.trans h.now) (placed.placed q hq)
      exact .placed fs port (by rw [placed.now, settled.now, h.now]; exact each)
    · have stays := placed.idle q hq (.inr (tested.trans down))
      exact otherPairKept_fallen h hq (h.groupUp.symm.trans up) (placed.groupUp.trans (tested.trans down))
        (stays.trans ((evaluated q).trans (fell q)))
  · have after : (finish (pairChanged y)).tables = y.tables :=
      (onlyPlaced_pairChanged_finish ysound).frame.tables.trans (settled.sound ysound)
    rw [after]
    exact h.tables hs

/-- What the part of a command that a pair does comes to, before the command's end. -/
inductive PairWork (p : PairIx) (s : State) : State → Prop where
  | goes {x : State} (h : Elsewhere p s x) : PairWork p s x
  | changed {y : State} (h : Elsewhere p s y) : PairWork p s (pairChanged y)

theorem PairWork.pairFrame {p : PairIx} {s x : State} (h : PairWork p s x) (hs : s.tables.Sound) : PairFrame p s (finish x) := by
  cases h with
  | goes h => exact (h.trans ((onlyPlaced_finish (h.sound hs)).elsewhere p)).pairFrame hs
  | changed h => exact pairFrame_changed hs h

theorem Elsewhere.work {p : PairIx} {s x y : State} (h : Elsewhere p s x) (k : PairWork p x y) : PairWork p s y := by
  cases k with
  | goes k => exact .goes (h.trans k)
  | changed k => exact .changed (h.trans k)

theorem PairFrame.of_atTime {p : PairIx} {s t : State} {tm : Nat} (h : PairFrame p (s.atTime tm) t) : PairFrame p s t where
  others q hq := by
    cases h.others q hq with
    | placed fs port each => exact .placed fs port each
    | emptied fell state port => exact .emptied fell state port
    | drained fell state left sampled times => exact .drained fell state left sampled times
  tables := h.tables
  boxes := h.boxes
  digit := h.digit
  farm := h.farm
  respSlot := h.respSlot

end Sys2Proof.Machine
end

section
/-! PROOFS of the family 01: the commands of one pair, one by one, as work on that pair alone (R13, R19, R26, R43, R122). Settles
O34. -/

namespace Sys2Proof.Machine

section pieces

variable {s : State} {p : PairIx}

theorem PairWork.ite {b : Prop} [Decidable b] {x y : State} (hx : b → PairWork p s x) (hy : ¬b → PairWork p s y) :
    PairWork p s (if b then x else y) := by
  split
  · next h => exact hx h
  · next h => exact hy h

theorem Elsewhere.ite {b : Prop} [Decidable b] {x y : State} (hx : b → Elsewhere p s x) (hy : ¬b → Elsewhere p s y) :
    Elsewhere p s (if b then x else y) := by
  split
  · next h => exact hx h
  · next h => exact hy h

theorem PairWork.refl (p : PairIx) (s : State) : PairWork p s s := .goes (.refl p s)

/-! ### Departures and the end of PROBATION -/

theorem elsewhere_toDown (hs : s.tables.Sound) (p : PairIx) {cause : Cause} (hc : cause ≠ .groupRestart) :
    Elsewhere p s (toDown p cause s) := (Left.lose hs p hc).elsewhere

theorem work_lose (hs : s.tables.Sound) (p : PairIx) {cause : Cause} (hc : cause ≠ .groupRestart) : PairWork p s (lose p cause s) :=
  .changed (elsewhere_toDown hs p hc)

/-- A departure with an event, and the pair change. -/
theorem work_loseRaise (hs : s.tables.Sound) (p : PairIx) {cause : Cause} (hc : cause ≠ .groupRestart) (k : EventKind) (d : Detail) :
    PairWork p s (pairChanged (raiseEvent k d (toDown p cause s))) :=
  .changed ((elsewhere_toDown hs p hc).trans (elsewhere_raiseEvent p k d _))

theorem elsewhere_drawFree (p : PairIx) (s : State) : Elsewhere p s s.drawFree where
  now := rfl
  digit := rfl
  farm := rfl
  boxes := rfl
  respSlot := rfl
  groupUp := rfl
  tables _ := .inl rfl
  placed _ _ := placedOn_of_eq rfl
  idle _ _ _ := rfl

theorem elsewhere_toActive (p : PairIx) (s : State) : Elsewhere p s (toActive p s) := by
  unfold toActive
  dsimp only
  have drawn : Elsewhere p s (if (s.pair p).lastProbe.isNone then s.drawFree else s) :=
    .ite (fun _ => elsewhere_drawFree p s) fun _ => .refl p s
  have read : ∀ x, Elsewhere p x (touch (.pair .active p 1) x) := fun x =>
    have h := reports_touch (.pair .active p 1) x
    elsewhere_of_frame h.toBlockFrame h.groupUp fun q _ => h.pair q
  exact ((drawn.trans (elsewhere_updPair p _ _)).trans (read _)).trans (elsewhere_raiseEvent p _ _ _)

theorem work_examine (hs : s.tables.Sound) (p : PairIx) : PairWork p s (examine p s) := by
  rw [examine_sound hs]
  exact .ite (fun _ => .changed (elsewhere_toActive p s)) fun _ => .refl p s

/-! ### RATE reports -/

theorem elsewhere_lowering (p : PairIx) (s : State) : Elsewhere p s (lowering p s) := by
  unfold lowering
  rw [foldl_joinReroute]
  have listed : ∀ (x : State) (f : Distributor → Distributor), Elsewhere p x (x.updDist f) := fun x f =>
    elsewhere_of_frame (blockFrame_updDist x f) rfl fun _ _ => rfl
  exact ((elsewhere_updPair p s _).trans (listed _ _)).trans ((tallied_bumpBy _ _ _).elsewhere p)

theorem work_takeRate (hs : s.tables.Sound) (p : PairIx) (u d : Nat) : PairWork p s (takeRate p u d s) := by
  have rated := elsewhere_updPair p s fun pp => pp.rated u d
  rw [takeRate_sound hs]
  refine .ite (fun _ => rated.work (.changed (elsewhere_lowering p _))) fun _ => ?_
  have tried : Elsewhere p s (if clampRate u = (s.pair p).upRate then s.updPair p fun pp => pp.rated u d
      else attempt (s.updPair p fun pp => pp.rated u d)) := .ite (fun _ => rated) fun _ => elsewhere_updPair_attempt hs p _
  exact tried.work (work_examine (tried.sound hs) p)

/-! ### Hand-offs -/

theorem work_afterStores (hs : s.tables.Sound) (p : PairIx) : PairWork p s (afterStores p s) :=
  .ite (fun _ => .changed (elsewhere_of_frame (blockFrame_depart ..) (depart_dist ..).choose_spec.2.2
    fun _ hq => (depart_pair ..).trans (if_neg hq))) fun _ => .goes (elsewhere_attempt hs p)

theorem work_handOut (hs : s.tables.Sound) (p : PairIx) : PairWork p s (handOut p s) := by
  unfold handOut
  dsimp only
  split
  · exact .refl p s
  · exact .goes (elsewhere_updPair_attempt hs p _)
  · exact .goes (elsewhere_updPair_attempt hs p _)
  · exact .ite (fun _ => work_loseRaise hs p (by decide) _ _) fun _ => .goes (elsewhere_updPair_attempt hs p _)
  · next f _ =>
    have released := (elsewhere_updPair p s fun pp => pp.handQueue f s.retryLimit s.gid s.now).trans
      ((tallied_fragmentGone f _).elsewhere p)
    exact released.work (work_afterStores (released.sound hs) p)
  · exact .goes (elsewhere_updPair_attempt hs p _)

/-! ### Bad fragments and mismatches -/

theorem elsewhere_guardBadCheck (hs : s.tables.Sound) (p : PairIx) : Elsewhere p s (guardBadCheck p s) := by
  have judges : ∀ (t : Nat) (x : State), Elsewhere p x (judgeBurst p t x) := fun t x =>
    .ite (fun _ => .ite (fun _ => .refl p x) fun _ => elsewhere_updPair p x _) fun _ => elsewhere_updPair p x _
  have learns : ∀ (t : Nat) (x : State), x.tables.Sound → Elsewhere p x (learnBurst p t x) := fun t x hx => by
    unfold learnBurst
    dsimp only
    rw [useGroup_sound (by exact hx)]
    exact .ite (fun _ => ((elsewhere_updPair p x _).trans (elsewhere_updPair p _ _)).trans (elsewhere_raiseEvent p _ _ _))
      fun _ => elsewhere_updPair p x _
  unfold guardBadCheck
  dsimp only
  have noted := elsewhere_updPair p s fun pp => { pp with guard := { (s.pair p).guard with lastBad := some s.now } }
  have counted := noted.trans (elsewhere_updPair p _ fun pp => pp.bump .bursts)
  exact .ite (fun _ => .ite (fun _ => counted.trans (judges _ _)) fun _ => counted.trans (learns _ _ hs)) fun _ => noted

theorem elsewhere_whileRunning {f : State → State} {x : State} (hf : Elsewhere p x (f x)) : Elsewhere p x (whileRunning p f x) :=
  .ite (fun _ => hf) fun _ => .refl p x

theorem elsewhere_takeBad (hs : s.tables.Sound) (p : PairIx) : Elsewhere p s (takeBad p s) := by
  have guarded := (elsewhere_updPair p s fun pp => pp.bump .bad).trans (elsewhere_guardBadCheck (by exact hs) p)
  have moved : ∀ x : State, Elsewhere p x (probationBadCheck p x) := fun x =>
    .ite (fun _ => elsewhere_updPair p x _) fun _ => .refl p x
  unfold takeBad
  exact (guarded.trans (moved _)).trans (elsewhere_whileRunning (f := fun s => s.updPair p PairPort.ask) (elsewhere_updPair p _ _))

theorem work_mismatch (hs : s.tables.Sound) (p : PairIx) (got : Nat) : PairWork p s (mismatch p got s) :=
  .ite (fun _ => .goes (elsewhere_updPair p s _)) fun _ => work_loseRaise hs p (by decide) _ _

/-! ### Good and void fragments -/

theorem elsewhere_bump (p : PairIx) (s : State) (c : GroupCtr) : Elsewhere p s (s.bump c) :=
  elsewhere_of_frame (settles_bump s c).toBlockFrame rfl fun _ _ => rfl

theorem elsewhere_updReas (p : PairIx) (s : State) (f : Reassembler → Reassembler) : Elsewhere p s (s.updReas f) :=
  elsewhere_of_frame (settles_updReas s f).toBlockFrame rfl fun _ _ => rfl

theorem elsewhere_touchGroup (p : PairIx) (i : Fin 19) (s : State) : Elsewhere p s (touchGroup i s) :=
  (reasWork_touchGroup i s).elsewhere p

theorem elsewhere_storeArrival (p : PairIx) (a : Entry) (s : State) : Elsewhere p s (storeArrival a s).1 := by
  unfold storeArrival
  dsimp only
  split
  · exact (elsewhere_bump p s _).trans (elsewhere_raiseEvent p _ _ _)
  · have read : Elsewhere p s (if a.cls = 0 then touchGroup 0x0D s else s) :=
      .ite (fun _ => elsewhere_touchGroup p _ s) fun _ => .refl p s
    generalize (if a.cls = 0 then touchGroup 0x0D s else s) = x at read ⊢
    split
    · exact read.trans (elsewhere_bump p _ _)
    · exact read.trans ((elsewhere_updReas p _ _).trans (elsewhere_bump p _ _))

theorem elsewhere_arriveResync (p : PairIx) (a : Entry) (s : State) : Elsewhere p s (arriveResync a s) := by
  have stored := elsewhere_storeArrival p a s
  exact .ite (fun _ => elsewhere_bump p s _) fun _ =>
    .ite (fun _ => stored.trans ((elsewhere_touchGroup p _ _).trans (elsewhere_updReas p _ _))) fun _ => stored

theorem elsewhere_arriveWindow (p : PairIx) (a : Entry) (s : State) : Elsewhere p s (arriveWindow a s) := by
  have heads : ∀ x, Elsewhere p x (headProcess x) := fun x => (reasWork_headProcess x).elsewhere p
  have stored := elsewhere_storeArrival p a
  unfold arriveWindow
  split
  · exact .refl p s
  · refine .ite (fun _ => elsewhere_bump p s _) fun _ => .ite (fun _ => ?_) fun _ => .ite (fun _ => elsewhere_bump p s _) fun _ =>
      .ite (fun _ => (stored s).trans (heads _)) fun _ => stored s
    exact (((elsewhere_bump p s _).trans ((reasWork_advanceN _ _ _).elsewhere p)).trans (stored _)).trans (heads _)

theorem elsewhere_arrive (p : PairIx) (a : Entry) (s : State) : Elsewhere p s (arrive a s) := by
  have suspended : Elsewhere p s (if a.rrt then suspendShortcut s else s) := by
    have h := reports_suspendShortcut s
    exact .ite (fun _ => elsewhere_of_frame h.toBlockFrame h.groupUp fun q _ => h.pair q) fun _ => .refl p s
  unfold arrive
  dsimp only
  refine suspended.trans ?_
  generalize (if a.rrt then suspendShortcut s else s) = x
  split
  · exact elsewhere_bump p _ _
  · exact elsewhere_arriveResync p a _
  · exact elsewhere_arriveWindow p a _

theorem elsewhere_takeData (p : PairIx) (f : FragFields) (void : Bool) (s : State) : Elsewhere p s (takeData p f void s) := by
  have tested : ∀ x, Elsewhere p x (testShortcut x) := fun x => (reasWork_testShortcut x).elsewhere p
  exact .ite (fun _ => ((elsewhere_updPair p s _).trans (elsewhere_arrive p _ _)).trans (tested _)) fun _ =>
    .ite (fun _ => elsewhere_updPair p s _) fun _ => elsewhere_updPair p s _

/-- The measured latency stored as the pair's E, the one word of table memory that a pair's commands change (R19). -/
theorem elsewhere_storeE (p : PairIx) (s : State) (v : Word) :
    Elsewhere p s (s.updTables fun t => t.store (.pair .active p 1) v) where
  now := rfl
  digit := rfl
  farm := rfl
  boxes := rfl
  respSlot := rfl
  groupUp := rfl
  tables _ := .inr ⟨v, rfl⟩
  placed _ _ := placedOn_of_eq rfl
  idle _ _ _ := rfl

theorem work_takeEcho (hs : s.tables.Sound) (p : PairIx) (stamp : BitVec 16) : PairWork p s (takeEcho p stamp s) := by
  have examined : ∀ (y : State) (old : Nat), Elsewhere p s y → PairWork p s (examine p (if y.offsetE p = old then y else attempt y)) :=
    fun y old h =>
      have tried : Elsewhere p s (if y.offsetE p = old then y else attempt y) :=
        .ite (fun _ => h) fun _ => h.trans (elsewhere_attempt (h.sound hs) p)
      tried.work (work_examine (tried.sound hs) p)
  unfold takeEcho
  dsimp only
  rw [useWord_sound (by exact hs)]
  exact examined _ _ ((elsewhere_updPair p s _).trans (.ite (fun _ => elsewhere_storeE p _ _) fun _ => .refl p _))

theorem work_byKind (hs : s.tables.Sound) (p : PairIx) (f : FragFields) (void : Bool) : PairWork p s (byKind p f void s) := by
  unfold byKind
  split
  · exact .goes (elsewhere_takeData p f void s)
  · exact .refl p s
  · exact .goes (elsewhere_updPair p s _)
  · exact work_takeEcho hs p _

theorem elsewhere_applyRequest (hs : s.tables.Sound) (p : PairIx) (a : Txn) : Elsewhere p s (applyRequest p a s) :=
  .ite (fun _ => .ite (fun _ => elsewhere_updPair_attempt hs p _) fun _ => .refl p s) fun _ =>
    .ite (fun _ => elsewhere_updPair p s _) fun _ => .refl p s

/-- What an acknowledgement comes to: work that goes on, or the end of a drain, the pair then being out of service (R13, R30). -/
inductive AckTaken (p : PairIx) (s x : State) : Prop where
  | goes (h : Elsewhere p s x)
  | ends (y : State) (h : Elsewhere p s y) (result : x = pairChanged y) (out : (x.pair p).state.running = false)

theorem ackTaken_afterStores (hs : s.tables.Sound) (p : PairIx) : AckTaken p s (afterStores p s) := by
  unfold afterStores
  split
  · have dsound : (drained p s).tables.Sound := (blockFrame_depart ..).isSound hs
    refine .ends (drained p s) (elsewhere_of_frame (blockFrame_depart ..) (depart_dist ..).choose_spec.2.2
      fun _ hq => (depart_pair ..).trans (if_neg hq)) rfl ?_
    rw [departed_stays dsound (.inr rfl) ((depart_pair ..).trans (if_pos rfl)) (onlyPlaced_pairChanged dsound)]
    rfl
  · exact .goes (elsewhere_attempt hs p)

theorem ackTaken_applyAck (hs : s.tables.Sound) (p : PairIx) (a : Txn) : AckTaken p s (applyAck p a s) := by
  unfold applyAck
  dsimp only
  split
  · exact .goes (.refl p s)
  · have acked := elsewhere_updPair p s fun pp => pp.acked ((s.pair p).ackCount a)
    cases ackTaken_afterStores (s := s.updPair p fun pp => pp.acked ((s.pair p).ackCount a)) hs p with
    | goes h => exact .goes (acked.trans h)
    | ends y h result out => exact .ends y (acked.trans h) result out

theorem whileRunning_out {f : State → State} {x : State} (h : (x.pair p).state.running = false) : whileRunning p f x = x :=
  if_neg (by simp [h])

theorem work_takeFragment (hs : s.tables.Sound) (p : PairIx) (f : FragFields) (void : Bool) :
    PairWork p s (takeFragment p f void s) := by
  have heard := elsewhere_updPair p s fun pp => pp.heard void f.ackn s.now
  rw [takeFragment_eq]
  unfold beforeKind
  dsimp only
  cases ackTaken_applyAck (s := s.updPair p fun pp => pp.heard void f.ackn s.now) hs p f.ackn with
  | goes h =>
    have acked := heard.trans h
    have requested := acked.trans (.ite (b := f.rrq = true) (fun _ => elsewhere_whileRunning
      (elsewhere_applyRequest (acked.sound hs) p f.ackn)) fun _ => .refl p _)
    exact requested.work (.ite (fun _ => work_byKind (requested.sound hs) p f void) fun _ => .refl p _)
  | ends y h result out =>
    rw [whileRunning_out out, ite_self, whileRunning_out out, result]
    exact .changed (heard.trans h)

theorem work_receive (hs : s.tables.Sound) (p : PairIx) (bytes : List Byte) : PairWork p s (receive p bytes s) := by
  unfold receive
  split
  · exact .goes (elsewhere_takeBad hs p)
  · dsimp only
    rw [useGroup_sound hs]
    exact .ite (fun _ => .ite (fun _ => work_takeFragment hs p _ _) fun _ => work_mismatch hs p _) fun _ => .refl p s

end pieces

/-! ### The commands -/

/-- The command comes to work of pair `p` and the end of the command. -/
def WorksAt (p : PairIx) (s : State) (o : Host.Outcome State Fault Refusal) : Prop :=
  ∃ tm x, o = .next (finish x) ∧ PairWork p (s.atTime tm) x

theorem WorksAt.ite {p : PairIx} {s : State} {b : Prop} [Decidable b] {x y : Host.Outcome State Fault Refusal}
    (hx : b → WorksAt p s x) (hy : ¬b → WorksAt p s y) : WorksAt p s (if b then x else y) := by
  split
  · next h => exact hx h
  · next h => exact hy h

section commands

variable {s : State} (hs : s.tables.Sound) (tm : Nat) (p : PairIx)
include hs

theorem worksAt_trainStart : WorksAt p s (exec (.trainStart tm p) s) := by
  change WorksAt p s (execTrainStart tm p s)
  unfold execTrainStart
  dsimp only
  split
  · exact ⟨tm, _, rfl, .refl p _⟩
  · exact ⟨tm, _, rfl, .refl p _⟩
  · exact ⟨tm, _, rfl, .changed (elsewhere_updPair p _ _)⟩
  · exact ⟨tm, _, rfl, work_lose (by exact hs) p (by decide)⟩

theorem worksAt_up (u d : Nat) : WorksAt p s (exec (.up tm p u d) s) := by
  change WorksAt p s (execUp tm p u d s)
  unfold execUp
  dsimp only
  split
  · exact ⟨tm, _, rfl, .refl p _⟩
  · exact ⟨tm, _, rfl, .changed (elsewhere_updPair p _ _)⟩
  · exact ⟨tm, _, rfl, .changed (elsewhere_updPair p _ _)⟩
  · exact ⟨tm, _, rfl, work_takeRate (by exact hs) p u d⟩

theorem worksAt_rate (u d : Nat) : WorksAt p s (exec (.rate tm p u d) s) :=
  .ite (fun _ => ⟨tm, _, rfl, work_takeRate (by exact hs) p u d⟩) fun _ => ⟨tm, _, rfl, .refl p _⟩

theorem worksAt_down : WorksAt p s (exec (.down tm p) s) := by
  change WorksAt p s (execDown tm p s)
  unfold execDown
  dsimp only
  split
  · exact ⟨tm, _, rfl, .refl p _⟩
  · exact ⟨tm, _, rfl, .refl p _⟩
  · exact ⟨tm, _, rfl, work_lose (by exact hs) p (by decide)⟩

theorem worksAt_ready : WorksAt p s (exec (.ready tm p) s) := by
  cases hr : (s.pair p).state.running with
  | false => exact ⟨tm, _, exec_ready_idle s tm p hr, .refl p _⟩
  | true => exact ⟨tm, _, exec_ready hs tm hr, work_handOut (by exact hs) p⟩

theorem worksAt_received (bytes : List Byte) : WorksAt p s (exec (.received tm p bytes) s) := by
  cases hr : (s.pair p).state.running with
  | false => exact ⟨tm, _, exec_received_idle s tm p bytes hr, .refl p _⟩
  | true => exact ⟨tm, _, exec_received tm hr bytes, work_receive (by exact hs) p bytes⟩

theorem worksAt_silence : WorksAt p s (exec (.silence tm p) s) := by
  rw [exec_silence hs]
  exact .ite (fun _ => ⟨tm, _, rfl, work_lose (by exact hs) p (by decide)⟩) fun _ => ⟨tm, _, rfl, .refl p _⟩

theorem worksAt_replayTimeout : WorksAt p s (exec (.replayTimeout tm p) s) := by
  rw [exec_replayTimeout hs]
  split
  · exact ⟨tm, _, rfl, .goes (elsewhere_updPair_attempt (by exact hs) p _)⟩
  · exact ⟨tm, _, rfl, .refl p _⟩

theorem worksAt_drainLimit : WorksAt p s (exec (.drainLimit tm p) s) := by
  rw [exec_drainLimit]
  exact .ite (fun _ => ⟨tm, _, rfl, .changed (Left.toOff (s := s.atTime tm) hs p .drainLimit).elsewhere⟩) fun _ => ⟨tm, _, rfl, .refl p _⟩

theorem worksAt_guardWindowOpen : WorksAt p s (exec (.guardWindowOpen tm p) s) := by
  rw [exec_guardWindowOpen hs]
  split
  · exact ⟨tm, _, rfl, .goes (elsewhere_updPair_attempt (by exact hs) p _)⟩
  · exact ⟨tm, _, rfl, .refl p _⟩

theorem elsewhere_closeWindow (w : GuardWindow) : Elsewhere p s (closeWindow p w s) := by
  unfold closeWindow
  dsimp only
  rw [useGroup_sound (by exact hs)]
  exact .ite (fun _ => elsewhere_updPair p s _) fun _ => .ite (fun _ => (elsewhere_updPair p s _).trans (elsewhere_updPair p _ _))
    fun _ => elsewhere_updPair p s _

theorem worksAt_guardWindowEnd : WorksAt p s (exec (.guardWindowEnd tm p) s) := by
  rw [exec_guardWindowEnd]
  split
  · next w _ =>
    have closed := elsewhere_closeWindow (s := s.atTime tm) hs p w
    exact ⟨tm, _, rfl, .goes (closed.trans (elsewhere_attempt (closed.sound hs) p))⟩
  · exact ⟨tm, _, rfl, .refl p _⟩

end commands

/-- Every report and deadline of one pair is work of that pair. -/
theorem worksAt_atPair {s : State} (hs : s.tables.Sound) {c : Instr} {p : PairIx} (hc : atPair c = some p) : WorksAt p s (exec c s) := by
  cases c with
  | trainStart tm q => cases hc; exact worksAt_trainStart hs tm p
  | up tm q u d => cases hc; exact worksAt_up hs tm p u d
  | rate tm q u d => cases hc; exact worksAt_rate hs tm p u d
  | down tm q => cases hc; exact worksAt_down hs tm p
  | ready tm q => cases hc; exact worksAt_ready hs tm p
  | received tm q bytes => cases hc; exact worksAt_received hs tm p bytes
  | probationTimeExpiry tm q => cases hc; exact ⟨tm, _, rfl, work_examine (by exact hs) p⟩
  | silence tm q => cases hc; exact worksAt_silence hs tm p
  | replayTimeout tm q => cases hc; exact worksAt_replayTimeout hs tm p
  | drainLimit tm q => cases hc; exact worksAt_drainLimit hs tm p
  | guardWindowOpen tm q => cases hc; exact worksAt_guardWindowOpen hs tm p
  | guardWindowEnd tm q => cases hc; exact worksAt_guardWindowEnd hs tm p
  | _ => cases hc

/-- Settles O34. -/
theorem pairCommandsFrame : Obligations.PairCommandsFrame := by
  intro s t c p hs hc ht
  obtain ⟨tm, x, result, work⟩ := worksAt_atPair hs hc
  rw [result] at ht
  cases ht
  have frame := (work.pairFrame (by exact hs)).of_atTime
  have farm := frame.farm
  exact ⟨frame.others, frame.tables, frame.boxes, frame.digit, by rw [farm], by rw [farm], by rw [farm], by rw [farm], frame.respSlot⟩

end Sys2Proof.Machine
end

section
/-! PROOFS of the family 01: the evaluation of the group and the damage that takes effect, on any table memory (R12, R119, R121..R123).
Settles O43. -/

namespace Sys2Proof.Machine

/-! ### The group's fall for damage -/

theorem MetTables.groupWord {s t : State} (h : MetTables s t) (hd : t.digit = s.digit) (i : Fin 19) : t.groupWord i = s.groupWord i := by
  unfold State.groupWord; rw [h.words, hd]

theorem MetTables.minPairs {s t : State} (h : MetTables s t) (hd : t.digit = s.digit) : t.minPairs = s.minPairs := by
  unfold State.minPairs; rw [h.groupWord hd]

theorem wouldBeUp_damaged {s : State} (h : s.tables.groupDamaged = true) : s.wouldBeUp = false := by
  unfold State.wouldBeUp; rw [h]; rfl

/-- With the group record marked damaged an UP group falls, whatever the count (R121). -/
theorem evaluateGroup_damaged {s : State} (hd : s.tables.groupDamaged = true) (hu : s.groupUp = true) :
    evaluateGroup s = groupFall (touchGroup 0x02 s) := by
  have marked : (touchGroup 0x02 s).tables.groupDamaged = true := (metTables_touch _ s).groupMark hd
  have down := wouldBeUp_damaged marked
  have up : (touchGroup 0x02 s).groupUp = true := (reports_touch _ s).groupUp.trans hu
  obtain ⟨-, same⟩ | ⟨fell, -, -⟩ | ⟨-, was, -⟩ := evaluateGroup_cases s
  · rw [up, down] at same; cases same
  · exact fell
  · rw [hu] at was; cases was

theorem event_groupDown_damaged {s : State} (hd : s.tables.groupDamaged = true) (hu : s.groupUp = true) :
    (evaluateGroup s).event .groupDown = (s.event .groupDown).occur (detail1 (byteFields s.activeCount s.minPairs 2 0)) := by
  have read := reports_touch (.group .active 0x02) s
  have met := metTables_touch (.group .active 0x02) s
  have noFinding : EventKind.NoFinding .groupDown := ⟨by decide, by decide⟩
  have count : (touchGroup 0x02 s).activeCount = s.activeCount := State.activeCount_congr fun q => by
    have := read.pair q
    exact this ▸ Iff.rfl
  have least : (touchGroup 0x02 s).minPairs = s.minPairs := met.minPairs read.digit
  have marked : (touchGroup 0x02 s).tables.groupDamaged = true := met.groupMark hd
  rw [evaluateGroup_damaged hd hu, event_groupFall _ noFinding (.inl (by decide)), if_pos rfl, count, least, marked]
  exact congrArg (fun e : EventRec => e.occur _) (met.event noFinding)

theorem damageOwed_group {s : State} (hd : s.tables.groupDamaged = true) (hu : s.groupUp = true) : s.damageOwed = true := by
  unfold State.damageOwed; rw [hd, hu]; rfl

/-- What follows the taking of damage owed only settles. -/
theorem finish_owed {s : State} (h : s.damageOwed = true) :
    finish s = settleOwed (serve (attempt (settleDamage s))) := by
  unfold finish
  rw [show settleOwed s = attempt (settleDamage s) from if_pos h]

theorem settles_afterDamage (x : State) : Settles x (settleOwed (serve (attempt x))) :=
  (settles_attempt x).trans ((settles_serve _).trans (settles_settleOwed _))

/-- The group record's damage has taken effect before the command ends (R121). -/
theorem finish_groupDown {s : State} (hd : s.tables.groupDamaged = true) (hu : s.groupUp = true) : (finish s).groupUp = false := by
  have evaluated := settles_evaluateGroup s
  have down : (evaluateGroup s).groupUp = false := by rw [evaluateGroup_damaged hd hu]; exact (groupFall_dist _).2
  have rest := (settles_foldl_damagedPairOff allPairs (evaluateGroup s)).trans (settles_afterDamage _)
  have settled : settleDamage s = allPairs.foldl (fun s p => damagedPairOff p s) (evaluateGroup s) := by
    unfold settleDamage
    rw [if_pos ⟨hd, hu⟩]
  rw [finish_owed (damageOwed_group hd hu), settled]
  exact rest.down (evaluated.groupMark hd) down

/-! ### Pairs of damaged entries -/

/-- An evaluation leaves a port as it was, or fallen, whatever table memory holds. -/
theorem evaluateGroup_port (s : State) (q : PairIx) :
    (evaluateGroup s).pair q = s.pair q ∨ (evaluateGroup s).pair q = (s.pair q).fallen := by
  have read : (touchGroup 0x02 s).pair q = s.pair q := (reports_touch _ s).pair q
  obtain ⟨e, -⟩ | ⟨e, -⟩ | ⟨e, -⟩ := evaluateGroup_cases s <;> rw [e]
  · exact .inl read
  · exact .inr (by rw [groupFall_pair, read])
  · exact .inl ((State.pair_congr (groupRise_spec _).1 q).trans read)

/-- A port as it was, or emptied. -/
def PairPort.Reduced (pp pp' : PairPort) : Prop := pp' = pp ∨ pp' = pp.emptied

theorem PairPort.Reduced.state {pp pp' : PairPort} (h : pp.Reduced pp') : pp'.state = pp.state := by
  obtain rfl | rfl := h <;> rfl

theorem PairPort.Reduced.evaluated {pp : PairPort} {s : State} {q : PairIx} (h : pp.Reduced (s.pair q)) (hd : pp.state ≠ .draining) :
    pp.Reduced ((evaluateGroup s).pair q) := by
  obtain e | e := evaluateGroup_port s q
  · rw [e]; exact h
  · rw [e, PairPort.fallen_of_ne (by rw [h.state]; exact hd)]
    obtain h | h := h <;> rw [h] <;> exact .inr rfl

/-- The consequences of other pairs' damage leave a marked pair that does not drain marked, and its port but for its stores (R12). -/
theorem foldl_damagedPairOff_others {ps : List PairIx} {p : PairIx} (hp : p ∉ ps) {pp : PairPort} (hd : pp.state ≠ .draining) {s : State}
    (h : pp.Reduced (s.pair p)) : pp.Reduced ((ps.foldl (fun s p => damagedPairOff p s) s).pair p) := by
  induction ps generalizing s with
  | nil => exact h
  | cons q ps ih =>
    obtain ⟨hq, hps⟩ := not_or.mp (mt List.mem_cons.mpr hp)
    refine ih hps ?_
    dsimp only
    unfold damagedPairOff
    split
    · refine PairPort.Reduced.evaluated ?_ hd
      rw [toOff_pair, if_neg hq]
      exact h
    · exact h

/-- Pairs without damage are passed over. -/
theorem foldl_damagedPairOff_none {ps : List PairIx} {s : State} (h : ∀ q ∈ ps, s.tables.pairDamaged[q.val] = false) :
    ps.foldl (fun s p => damagedPairOff p s) s = s := by
  induction ps with
  | nil => rfl
  | cons q ps ih =>
    have unmarked : damagedPairOff q s = s := if_neg fun hc => by
      have := h q (by simp)
      rw [this] at hc
      cases hc.1
    rw [List.foldl_cons, unmarked]
    exact ih fun r hr => h r (by simp [hr])

/-- The pair's damage taken: the pair leaves service for OFF and stays there to the end of the command (R12). -/
theorem damagedPairOff_leaves {pp : PairPort} {p : PairIx} {s t : State} (hm : s.tables.pairDamaged[p.val] = true)
    (hr : pp.Reduced (s.pair p)) (ho : pp.state ≠ .off) (h : Settles (damagedPairOff p s) t) :
    LeftService pp (t.pair p) .off .damaged .quiet := by
  have off : damagedPairOff p s = evaluateGroup (toOff p .damaged s) := if_pos ⟨hm, by rw [hr.state]; exact ho⟩
  have port : (toOff p .damaged s).pair p = (s.pair p).departed .off .damaged .quiet := (toOff_pair ..).trans (if_pos rfl)
  have vacated : ((toOff p .damaged s).pair p).Vacated := by rw [port]; exact ⟨rfl, rfl⟩
  have stays := ((settles_evaluateGroup (toOff p .damaged s)).trans (off ▸ h)).off p vacated
  have service := (s.pair p).leftService_departed .off .damaged .quiet
  rw [stays, port]
  obtain e | e := hr <;> rw [e] at service ⊢
  · exact service
  · exact service.congr rfl ⟨rfl, rfl⟩ ⟨rfl, rfl⟩ rfl rfl

theorem damageOwed_pair {s : State} {p : PairIx} (hm : s.tables.pairDamaged[p.val] = true) (ho : (s.pair p).state ≠ .off) :
    s.damageOwed = true := by
  unfold State.damageOwed
  rw [Bool.or_eq_true, List.any_eq_true]
  exact .inr ⟨p, mem_allPairs p, by simp [hm, ho]⟩

/-- A pair whose active entry is marked damaged is in OFF when the command ends (R12). -/
theorem damagedPair_leaves {s : State} {p : PairIx} (hm : s.tables.pairDamaged[p.val] = true) (ho : (s.pair p).state ≠ .off)
    (hd : (s.pair p).state = .draining → s.tables.groupDamaged = false ∧ ∀ q, q ≠ p → s.tables.pairDamaged[q.val] = false) :
    LeftService (s.pair p) ((finish s).pair p) .off .damaged .quiet := by
  obtain ⟨before, after, split⟩ := List.append_of_mem (mem_allPairs p)
  have nodup : (before ++ p :: after).Nodup := split ▸ (by decide : allPairs.Nodup)
  have notBefore : p ∉ before := fun h => (List.nodup_append.mp nodup).2.2 p h p (by simp) rfl
  generalize hx : (if s.tables.groupDamaged ∧ s.groupUp then evaluateGroup s else s) = x
  have settled : settleDamage s = after.foldl (fun s p => damagedPairOff p s)
      (damagedPairOff p (before.foldl (fun s p => damagedPairOff p s) x)) := by
    unfold settleDamage
    dsimp only
    rw [hx, split, List.foldl_append, List.foldl_cons]
  have rest := (settles_foldl_damagedPairOff after (damagedPairOff p (before.foldl (fun s p => damagedPairOff p s) x))).trans
    (settles_afterDamage _)
  have marked : s.tables.pairDamaged[p.val] = true → (before.foldl (fun s p => damagedPairOff p s) x).tables.pairDamaged[p.val] = true := by
    refine fun h => (settles_foldl_damagedPairOff before x).pairMark p ?_
    rw [← hx]
    split
    · exact (settles_evaluateGroup s).pairMark p h
    · exact h
  have reduced : (s.pair p).Reduced ((before.foldl (fun s p => damagedPairOff p s) x).pair p) := by
    by_cases drains : (s.pair p).state = .draining
    · obtain ⟨hg, hothers⟩ := hd drains
      have same : x = s := by rw [← hx, hg]; rfl
      rw [same, foldl_damagedPairOff_none fun q hq => hothers q fun e => notBefore (e ▸ hq)]
      exact .inl rfl
    · refine foldl_damagedPairOff_others notBefore drains ?_
      rw [← hx]
      split
      · exact PairPort.Reduced.evaluated (.inl rfl) drains
      · exact .inl rfl
  rw [finish_owed (damageOwed_pair hm ho), settled]
  exact damagedPairOff_leaves (marked hm) reduced ho rest

/-! ### The evaluation on sound table memory -/

theorem groupUp_evaluateGroup {s : State} (h : s.tables.Sound) : (evaluateGroup s).groupUp = decide (s.minPairs ≤ s.activeCount) := by
  obtain ⟨e, same⟩ | ⟨e, -, few⟩ | ⟨e, -, enough⟩ := evaluates h <;> rw [e]
  · exact same
  · rw [(groupFall_dist s).2]; simpa using few
  · rw [(groupRise_spec s).2.2.1]; simpa using enough

/-- Settles O43. -/
theorem groupEvaluated : Obligations.GroupEvaluated := by
  refine ⟨fun s hs => ⟨by rw [groupUp_evaluateGroup hs, decide_eq_true_iff], evaluateGroup_agrees hs, fun hu hc => ?_⟩,
    fun s hd hu => ⟨?_, finish_groupDown hd hu, event_groupDown_damaged hd hu⟩, fun s p hm ho hd => damagedPair_leaves hm ho hd⟩
  · obtain ⟨pairs, dist, -, reas, farm⟩ := groupRise_spec s
    have tables := (settles_evaluateGroup s).toBlockFrame.sound hs
    rw [evaluateGroup_rises hs hu hc] at tables ⊢
    refine ⟨?_, reas, pairs, dist, farm, tables⟩
    rw [event_groupRise s ⟨by decide, by decide⟩, if_pos rfl]
  · rw [evaluateGroup_damaged hd hu]
    exact (groupFall_dist _).2

end Sys2Proof.Machine
end

section
/-! PROOFS of the family 01: the copy of a commit on sound table memory, word by word (R19, R117, R133). -/

namespace Sys2Proof.Machine

/-! ### The words of a commit -/

/-- The latency offset that a commit leaves: M for an AUTO entry whose pair has taken a sample, `m`, else the shadow value (R19). -/
def TableStore.committedE (t : TableStore) (m : Option Nat) (p : PairIx) : Word :=
  match m with
  | some x => if bitAt (t.get (.pair .shadow p 0)).val 16 then (t.get (.pair .shadow p 1)).val else asWord x
  | none => (t.get (.pair .shadow p 1)).val

/-- The value that a commit leaves in each word (R19, R117, R133). -/
def TableStore.committed (t : TableStore) (m : PairIx → Option Nat) : TRef → Word
  | .group .active i => if i.val < 2 then (t.get (.group .active i)).val else (t.get (.group .shadow i)).val
  | .pair .active p j => if j = 0 then (t.get (.pair .shadow p 0)).val else t.committedE (m p) p
  | .cls .active i j => (t.get (.cls .shadow i j)).val
  | r => (t.get r).val

/-- Neither a shadow word nor the gate record. -/
def TRef.IsActive (r : TRef) : Prop := r.isShadow = false ∧ r ≠ .gate

/-- A copy under way from `t₀`: `done` are words that have their committed values. -/
structure Copying (t₀ : TableStore) (m : PairIx → Option Nat) (done : Set TRef) (t : TableStore) : Prop where
  sound : t.Sound
  count : t.commitCount = t₀.commitCount
  kept : ∀ r, ¬r.IsActive → t.get r = t₀.get r
  restart : ∀ i : Fin 19, i.val < 2 → (t.get (.group .active i)).val = (t₀.get (.group .active i)).val
  written : ∀ r ∈ done, (t.get r).val = t₀.committed m r

theorem TableStore.store_commitCount (t : TableStore) (r : TRef) (v : Word) : (t.store r v).commitCount = t.commitCount := by
  rcases r with ⟨_ | _, i⟩ | ⟨_ | _, p, j⟩ | ⟨_ | _, i, j⟩ | _ <;> rfl

theorem TableStore.get_setMarks (t : TableStore) (g : Bool) (ps : Vector Bool 8) (cs : Vector Bool 64) (r : TRef) :
    ({ t with groupDamaged := g, pairDamaged := ps, clsDamaged := cs } : TableStore).get r = t.get r := by
  rcases r with ⟨_ | _, i⟩ | ⟨_ | _, p, j⟩ | ⟨_ | _, i, j⟩ | _ <;> rfl

theorem getElem_set_false {n : Nat} {v : Vector Bool n} (h : ∀ i : Fin n, v[i.val] = false) (k : Fin n) :
    ∀ i : Fin n, (v.set k.val false)[i.val] = false := fun i => by
  rw [Vector.getElem_set]
  split
  · rfl
  · exact h i

section copying

variable {t₀ t : TableStore} {m : PairIx → Option Nat} {done : Set TRef}

theorem Copying.refl (h : t₀.Sound) (m : PairIx → Option Nat) : Copying t₀ m ∅ t₀ :=
  ⟨h, rfl, fun _ _ => rfl, fun _ _ => rfl, fun _ h => absurd h (Set.notMem_empty _)⟩

/-- A word written with its committed value. -/
theorem Copying.store (h : Copying t₀ m done t) {r : TRef} (hr : r.IsActive) {v : Word} (hv : v = t₀.committed m r) :
    Copying t₀ m (insert r done) (t.store r v) where
  sound := h.sound.store r v
  count := (t.store_commitCount r v).trans h.count
  kept q hq := by
    rw [TableStore.get_store, if_neg (by rintro rfl; exact hq hr)]
    exact h.kept q hq
  restart i hi := by
    rw [TableStore.get_store]
    split
    · next e =>
      subst e
      rw [hv]
      exact if_pos hi
    · exact h.restart i hi
  written q hq := by
    rw [TableStore.get_store]
    split
    · next e => subst e; exact hv
    · next e => exact h.written q (hq.resolve_left e)

/-- Damage marks cleared. -/
theorem Copying.clear (h : Copying t₀ m done t) {g : Bool} (hg : g = false) {ps : Vector Bool 8} {cs : Vector Bool 64} (hp : ∀ i : Fin 8, ps[i.val] = false)
    (hc : ∀ i : Fin 64, cs[i.val] = false) :
    Copying t₀ m done { t with groupDamaged := g, pairDamaged := ps, clsDamaged := cs } where
  sound := ⟨fun r => by rw [TableStore.get_setMarks]; exact h.sound.words r, hg, hp, hc, h.sound.gate⟩
  count := h.count
  kept r hr := by rw [TableStore.get_setMarks]; exact h.kept r hr
  restart i hi := by rw [TableStore.get_setMarks]; exact h.restart i hi
  written r hr := by rw [TableStore.get_setMarks]; exact h.written r hr

theorem TableStore.copyWord_sound (h : t.Sound) (src dst : TRef) : t.copyWord src dst = (t.store dst (t.get src).val, true) := by
  unfold TableStore.copyWord TableStore.word?
  rw [h.words]
  rfl

/-- A shadow word copied. -/
theorem Copying.copy (h : Copying t₀ m done t) {src dst : TRef} (hs : ¬src.IsActive) (hd : dst.IsActive)
    (hv : (t₀.get src).val = t₀.committed m dst) : Copying t₀ m (insert dst done) (t.copyWord src dst).1 := by
  rw [TableStore.copyWord_sound h.sound, h.kept src hs]
  exact h.store hd hv

/-! ### Unit by unit -/

/-- Units copied one after another. -/
theorem Copying.foldl {α β : Type} {proj : β → TableStore} {f : β → α → β} {unit : α → Set TRef}
    (hf : ∀ (done : Set TRef) (b : β) (a : α), Copying t₀ m done (proj b) → Copying t₀ m (unit a ∪ done) (proj (f b a)))
    (l : List α) {b : β} (h : Copying t₀ m done (proj b)) :
    Copying t₀ m ({r | ∃ a ∈ l, r ∈ unit a} ∪ done) (proj (l.foldl f b)) := by
  induction l generalizing done b with
  | nil => simpa using h
  | cons a l ih =>
    have step := ih (hf done b a h)
    refine { step with written := fun r hr => step.written r ?_ }
    obtain ⟨x, hx, hr⟩ | hr := hr
    · obtain rfl | hx := List.mem_cons.mp hx
      · exact .inr (.inl hr)
      · exact .inl ⟨x, hx, hr⟩
    · exact .inr (.inr hr)

theorem shadow_notActive {r : TRef} (h : r.isShadow = true) : ¬r.IsActive := fun ha => by rw [ha.1] at h; cases h

/-- A word of the group record (R117, R133). -/
theorem Copying.groupWord {acc : TableStore × Bool} (h : Copying t₀ m done acc.1) (i : Fin 19) :
    Copying t₀ m (insert (.group .active i) done) (TableStore.commitGroupWord acc i).1 := by
  have active : (TRef.group .active i).IsActive := ⟨rfl, nofun⟩
  change Copying t₀ m _ (if i.val < 2 then acc.1.rewriteWord i else acc.1.copyWord (.group .shadow i) (.group .active i)).1
  split
  · next hi =>
    have rewritten : acc.1.rewriteWord i = (acc.1.store (.group .active i) (acc.1.get (.group .active i)).val, true) := by
      unfold TableStore.rewriteWord TableStore.word?
      rw [h.sound.words]
      rfl
    rw [rewritten]
    exact h.store active ((h.restart i hi).trans (if_pos hi).symm)
  · next hi => exact h.copy (shadow_notActive rfl) active (if_neg hi).symm

theorem Copying.group (h : Copying t₀ m done t) :
    Copying t₀ m ({r | ∃ i ∈ List.finRange 19, r ∈ ({.group .active i} : Set TRef)} ∪ done) t.commitGroup := by
  have copied := Copying.foldl (proj := Prod.fst) (f := TableStore.commitGroupWord) (unit := fun i => {.group .active i})
    (fun done b i hb => hb.groupWord i) (List.finRange 19) (b := (t, true)) h
  unfold TableStore.commitGroup
  generalize (List.finRange 19).foldl TableStore.commitGroupWord (t, true) = x at copied ⊢
  dsimp only
  split
  · exact copied.clear rfl copied.sound.pairs copied.sound.cls
  · exact copied

/-- An entry's latency offset, its mode word copied (R19). -/
theorem Copying.offset (h : Copying t₀ m done t) {p : PairIx} (hm : .pair .active p 0 ∈ done) :
    Copying t₀ m (insert (.pair .active p 1) done) (TableStore.commitOffset (m p) p t).1 := by
  have active : (TRef.pair .active p 1).IsActive := ⟨rfl, nofun⟩
  have mode : (t.get (.pair .active p 0)).val = (t₀.get (.pair .shadow p 0)).val := h.written _ hm
  have value : t₀.committed m (.pair .active p 1) = t₀.committedE (m p) p := rfl
  unfold TableStore.commitOffset
  unfold TableStore.committedE at value
  cases hx : m p with
  | none =>
    rw [hx] at value
    exact h.copy (shadow_notActive rfl) active value.symm
  | some x =>
    rw [hx] at value
    dsimp only at value ⊢
    rw [mode]
    split
    · next hb =>
      rw [if_pos hb] at value
      exact h.copy (shadow_notActive rfl) active value.symm
    · next hb =>
      rw [if_neg hb] at value
      exact h.store active value.symm

theorem bothCopied_eq (f g : TableStore → TableStore × Bool) (t : TableStore) :
    bothCopied f g t = ((g (f t).1).1, (f t).2 && (g (f t).1).2) := rfl

theorem Copying.pair (h : Copying t₀ m done t) (p : PairIx) :
    Copying t₀ m ({.pair .active p 0, .pair .active p 1} ∪ done) (TableStore.commitPair m t p) := by
  have modes := h.copy (src := .pair .shadow p 0) (dst := .pair .active p 0) (shadow_notActive rfl) ⟨rfl, nofun⟩ rfl
  have offsets := modes.offset (p := p) (Set.mem_insert _ _)
  have copied : Copying t₀ m ({.pair .active p 0, .pair .active p 1} ∪ done)
      (TableStore.commitOffset (m p) p (t.copyWord (.pair .shadow p 0) (.pair .active p 0)).1).1 := by
    refine { offsets with written := fun r hr => offsets.written r ?_ }
    obtain (rfl | rfl) | hr := hr
    · exact .inr (.inl rfl)
    · exact .inl rfl
    · exact .inr (.inr hr)
  unfold TableStore.commitPair
  rw [bothCopied_eq]
  dsimp only
  split
  · exact copied.clear copied.sound.group (getElem_set_false copied.sound.pairs p) copied.sound.cls
  · exact copied

theorem Copying.cls (h : Copying t₀ m done t) (i : Fin 64) :
    Copying t₀ m ({.cls .active i 0, .cls .active i 1} ∪ done) (TableStore.commitCls t i) := by
  have first := h.copy (src := .cls .shadow i 0) (dst := .cls .active i 0) (shadow_notActive rfl) ⟨rfl, nofun⟩ rfl
  have second := first.copy (src := .cls .shadow i 1) (dst := .cls .active i 1) (shadow_notActive rfl) ⟨rfl, nofun⟩ rfl
  have copied : Copying t₀ m ({.cls .active i 0, .cls .active i 1} ∪ done)
      ((t.copyWord (.cls .shadow i 0) (.cls .active i 0)).1.copyWord (.cls .shadow i 1) (.cls .active i 1)).1 := by
    refine { second with written := fun r hr => second.written r ?_ }
    obtain (rfl | rfl) | hr := hr
    · exact .inr (.inl rfl)
    · exact .inl rfl
    · exact .inr (.inr hr)
  unfold TableStore.commitCls
  rw [bothCopied_eq]
  dsimp only
  split
  · exact copied.clear copied.sound.group copied.sound.pairs (getElem_set_false copied.sound.cls i)
  · exact copied

end copying

/-- The copy of a commit: every word of the active copy has its committed value, the shadow copies and the gate record stay (R133). -/
theorem commitStores_spec {t : TableStore} (h : t.Sound) (m : PairIx → Option Nat) :
    (t.commitStores m).Sound ∧ (t.commitStores m).commitCount = t.commitCount
      ∧ (∀ r, ¬r.IsActive → (t.commitStores m).get r = t.get r)
      ∧ ∀ r, ((t.commitStores m).get r).val = t.committed m r := by
  have pairs := (Copying.refl h m).group.foldl (proj := fun t => t) (f := TableStore.commitPair m)
    (unit := fun p => {.pair .active p 0, .pair .active p 1}) (fun _ _ p hb => hb.pair p) allPairs
  have all := pairs.foldl (proj := fun t => t) (f := TableStore.commitCls) (unit := fun i => {.cls .active i 0, .cls .active i 1})
    (fun _ _ i hb => hb.cls i) (List.finRange 64)
  unfold TableStore.commitStores
  refine ⟨all.sound, all.count, all.kept, fun r => ?_⟩
  have two : ∀ j : Fin 2, j = 0 ∨ j = 1 := by decide
  rcases r with ⟨_ | _, i⟩ | ⟨_ | _, p, j⟩ | ⟨_ | _, i, j⟩ | _
  · exact congrArg TWord.val (all.kept _ (shadow_notActive rfl))
  · exact all.written _ (.inr (.inr (.inl ⟨i, List.mem_finRange i, rfl⟩)))
  · exact congrArg TWord.val (all.kept _ (shadow_notActive rfl))
  · refine all.written _ (.inr (.inl ⟨p, mem_allPairs p, ?_⟩))
    obtain rfl | rfl := two j
    · exact .inl rfl
    · exact .inr rfl
  · exact congrArg TWord.val (all.kept _ (shadow_notActive rfl))
  · refine all.written _ (.inl ⟨i, List.mem_finRange i, ?_⟩)
    obtain rfl | rfl := two j
    · exact .inl rfl
    · exact .inr rfl
  · exact congrArg TWord.val (all.kept _ fun ha => ha.2 rfl)

theorem commitCopy_sound {s : State} (h : s.tables.Sound) : commitCopy s = s.updTables (TableStore.commitStores s.measured) := by
  have read : ∀ (is : List (Fin 19)), is.foldl restartBoundReads s = s := fun is => by
    induction is with
    | nil => rfl
    | cons i is ih =>
      have one : restartBoundReads s i = s := by
        unfold restartBoundReads
        dsimp only
        rw [touch_sound h, touch_sound h, ite_self]
      rw [List.foldl_cons, one, ih]
  unfold commitCopy
  dsimp only
  rw [read, touchAll_sound h]

end Sys2Proof.Machine
end

section
/-! PROOFS of the family 01: the steps of a commit after the copy, as table memory and the event unit see them on sound table memory
(R134, R158, R161). -/

namespace Sys2Proof.Machine

/-! ### Notices on sound table memory -/

/-- The event unit once a kind has become newly pending (R161). -/
def State.withPending (s : State) : EventUnit :=
  if s.noticeSides = 0 then s.events
  else if s.noticeAllowed then { s.events with lastNotice := some s.now } else { s.events with owed := true }

section reads

variable {look : TRef → State → State} (hl : ∀ r s, s.tables.Sound → look r s = s) {s : State} (h : s.tables.Sound)
include hl h

theorem sendNoticeWith_sound :
    (sendNoticeWith look s).tables = s.tables ∧ (sendNoticeWith look s).events = { s.events with lastNotice := some s.now } := by
  have hs : (stampNotice s).tables.Sound := h
  have sides : ∀ (b : List Byte) (n : Nat), (sendSides look b n (stampNotice s)).tables = s.tables
      ∧ (sendSides look b n (stampNotice s)).events = (stampNotice s).events := fun b n => by
    unfold sendSides admitInternalWith
    dsimp only
    have hs' : (if n.testBit 1 then (stampNotice s).updCtl fun c => c.putNotice b else stampNotice s).tables.Sound := by
      split <;> exact hs
    simp only [hl _ _ hs']
    split_ifs <;> exact ⟨rfl, rfl⟩
  unfold sendNoticeWith touchNotice
  simp only [hl _ _ hs]
  exact sides _ _

theorem newPendingWith_events : (newPendingWith look s).events = s.withPending := by
  unfold newPendingWith State.withPending
  dsimp only
  rw [hl _ _ h]
  split_ifs
  · rfl
  · exact (sendNoticeWith_sound hl h).2
  · rfl

end reads

theorem sendNotice_sound {s : State} (h : s.tables.Sound) :
    (sendNotice s).tables = s.tables ∧ (sendNotice s).events = { s.events with lastNotice := some s.now } :=
  sendNoticeWith_sound (fun _ _ hx => touch_sound hx) h

/-- The event unit after an event is raised (R158, R161). -/
theorem raiseEvent_events (k : EventKind) (d : Detail) {s : State} (h : s.tables.Sound) :
    (raiseEvent k d s).events = if (s.event k).enabled && !(s.event k).isPending
      then (s.setEvent k ((s.event k).occur d)).withPending else (s.setEvent k ((s.event k).occur d)).events := by
  have hl : ∀ r x, x.tables.Sound → touchWith (raiseN 7) r x = x := fun r x hx => by
    unfold touchWith; rw [hx.words r]
  unfold raiseEvent raiseN
  dsimp only
  split
  · exact newPendingWith_events hl h
  · rfl

/-! ### Steps that raise no event -/

/-- `t` is `s` after steps that change neither table memory nor the event unit. -/
structure Mute (s t : State) : Prop where
  tables : t.tables = s.tables
  now : t.now = s.now
  digit : t.digit = s.digit
  events : t.events = s.events

theorem Mute.refl (s : State) : Mute s s := ⟨rfl, rfl, rfl, rfl⟩

theorem Mute.trans {s t u : State} (h : Mute s t) (k : Mute t u) : Mute s u :=
  ⟨k.tables.trans h.tables, k.now.trans h.now, k.digit.trans h.digit, k.events.trans h.events⟩

theorem Tallied.mute {s t : State} (h : Tallied s t) : Mute s t := by
  obtain ⟨_, _, rfl⟩ := h; exact ⟨rfl, rfl, rfl, rfl⟩

theorem Mute.foldl {α : Type} {f : State → α → State} (hf : ∀ s a, Mute s (f s a)) (l : List α) (s : State) : Mute s (l.foldl f s) := by
  induction l generalizing s with
  | nil => exact .refl s
  | cons a l ih => exact (hf s a).trans (ih _)

theorem mute_giveUp (p : PairIx) (keep : Bool) (s : State) : Mute s (giveUp p keep s) := by
  obtain ⟨l, -, c, rs, h⟩ := giveUp_shape p keep s
  rw [h]
  exact ⟨rfl, rfl, rfl, rfl⟩

theorem mute_clearDistributor {s : State} (h : s.tables.Sound) : Mute s (clearDistributor s) := by
  unfold clearDistributor
  dsimp only
  rw [epochTest_sound (by exact h), ite_self]
  generalize hx : (s.updDist fun d => { d with reroute := [], fip := none, wait := .none }) = x
  have cleared : Mute s x := by rw [← hx]; exact ⟨rfl, rfl, rfl, rfl⟩
  have discarded := cleared.trans (tallied_foldl tallied_discardFrag s.dist.reroute x).mute
  split
  · exact discarded.trans (tallied_discardFrag _ _).mute
  · exact discarded

theorem mute_flushClassifier (s : State) : Mute s (flushClassifier s) := by
  have one : ∀ (s : State) (c : ClassIx), Mute s (flushQueue s c) := fun s c => by
    obtain ⟨q, h⟩ := flushQueue_shape c s
    have queues : Mute s { s with queues := q } := ⟨rfl, rfl, rfl, rfl⟩
    exact queues.trans h.mute
  have flushed := Mute.foldl one [0, 1, 2, 3] s
  unfold flushClassifier
  dsimp only
  generalize ([0, 1, 2, 3] : List ClassIx).foldl flushQueue s = x at flushed ⊢
  exact flushed.trans ⟨rfl, rfl, rfl, rfl⟩

theorem mute_cleared {s : State} (h : s.tables.Sound) : Mute s (cleared s) := by
  have given := Mute.foldl (fun s p => mute_giveUp p false s) allPairs s
  have emptied := given.trans (mute_clearDistributor (by rw [given.tables]; exact h))
  have flushed := emptied.trans (mute_flushClassifier _)
  have idles : ∀ x : State, Mute x (x.updReas Reassembler.toIdle) := fun _ => ⟨rfl, rfl, rfl, rfl⟩
  exact flushed.trans (idles _)

theorem OnlyPlaced.mute {s t : State} (h : OnlyPlaced s t) : Mute s t := ⟨h.frame.tables, h.frame.now, h.frame.digit, h.frame.events⟩

theorem ReasWork.mute {s t : State} (h : ReasWork s t) (hs : s.tables.Sound) : Mute s t :=
  ⟨(h.sound hs).1, h.now, h.digit, (h.sound hs).2⟩

/-! ### Steps that raise events other than COMMIT_DONE -/

/-- What the event unit keeps through the steps of a commit that follow COMMIT_DONE (R134, R161). -/
structure Reporting (s t : State) : Prop where
  tables : t.tables = s.tables
  now : t.now = s.now
  digit : t.digit = s.digit
  commitDone : t.event .commitDone = s.event .commitDone
  none : s.noticeSides = 0 → t.events.owed = s.events.owed
  sent : s.events.lastNotice = some s.now → t.events.lastNotice = some s.now
  waits : ∀ l, s.events.lastNotice = some l → s.now < l + s.noticeInterval →
    t.events.lastNotice = some l ∧ (s.events.owed = true → t.events.owed = true)

theorem State.noticeSides_congr {s t : State} (ht : t.tables = s.tables) (hd : t.digit = s.digit) : t.noticeSides = s.noticeSides := by
  unfold State.noticeSides; rw [State.groupWord_congr ht hd]

theorem State.noticeInterval_congr {s t : State} (ht : t.tables = s.tables) (hd : t.digit = s.digit) :
    t.noticeInterval = s.noticeInterval := by unfold State.noticeInterval; rw [State.groupWord_congr ht hd]

theorem Mute.reporting {s t : State} (h : Mute s t) : Reporting s t where
  tables := h.tables
  now := h.now
  digit := h.digit
  commitDone := State.event_congr (congrArg EventUnit.kinds h.events) _
  none _ := by rw [h.events]
  sent hl := by rw [h.events]; exact hl
  waits l hl _ := by rw [h.events]; exact ⟨hl, id⟩

theorem Reporting.trans {s t u : State} (h : Reporting s t) (k : Reporting t u) : Reporting s u where
  tables := k.tables.trans h.tables
  now := k.now.trans h.now
  digit := k.digit.trans h.digit
  commitDone := k.commitDone.trans h.commitDone
  none hn := (k.none ((State.noticeSides_congr h.tables h.digit).trans hn)).trans (h.none hn)
  sent hl := h.now ▸ k.sent (by rw [h.now]; exact h.sent hl)
  waits l hl hlt := by
    obtain ⟨hl', ho⟩ := h.waits l hl hlt
    obtain ⟨kl, ko⟩ := k.waits l hl' (by rw [h.now, State.noticeInterval_congr h.tables h.digit]; exact hlt)
    exact ⟨kl, ko ∘ ho⟩

theorem Reporting.sound {s t : State} (h : Reporting s t) (hs : s.tables.Sound) : t.tables.Sound := by rw [h.tables]; exact hs

theorem Reporting.refl (s : State) : Reporting s s := (Mute.refl s).reporting

theorem noticeAllowed_waits {s : State} {l : Nat} (hl : s.events.lastNotice = some l) (hlt : s.now < l + s.noticeInterval) :
    s.noticeAllowed = false := by
  unfold State.noticeAllowed; rw [hl]; simpa using hlt

/-- An event other than COMMIT_DONE raised. -/
theorem reporting_raiseEvent {k : EventKind} (hk : k ≠ .commitDone) (d : Detail) {s : State} (h : s.tables.Sound) :
    Reporting s (raiseEvent k d s) := by
  have frame := onlyReported_raiseEvent k d s
  have events := raiseEvent_events k d h
  generalize hx : s.setEvent k ((s.event k).occur d) = x at events
  have base : x.events.lastNotice = s.events.lastNotice ∧ x.events.owed = s.events.owed ∧ x.noticeSides = s.noticeSides
      ∧ x.noticeInterval = s.noticeInterval ∧ x.now = s.now := by rw [← hx]; exact ⟨rfl, rfl, rfl, rfl, rfl⟩
  obtain ⟨last, owed, sides, interval, now⟩ := base
  unfold State.withPending at events
  refine ⟨raiseEvent_tables k d h, frame.now, frame.digit, ?_, fun hn => ?_, fun hl => ?_, fun l hl hlt => ?_⟩
  · rw [raiseEvent_event _ _ _ (by decide) (by decide), if_neg hk.symm]
  · rw [sides, if_pos hn, ite_self] at events
    rw [events, owed]
  · rw [events]
    split_ifs
    · exact last.trans hl
    · exact congrArg some now
    · exact last.trans hl
    · exact last.trans hl
  · have waits := noticeAllowed_waits (s := x) (last.trans hl) (by rw [now, interval]; exact hlt)
    rw [events, waits]
    simp only [Bool.false_eq_true, if_false]
    split_ifs
    · exact ⟨last.trans hl, fun ho => owed.trans ho⟩
    · exact ⟨last.trans hl, fun _ => rfl⟩
    · exact ⟨last.trans hl, fun ho => owed.trans ho⟩

section steps

variable {s : State} (h : s.tables.Sound)
include h

theorem reporting_depart (p : PairIx) (left target : PairState) (cause : Cause) (cmd : XcvrCmd) (keep : Bool) :
    Reporting s (depart p left target cause cmd keep s) := by
  have port : Mute s (departPort p target cause cmd keep s) := (mute_giveUp p keep s).trans ⟨rfl, rfl, rfl, rfl⟩
  have raised := port.reporting.trans (reporting_raiseEvent (k := .pairDown) (by decide)
    (detail1 (byteFields p.val cause.code left.code 0)) (port.reporting.sound h))
  unfold depart
  change Reporting s (if left.running then suspendShortcut (raiseEvent .pairDown _ (departPort p target cause cmd keep s))
    else raiseEvent .pairDown _ (departPort p target cause cmd keep s))
  split
  · rw [suspendShortcut_sound (raised.sound h)]
    exact raised.trans (Mute.reporting ⟨rfl, rfl, rfl, rfl⟩)
  · exact raised

theorem reporting_drainCheck (p : PairIx) : Reporting s (drainCheck p s) := by
  unfold drainCheck drained
  split
  · exact reporting_depart h ..
  · exact .refl s

omit h in
/-- Reporting steps one after another. -/
theorem Reporting.foldl {α : Type} {f : State → α → State} (hf : ∀ s a, s.tables.Sound → Reporting s (f s a)) (l : List α) {s : State}
    (h : s.tables.Sound) : Reporting s (l.foldl f s) := by
  induction l generalizing s with
  | nil => exact .refl s
  | cons a l ih => exact (hf s a h).trans (ih ((hf s a h).sound h))

theorem reporting_groupFall : Reporting s (groupFall s) := by
  unfold groupFall raiseGroupDown
  dsimp only
  rw [fallBlocks_eq]
  have set : Mute s (s.setGroup false) := ⟨rfl, rfl, rfl, rfl⟩
  have raised := set.reporting.trans (reporting_raiseEvent (k := .groupDown) (by decide) (detail1 (byteFields
    (s.setGroup false).activeCount (s.setGroup false).minPairs (if s.tables.groupDamaged then FallReason.damaged else
      FallReason.pairs).code 0)) (by exact h))
  have empties := raised.trans (mute_cleared (raised.sound h)).reporting
  exact empties.trans (Reporting.foldl (fun s p hs => reporting_drainCheck hs p) allPairs (empties.sound h))

theorem reporting_groupRise : Reporting s (groupRise s) := by
  have set : Mute s (s.setGroup true) := ⟨rfl, rfl, rfl, rfl⟩
  exact (set.reporting.trans (reporting_raiseEvent (by decide) _ (by exact h))).trans (Mute.reporting ⟨rfl, rfl, rfl, rfl⟩)

theorem reporting_evaluateGroup : Reporting s (evaluateGroup s) := by
  obtain ⟨e, -⟩ | ⟨e, -, -⟩ | ⟨e, -, -⟩ := evaluates h <;> rw [e]
  · exact .refl s
  · exact reporting_groupFall h
  · exact reporting_groupRise h

theorem reporting_toActive (p : PairIx) : Reporting s (toActive p s) := by
  unfold toActive
  dsimp only
  generalize hx : (if (s.pair p).lastProbe.isNone = true then s.drawFree else s) = x
  have drawn : Mute s x := by rw [← hx]; split <;> exact ⟨rfl, rfl, rfl, rfl⟩
  have changed : Mute s (x.updPair p fun pp => { pp with state := .active, probeDue := s.probeDueActive p, bar := false, drain := none }) :=
    drawn.trans ⟨rfl, rfl, rfl, rfl⟩
  have sound := changed.reporting.sound h
  rw [touch_sound sound]
  exact changed.reporting.trans (reporting_raiseEvent (by decide) _ sound)

theorem reporting_makeMove (keep : Bool) (p : PairIx) (m : CommitMove) : Reporting s (makeMove keep p m s) := by
  cases m with
  | stay => exact .refl s
  | retrain => exact Mute.reporting ⟨rfl, rfl, rfl, rfl⟩
  | activate => exact reporting_toActive h p
  | probation => exact Mute.reporting ⟨rfl, rfl, rfl, rfl⟩
  | drain =>
    unfold makeMove beginDrain
    dsimp only
    rw [touchGroup_sound h]
    have begun : Mute s (s.updPair p fun pp =>
        { pp with state := .draining, bar := false
                  drain := some { fromActive := decide (pp.state = .active), deadline := s.now + s.drainLimit } }) := ⟨rfl, rfl, rfl, rfl⟩
    exact begun.reporting.trans (reporting_drainCheck (by exact h) p)
  | off c => exact reporting_depart h ..

theorem touchMoves_sound : touchMoves s = s := by
  unfold touchMoves
  dsimp only
  rw [touchAll_sound h, touchGroup_sound h, ite_self, touchGroup_sound h, ite_self, touchGroup_sound h]

theorem movePairs_sound :
    movePairs s = (allPairs.map fun p => (p, commitMove s p)).foldl (fun t m => makeMove s.upAfterCommit m.1 m.2 t) s := by
  unfold movePairs
  rw [touchMoves_sound h]

theorem reporting_movePairs : Reporting s (movePairs s) := by
  rw [movePairs_sound h]
  exact Reporting.foldl (fun t m ht => reporting_makeMove ht _ m.1 m.2) _ h

theorem guardsAfterCommit_sound : guardsAfterCommit s = allPairs.foldl guardAfterCommit s := by
  unfold guardsAfterCommit
  rw [touchGroup_sound h, ite_self]

omit h in
theorem mute_guardAfterCommit (s : State) (p : PairIx) : Mute s (guardAfterCommit s p) := by
  unfold guardAfterCommit
  split <;> exact ⟨rfl, rfl, rfl, rfl⟩

theorem mute_guardsAfterCommit : Mute s (guardsAfterCommit s) := by
  rw [guardsAfterCommit_sound h]
  exact Mute.foldl mute_guardAfterCommit allPairs s

omit h in
theorem reasWork_reassemblerAfterCommit (s : State) : ReasWork s (reassemblerAfterCommit s) := by
  unfold reassemblerAfterCommit
  split
  · exact reasWork_testsN _ s
  · exact .refl s

end steps

end Sys2Proof.Machine
end

section
/-! PROOFS of the family 01: a commit applied on sound table memory (R9, R12..R14, R19, R53, R117, R132..R134, R161). Settles O45. -/

namespace Sys2Proof.Machine

/-! ### The ports through a commit -/

/-- A port whose drain begins (R12, R13). -/
def PairPort.draining (pp : PairPort) (now limit : Nat) : PairPort :=
  { pp with state := .draining, bar := false, drain := some { fromActive := decide (pp.state = .active), deadline := now + limit } }

/-- A port after its pair's move (R9, R12, R13, R14). -/
def PairPort.moved (pp : PairPort) (m : CommitMove) (due now limit : Nat) : PairPort :=
  match m with
  | .stay => pp
  | .retrain => ({ pp with state := .down }).command .retrain
  | .activate => pp.activated due
  | .probation => pp.enterProbation now
  | .drain => if pp.isEmpty then pp.departed .off .drained .quiet else pp.draining now limit
  | .off c => pp.departed .off c .quiet

theorem makeMove_pair {s : State} (h : s.tables.Sound) (keep : Bool) (p : PairIx) (m : CommitMove) :
    ∃ due, (makeMove keep p m s).pair p = (s.pair p).moved m due s.now s.drainLimit := by
  cases m with
  | stay => exact ⟨0, rfl⟩
  | retrain => exact ⟨0, State.updPair_pair_same ..⟩
  | activate => exact ⟨s.probeDueActive p, (toActive_pair p p s).trans (if_pos rfl)⟩
  | probation => exact ⟨0, State.updPair_pair_same ..⟩
  | drain =>
    refine ⟨0, ?_⟩
    have begun : beginDrain p s = drainCheck p (s.updPair p fun pp => pp.draining s.now s.drainLimit) := by
      unfold beginDrain
      dsimp only
      rw [touchGroup_sound h]
      rfl
    change (beginDrain p s).pair p = _
    rw [begun, drainCheck_pair, State.updPair_pair_same]
    change (if p = p ∧ PairState.draining = .draining ∧ (s.pair p).isEmpty = true then _ else _) = if (s.pair p).isEmpty = true then _ else _
    simp only [true_and]
    rfl
  | off c => exact ⟨0, (depart_pair ..).trans (if_pos rfl)⟩

/-- Moves of other pairs leave a port alone. -/
theorem foldl_makeMove_others (keep : Bool) (f : PairIx → CommitMove) {ps : List PairIx} {p : PairIx} (hp : p ∉ ps) (s : State) :
    ((ps.map fun q => (q, f q)).foldl (fun t m => makeMove keep m.1 m.2 t) s).pair p = s.pair p := by
  induction ps generalizing s with
  | nil => rfl
  | cons q ps ih =>
    obtain ⟨hq, hps⟩ := not_or.mp (mt List.mem_cons.mpr hp)
    exact (ih hps _).trans (makeMove_pair_ne hq keep (f q) s)

/-- Each port after the pairs' part of a commit: its own move, judged before any was made (R12, R14). -/
theorem movePairs_pair {s : State} (h : s.tables.Sound) (p : PairIx) :
    ∃ due, (movePairs s).pair p = (s.pair p).moved (commitMove s p) due s.now s.drainLimit := by
  obtain ⟨before, after, split⟩ := List.append_of_mem (mem_allPairs p)
  have nodup : (before ++ p :: after).Nodup := split ▸ (by decide : allPairs.Nodup)
  have notBefore : p ∉ before := fun h => (List.nodup_append.mp nodup).2.2 p h p (by simp) rfl
  have notAfter : p ∉ after := (List.nodup_cons.mp (List.nodup_append.mp nodup).2.1).1
  have reports := Reporting.foldl (fun t (m : PairIx × CommitMove) ht => reporting_makeMove ht s.upAfterCommit m.1 m.2)
    (before.map fun q => (q, commitMove s q)) h
  have same := foldl_makeMove_others s.upAfterCommit (commitMove s) notBefore s
  rw [movePairs_sound h, split, List.map_append, List.foldl_append, List.map_cons, List.foldl_cons,
    foldl_makeMove_others s.upAfterCommit (commitMove s) notAfter]
  generalize (before.map fun q => (q, commitMove s q)).foldl (fun t m => makeMove s.upAfterCommit m.1 m.2 t) s = x at reports same ⊢
  obtain ⟨due, moved⟩ := makeMove_pair (reports.sound h) s.upAfterCommit p (commitMove s p)
  have limit : x.drainLimit = s.drainLimit := by
    unfold State.drainLimit; rw [State.groupWord_congr reports.tables reports.digit]
  exact ⟨due, by rw [moved, same, reports.now, limit]⟩

/-- A guard after a commit (R53). -/
def Guard.afterCommit (g : Guard) (threshold : Nat) : Guard := if g.locked ∧ g.confidence < threshold then g.unlock else g

theorem guardAfterCommit_pair (s : State) (p q : PairIx) :
    (guardAfterCommit s p).pair q
      = if q = p then { s.pair p with guard := (s.pair p).guard.afterCommit s.guardThreshold } else s.pair q := by
  unfold guardAfterCommit Guard.afterCommit
  split
  · rw [State.updPair_pair]
  · split
    · next e => rw [e]
    · rfl

theorem foldl_guardAfterCommit_pair {ps : List PairIx} (hn : ps.Nodup) (s : State) (q : PairIx) :
    (ps.foldl guardAfterCommit s).pair q
      = if q ∈ ps then { s.pair q with guard := (s.pair q).guard.afterCommit s.guardThreshold } else s.pair q := by
  induction ps generalizing s with
  | nil => simp
  | cons p ps ih =>
    obtain ⟨hp, hps⟩ := List.nodup_cons.mp hn
    have threshold : (guardAfterCommit s p).guardThreshold = s.guardThreshold := by
      have mute := mute_guardAfterCommit s p
      unfold State.guardThreshold
      rw [State.groupWord_congr mute.tables mute.digit]
    rw [List.foldl_cons, ih hps, guardAfterCommit_pair, threshold]
    by_cases e : q = p
    · subst e; simp [hp]
    · simp [e]

theorem guardsAfterCommit_pair {s : State} (h : s.tables.Sound) (q : PairIx) :
    (guardsAfterCommit s).pair q = { s.pair q with guard := (s.pair q).guard.afterCommit s.guardThreshold } := by
  rw [guardsAfterCommit_sound h, foldl_guardAfterCommit_pair (by decide), if_pos (mem_allPairs q)]

/-- A port after the evaluation of the group and the distributor's work, with the group `up` or not. -/
inductive PortSettled (pp : PairPort) (up : Bool) (pp' : PairPort) : Prop where
  | same (port : pp' = pp)
  | placed (state : pp.state = .active) (fs : List Frag) (port : pp' = { pp with txq := pp.txq ++ fs })
  | fell (down : up = false) (port : pp' = pp.fallen)

section settled

variable {pp pp' : PairPort} {up : Bool} (h : PortSettled pp up pp')
include h

theorem PortSettled.vacated (hv : pp.Vacated) : pp' = pp := by
  cases h with
  | same port => exact port
  | placed state => rw [hv.1] at state; cases state
  | fell _ port => rw [port, hv.fallen]

/-- Where the pair does not drain, all but the stores stays. -/
theorem PortSettled.stores (hd : pp.state ≠ .draining) : pp' = { pp with txq := pp'.txq, store := pp'.store, replay := pp'.replay } := by
  cases h with
  | same port => rw [port]
  | placed _ fs port => rw [port]
  | fell _ port => rw [port, PairPort.fallen_of_ne hd]; rfl

theorem PortSettled.kept (hd : pp.state = .draining) (hu : up = true) : pp' = pp := by
  cases h with
  | same port => exact port
  | placed state => rw [hd] at state; cases state
  | fell down => rw [hu] at down; cases down

theorem PortSettled.guard : pp'.guard = pp.guard := by
  cases h with
  | same port => rw [port]
  | placed _ fs port => rw [port]
  | fell _ port => rw [port]; exact PairPort.guard_of_lasting (PairPort.lasting_fallen pp)

end settled

theorem portSettled_evaluated {y t : State} (h : y.tables.Sound) (work : OnlyPlaced (reassemblerAfterCommit (evaluateGroup y)) t)
    (p : PairIx) : PortSettled (y.pair p) t.groupUp (t.pair p) := by
  have tested := reasWork_reassemblerAfterCommit (evaluateGroup y)
  have port : (reassemblerAfterCommit (evaluateGroup y)).pair p = (evaluateGroup y).pair p := State.pair_congr tested.pairs p
  obtain same | ⟨-, down, fell⟩ := evaluateGroup_pair h
  · rw [same p] at port
    by_cases ha : (y.pair p).state = .active
    · obtain ⟨fs, after⟩ := work.frame.pairs p
      exact .placed ha fs (by rw [after, port])
    · exact .same ((work.frame.idle p (by rw [port]; exact ha)).trans port)
  · have downAfter : (reassemblerAfterCommit (evaluateGroup y)).groupUp = false := tested.groupUp.trans down
    obtain ⟨w, after⟩ := work.frame.down downAfter
    refine .fell (work.frame.groupUp.trans downAfter) ?_
    rw [← fell p, ← port, after]
    rfl

/-- A move leaves a guard alone. -/
theorem PairPort.moved_guard (pp : PairPort) (m : CommitMove) (due now limit : Nat) : (pp.moved m due now limit).guard = pp.guard := by
  cases m with
  | drain =>
    unfold PairPort.moved
    dsimp only
    split <;> rfl
  | _ => rfl

/-- A port at the end of a commit, its pair's move `m` made. -/
def PortCommitted (pp : PairPort) (m : CommitMove) (threshold now limit : Nat) (up : Bool) (pp' : PairPort) : Prop :=
  ∃ due, PortSettled { pp.moved m due now limit with guard := pp.guard.afterCommit threshold } up pp'

section committed

variable {pp pp' : PairPort} {m : CommitMove} {threshold now limit : Nat} {up : Bool}

theorem PortCommitted.guard (h : PortCommitted pp m threshold now limit up pp') : pp'.guard = pp.guard.afterCommit threshold :=
  h.elim fun _ h => h.guard

/-- A pair that goes to OFF at once (R12). -/
theorem PortCommitted.off {c : Cause} (h : PortCommitted pp (.off c) threshold now limit up pp') :
    LeftService pp { pp' with guard := pp.guard } .off c .quiet := by
  obtain ⟨due, h⟩ := h
  have port := h.vacated ⟨rfl, rfl⟩
  rw [port]
  exact pp.leftService_departed .off c .quiet

/-- A drain that an empty pair ends at once (R13). -/
theorem PortCommitted.drained (h : PortCommitted pp .drain threshold now limit up pp') (he : pp.isEmpty = true) :
    LeftService pp { pp' with guard := pp.guard } .off .drained .quiet := by
  obtain ⟨due, h⟩ := h
  have moved : pp.moved .drain due now limit = pp.departed .off .drained .quiet := if_pos he
  rw [moved] at h
  have port := h.vacated ⟨rfl, rfl⟩
  rw [port]
  exact pp.leftService_departed .off .drained .quiet

/-- A drain begun, with the group UP (R12, R13). -/
theorem PortCommitted.begun (h : PortCommitted pp .drain threshold now limit up pp') (he : ¬pp.isEmpty = true) (hu : up = true) :
    pp' = { pp.draining now limit with guard := pp.guard.afterCommit threshold } := by
  obtain ⟨due, h⟩ := h
  have moved : pp.moved .drain due now limit = pp.draining now limit := if_neg he
  rw [moved] at h
  exact h.kept rfl hu

/-- A pair that a commit leaves where it is (R12). -/
theorem PortCommitted.stays (h : PortCommitted pp .stay threshold now limit up pp') (hd : pp.state ≠ .draining) :
    pp'.state = pp.state ∧ pp'.cause = pp.cause ∧ pp'.sent = pp.sent := by
  obtain ⟨due, h⟩ := h
  rw [h.stores hd]
  exact ⟨rfl, rfl, rfl⟩

/-- A pair that goes from OFF to DOWN (R12). -/
theorem PortCommitted.retrains (h : PortCommitted pp .retrain threshold now limit up pp') :
    pp'.state = .down ∧ pp'.sent = pp.sent ++ [.retrain] ∧ pp'.cause = pp.cause := by
  obtain ⟨due, h⟩ := h
  rw [h.stores (by simp [PairPort.moved, PairPort.command])]
  exact ⟨rfl, rfl, rfl⟩

/-- A pair that a commit makes ACTIVE (R9, R14). -/
theorem PortCommitted.activates (h : PortCommitted pp .activate threshold now limit up pp') :
    pp'.state = .active ∧ pp'.drain = none ∧ pp'.latency = pp.latency ∧ pp'.samples = pp.samples := by
  obtain ⟨due, h⟩ := h
  rw [h.stores (by simp [PairPort.moved, PairPort.activated])]
  exact ⟨rfl, rfl, rfl, rfl⟩

/-- A draining pair that returns to PROBATION (R14). -/
theorem PortCommitted.probation (h : PortCommitted pp .probation threshold now limit up pp') :
    pp'.state = .probation ∧ pp'.drain = none ∧ pp'.probStart = now ∧ pp'.samples = 0 := by
  obtain ⟨due, h⟩ := h
  rw [h.stores (by simp [PairPort.moved, PairPort.enterProbation])]
  exact ⟨rfl, rfl, rfl, rfl⟩

end committed

/-! ### Table memory and the event unit after COMMIT_DONE -/

/-- A commit counted, and no longer pending (R134). -/
def TableStore.counted (t : TableStore) : TableStore := { t with commitCount := satInc16 t.commitCount, commitPending := false }

theorem TableStore.counted_get (t : TableStore) (r : TRef) : t.counted.get r = t.get r := by
  rcases r with ⟨_ | _, i⟩ | ⟨_ | _, p, j⟩ | ⟨_ | _, i, j⟩ | _ <;> rfl

theorem TableStore.Sound.counted {t : TableStore} (h : t.Sound) : t.counted.Sound where
  words r := by rw [TableStore.counted_get]; exact h.words r
  group := h.group
  pairs := h.pairs
  cls := h.cls
  gate := h.gate

/-- Table memory after a commit (R133, R134). -/
def TableStore.afterCommit (t : TableStore) (m : PairIx → Option Nat) : TableStore := (t.commitStores m).counted

theorem afterCommit_spec {t : TableStore} (h : t.Sound) (m : PairIx → Option Nat) :
    (t.afterCommit m).Sound ∧ (t.afterCommit m).commitCount = satInc16 t.commitCount ∧ (t.afterCommit m).commitPending = false
      ∧ (∀ r, ¬r.IsActive → (t.afterCommit m).get r = t.get r) ∧ ∀ r, ((t.afterCommit m).get r).val = t.committed m r := by
  obtain ⟨sound, count, kept, written⟩ := commitStores_spec h m
  unfold TableStore.afterCommit
  generalize t.commitStores m = u at sound count kept written ⊢
  exact ⟨sound.counted, congrArg satInc16 count, rfl, fun r hr => (u.counted_get r).trans (kept r hr),
    fun r => by rw [u.counted_get]; exact written r⟩

theorem commitDone_eq (s : State) :
    commitDone s = raiseEvent .commitDone (detail1 (asWord s.tables.counted.commitCount.toNat)) (s.updTables TableStore.counted) := rfl

theorem State.updTables_twice (s : State) (f g : TableStore → TableStore) : (s.updTables f).updTables g = s.updTables fun t => g (f t) := rfl

/-- The state once COMMIT_DONE has been raised. -/
theorem commitDone_sound {s : State} (h : s.tables.Sound) :
    commitDone (commitCopy s) = raiseEvent .commitDone (detail1 (asWord (satInc16 s.tables.commitCount).toNat))
      (s.updTables fun t => t.afterCommit s.measured) := by
  obtain ⟨-, count, -⟩ := afterCommit_spec h s.measured
  unfold TableStore.afterCommit at count ⊢
  rw [commitCopy_sound h, commitDone_eq, State.updTables_twice, State.updTables_tables, count]

theorem State.anyPending_iff (s : State) : s.anyPending = true ↔ ∃ i, ∃ h : i < 15, (s.events.kinds[i]).isPending = true := by
  unfold State.anyPending
  rw [List.any_eq_true]
  simp only [Vector.mem_toList_iff, Vector.mem_iff_getElem]
  constructor
  · rintro ⟨_, ⟨i, hi, rfl⟩, pending⟩
    exact ⟨i, hi, pending⟩
  · rintro ⟨i, hi, pending⟩
    exact ⟨_, ⟨i, hi, rfl⟩, pending⟩

/-- An event raised leaves what is pending pending (R158). -/
theorem anyPending_raiseEvent (k : EventKind) (d : Detail) {s : State} (h : s.tables.Sound) (hp : s.anyPending = true) :
    (raiseEvent k d s).anyPending = true := by
  obtain ⟨i, hi, pending⟩ := s.anyPending_iff.mp hp
  refine (State.anyPending_iff _).mpr ⟨i, hi, ?_⟩
  simp only [(raiseEvent_sound k d h).2]
  change ((s.events.kinds.set k.index.val ((s.event k).occur d))[i]).isPending = true
  rw [Vector.getElem_set]
  split
  · next e =>
    subst e
    have record : (s.event k).isPending = true := pending
    unfold EventRec.occur
    rw [record]
    rfl
  · exact pending

/-- The last notice after an event: as before, or set now, and set only where the interval end has passed (R161). -/
theorem raiseEvent_lastNotice (k : EventKind) (d : Detail) {s : State} (h : s.tables.Sound) :
    (raiseEvent k d s).events.lastNotice = s.events.lastNotice
      ∨ (s.noticeAllowed = true ∧ (raiseEvent k d s).events.lastNotice = some s.now) := by
  have events := raiseEvent_events k d h
  have allowed : (s.setEvent k ((s.event k).occur d)).noticeAllowed = s.noticeAllowed := rfl
  unfold State.withPending at events
  rw [allowed] at events
  rw [events]
  split_ifs with _ _ ha
  · exact .inl rfl
  · exact .inr ⟨ha, rfl⟩
  · exact .inl rfl
  · exact .inl rfl

/-- The event unit's part of a commit on sound table memory (R161). -/
theorem noticesAfterCommit_events {s : State} (h : s.tables.Sound) (sides : Nat) (last : Option Nat) :
    (noticesAfterCommit sides last s).tables = s.tables
      ∧ (noticesAfterCommit sides last s).events = if s.noticeSides = 0 then { s.events with owed := false }
        else if (decide (sides = 0) && s.anyPending && decide (s.events.lastNotice = last)) = true then
          if s.noticeAllowed then { s.events with lastNotice := some s.now } else { s.events with owed := true }
        else s.events := by
  unfold noticesAfterCommit
  dsimp only
  rw [touchGroup_sound h]
  split_ifs
  · exact ⟨rfl, rfl⟩
  · exact sendNotice_sound h
  · exact ⟨rfl, rfl⟩
  · exact ⟨rfl, rfl⟩

theorem onlyReported_noticesAfterCommit (sides : Nat) (last : Option Nat) (s : State) :
    OnlyReported s (noticesAfterCommit sides last s) := by
  have read := onlyReported_touch (.group .active 0x12) s
  unfold noticesAfterCommit
  dsimp only
  split_ifs
  · exact read.trans (onlyReported_updEvents _ _)
  · exact read.trans (onlyReported_sendNotice _)
  · exact read.trans (onlyReported_updEvents _ _)
  · exact read

/-- The state of a commit before the pairs move: table memory, COMMIT_DONE and the notices. -/
def noticed (s : State) : State := noticesAfterCommit s.noticeSides s.events.lastNotice (commitDone (commitCopy s))

theorem applyCommit_eq (s : State) :
    applyCommit s = attempt (reassemblerAfterCommit (evaluateGroup (guardsAfterCommit (movePairs (noticed s))))) := rfl

/-- What the state of a commit before the pairs move is (R133, R134, R161). -/
structure Noticed (s x : State) : Prop where
  tables : x.tables = s.tables.afterCommit s.measured
  now : x.now = s.now
  digit : x.digit = s.digit
  pair : ∀ p, x.pair p = s.pair p
  commitDone : x.event .commitDone = (s.event .commitDone).occur (detail1 (asWord (satInc16 s.tables.commitCount).toNat))
  clears : x.noticeSides = 0 → x.events.owed = false
  sends : s.noticeSides = 0 → x.noticeSides ≠ 0 → s.anyPending = true →
    (s.events.lastNotice = none ∨ ∃ l, s.events.lastNotice = some l ∧ l + x.noticeInterval ≤ s.now) → x.events.lastNotice = some s.now
  owes : s.noticeSides = 0 → x.noticeSides ≠ 0 → s.anyPending = true → ∀ l, s.events.lastNotice = some l →
    s.now < l + x.noticeInterval → x.events.owed = true ∧ x.events.lastNotice = some l

theorem noticed_spec {s : State} (h : s.tables.Sound) : Noticed s (noticed s) := by
  obtain ⟨copied, -⟩ := afterCommit_spec h s.measured
  unfold noticed
  rw [commitDone_sound h]
  generalize hf : (fun t : TableStore => t.afterCommit s.measured) = f
  have written : (s.updTables f).tables = s.tables.afterCommit s.measured := by rw [State.updTables_tables, ← hf]
  have ysound : (s.updTables f).tables.Sound := by rw [written]; exact copied
  have reported := onlyReported_raiseEvent .commitDone (detail1 (asWord (satInc16 s.tables.commitCount).toNat))
    (s.updTables f)
  have tables := raiseEvent_tables .commitDone (detail1 (asWord (satInc16 s.tables.commitCount).toNat)) ysound
  have event := raiseEvent_event_sound .commitDone .commitDone (detail1 (asWord (satInc16 s.tables.commitCount).toNat)) ysound
  have last := raiseEvent_lastNotice .commitDone (detail1 (asWord (satInc16 s.tables.commitCount).toNat)) ysound
  have pending := fun hp => anyPending_raiseEvent .commitDone (detail1 (asWord (satInc16 s.tables.commitCount).toNat)) ysound hp
  generalize raiseEvent .commitDone (detail1 (asWord (satInc16 s.tables.commitCount).toNat))
    (s.updTables f) = y at reported tables event last pending ⊢
  have sound : y.tables.Sound := by rw [tables]; exact ysound
  have noted := onlyReported_noticesAfterCommit s.noticeSides s.events.lastNotice y
  obtain ⟨stays, events⟩ := noticesAfterCommit_events sound s.noticeSides s.events.lastNotice
  generalize noticesAfterCommit s.noticeSides s.events.lastNotice y = x at noted stays events ⊢
  have sides : x.noticeSides = y.noticeSides := State.noticeSides_congr stays noted.digit
  have interval : x.noticeInterval = y.noticeInterval := State.noticeInterval_congr stays noted.digit
  have before : (s.updTables f).noticeInterval = y.noticeInterval :=
    (State.noticeInterval_congr tables reported.digit).symm
  have now : y.now = s.now := reported.now
  have kinds : x.events.kinds = y.events.kinds := by rw [events]; split_ifs <;> rfl
  refine ⟨(stays.trans tables).trans written, noted.now.trans now, noted.digit.trans reported.digit, fun p => (noted.pair p).trans (reported.pair p),
    (State.event_congr kinds _).trans (event.trans (if_pos rfl)), fun hn => ?_, fun ho hn hp hl => ?_, fun ho hn hp l hl hlt => ?_⟩
  · rw [events, if_pos (sides ▸ hn)]
  · have allowed : s.events.lastNotice = y.events.lastNotice → y.noticeAllowed = true := fun e => by
      unfold State.noticeAllowed
      rw [← e]
      obtain hl | ⟨l, hl, hle⟩ := hl
      · rw [hl]
      · rw [hl, ← interval, now]; simpa using hle
    rw [events, if_neg (sides ▸ hn), ho, pending hp]
    obtain same | ⟨-, sent⟩ := last
    · have same : y.events.lastNotice = s.events.lastNotice := same
      rw [if_pos (by simp [same]), if_pos (allowed same.symm), now]
    · have sent : y.events.lastNotice = some s.now := sent
      split_ifs with hc ha
      · exact congrArg some now
      · have old : y.events.lastNotice = s.events.lastNotice := by simpa using hc
        exact absurd (allowed old.symm) ha
      · exact sent
  · have waits : (s.updTables f).noticeAllowed = false :=
      noticeAllowed_waits hl (by rw [before, ← interval]; exact hlt)
    have same : y.events.lastNotice = s.events.lastNotice := last.resolve_right fun hs => by rw [waits] at hs; cases hs.1
    have waits' : y.noticeAllowed = false := noticeAllowed_waits (same.trans hl) (by rw [now, ← interval]; exact hlt)
    rw [events, if_neg (sides ▸ hn), ho, pending hp, if_pos (by simp [same]), if_neg (by rw [waits']; decide)]
    exact ⟨rfl, same.trans hl⟩

end Sys2Proof.Machine
end

section
/-! PROOFS of the family 01: a commit applied on sound table memory, its parts put together (R9, R12..R14, R19, R53, R117,
R132..R134, R161). Settles O45. -/

namespace Sys2Proof.Machine

/-! ### The moves of a commit -/

section moves

variable {x : State} {p : PairIx} (hd : x.tables.pairDamaged[p.val] = false)
include hd

/-- The move of a pair whose new admin is ON (R9, R12, R14). -/
theorem commitMove_on (ha : x.adminOn p = true) :
    commitMove x p = match (x.pair p).state with
      | .off => .retrain
      | .draining => if x.drainReturns p then .activate else .probation
      | .probation => if x.mayActivate p then .activate else .stay
      | _ => .stay := by
  unfold commitMove
  dsimp only
  exact (if_neg (by rw [hd]; decide)).trans (if_pos ha)

/-- The move of a pair whose new admin is OFF (R12, R13). -/
theorem commitMove_off (ha : x.adminOn p = false) :
    commitMove x p = match (x.pair p).state with
      | .off => .stay
      | .down => .off .adminOff
      | .training => .off .adminOff
      | .draining => if x.drainImmediate p then .off .adminOff else .stay
      | _ => if x.drainImmediate p then .off .adminOff else .drain := by
  unfold commitMove
  dsimp only
  exact (if_neg (by rw [hd]; decide)).trans (if_neg (by rw [ha]; decide))

end moves

/-! ### The end of a commit -/

/-- What the state `t` at the end of a commit is, from the state `x` before its pairs move. -/
structure CommitEnd (x t : State) : Prop where
  reports : Reporting x t
  port : ∀ p, PortCommitted (x.pair p) (commitMove x p) t.guardThreshold x.now t.drainLimit t.groupUp (t.pair p)

theorem Reporting.groupWord {s t : State} (h : Reporting s t) (i : Fin 19) : t.groupWord i = s.groupWord i :=
  State.groupWord_congr h.tables h.digit i

theorem commitEnd {x : State} (h : x.tables.Sound) :
    CommitEnd x (finish (attempt (reassemblerAfterCommit (evaluateGroup (guardsAfterCommit (movePairs x)))))) := by
  have moved := reporting_movePairs h
  have guarded := moved.trans (mute_guardsAfterCommit (moved.sound h)).reporting
  have evaluated := guarded.trans (reporting_evaluateGroup (guarded.sound h))
  have tested := evaluated.trans ((reasWork_reassemblerAfterCommit _).mute (evaluated.sound h)).reporting
  have work := onlyPlaced_attempt_finish (tested.sound h)
  have reports := tested.trans work.mute.reporting
  refine ⟨reports, fun p => ?_⟩
  have settled := portSettled_evaluated (guarded.sound h) work p
  obtain ⟨due, port⟩ := movePairs_pair h p
  rw [guardsAfterCommit_pair (moved.sound h), port, PairPort.moved_guard] at settled
  have threshold : (movePairs x).guardThreshold = x.guardThreshold := by
    unfold State.guardThreshold; rw [moved.groupWord]
  generalize finish (attempt (reassemblerAfterCommit (evaluateGroup (guardsAfterCommit (movePairs x))))) = t at reports settled ⊢
  have threshold' : t.guardThreshold = x.guardThreshold := by unfold State.guardThreshold; rw [reports.groupWord]
  have limit : t.drainLimit = x.drainLimit := by unfold State.drainLimit; rw [reports.groupWord]
  rw [threshold] at settled
  rw [threshold', limit]
  exact ⟨due, settled⟩

/-! ### The epoch point -/

theorem epochPoint_iff {s : State} (h : s.tables.Sound) :
    s.epochPoint = true ↔ s.tables.commitPending = true ∧ s.dist.fip = none ∧ bitAt (s.tables.get .gate).val 16 = false := by
  have held : s.holdFlag = bitAt (s.tables.get .gate).val 16 := by
    unfold State.holdFlag; rw [h.gate]; rfl
  unfold State.epochPoint
  rw [held]
  simp [and_assoc]

theorem exec_commitApply (s : State) (tm : Nat) :
    exec (.commitApply tm) s = if (s.atTime tm).epochPoint = true then .next (finish (applyCommit (s.atTime tm)))
      else .next (finish (s.atTime tm)) := rfl

/-- The latency offset after a commit (R19, R133). -/
theorem committed_offset (s : State) (p : PairIx) :
    s.tables.committed s.measured (.pair .active p 1)
      = if bitAt (s.tables.get (.pair .shadow p 0)).val 16 = false ∧ (s.pair p).sampled = true
        then asWord (s.pair p).latency else (s.tables.get (.pair .shadow p 1)).val := by
  change s.tables.committedE (s.measured p) p = _
  unfold State.measured TableStore.committedE
  cases (s.pair p).sampled <;> cases bitAt (s.tables.get (.pair .shadow p 0)).val 16 <;> rfl

/-! ### A commit, part by part -/

section parts

variable {s x t : State} (hx : Noticed s x) (ht : CommitEnd x t)
include hx ht

theorem commit_tables : t.tables = s.tables.afterCommit s.measured := ht.reports.tables.trans hx.tables

/-- The words of table memory after a commit (R117, R133, R134). -/
theorem commit_words (hs : s.tables.Sound) :
    t.tables.commitPending = false ∧ t.tables.commitCount = satInc16 s.tables.commitCount
      ∧ (∀ r, ¬r.IsActive → t.tables.get r = s.tables.get r) ∧ ∀ r, (t.tables.get r).val = s.tables.committed s.measured r := by
  obtain ⟨-, count, pending, kept, written⟩ := afterCommit_spec hs s.measured
  rw [commit_tables hx ht]
  exact ⟨pending, count, kept, written⟩

omit ht in
/-- The conditions of the moves: no damage, and the new admin and drain mode. -/
theorem commit_entry (hs : s.tables.Sound) (p : PairIx) :
    x.tables.pairDamaged[p.val] = false ∧ x.adminOn p = bitAt (s.tables.get (.pair .shadow p 0)).val 0
      ∧ x.drainImmediate p = bitAt (s.tables.get (.pair .shadow p 0)).val 8 := by
  obtain ⟨sound, -, -, -, written⟩ := afterCommit_spec hs s.measured
  have entry : (x.tables.get (.pair .active p 0)).val = (s.tables.get (.pair .shadow p 0)).val := by
    rw [hx.tables, written]; rfl
  have unmarked : x.tables.pairDamaged[p.val] = false := by
    simp only [hx.tables]
    exact sound.pairs p
  unfold State.adminOn State.drainImmediate
  rw [entry]
  exact ⟨unmarked, rfl, rfl⟩

theorem commit_port (p : PairIx) :
    PortCommitted (s.pair p) (commitMove x p) t.guardThreshold s.now t.drainLimit t.groupUp (t.pair p) := by
  have port := ht.port p
  rw [hx.pair, hx.now] at port
  exact port

/-- Admin OFF (R12, R13). -/
theorem commit_adminOff (hs : s.tables.Sound) (p : PairIx) (ha : bitAt (s.tables.get (.pair .shadow p 0)).val 0 = false) :
    ((s.pair p).state = .off → (t.pair p).state = .off ∧ (t.pair p).cause = (s.pair p).cause ∧ (t.pair p).sent = (s.pair p).sent)
      ∧ ((s.pair p).state = .down ∨ (s.pair p).state = .training →
        LeftService (s.pair p) { (t.pair p) with guard := (s.pair p).guard } .off .adminOff .quiet)
      ∧ ((s.pair p).state.running = true → bitAt (s.tables.get (.pair .shadow p 0)).val 8 = true →
        LeftService (s.pair p) { (t.pair p) with guard := (s.pair p).guard } .off .adminOff .quiet)
      ∧ ((s.pair p).state = .probation ∨ (s.pair p).state = .active → bitAt (s.tables.get (.pair .shadow p 0)).val 8 = false →
        ((s.pair p).txq = [] ∧ (s.pair p).store = [] →
          LeftService (s.pair p) { (t.pair p) with guard := (s.pair p).guard } .off .drained .quiet)
        ∧ ((s.pair p).txq ≠ [] ∨ (s.pair p).store ≠ [] → t.groupUp = true →
          (t.pair p).state = .draining ∧ (t.pair p).store = (s.pair p).store ∧ (t.pair p).txq = (s.pair p).txq
            ∧ (t.pair p).drain = some { fromActive := decide ((s.pair p).state = .active), deadline := s.now + t.drainLimit })) := by
  obtain ⟨unmarked, admin, immediate⟩ := commit_entry hx hs p
  have move := commitMove_off unmarked (admin.trans ha)
  rw [hx.pair, immediate] at move
  have port := commit_port hx ht p
  have empty : (s.pair p).isEmpty = true ↔ (s.pair p).txq = [] ∧ (s.pair p).store = [] := by
    unfold PairPort.isEmpty; simp
  refine ⟨fun hst => ?_, fun hst => ?_, fun hr hi => ?_, fun hst hi => ?_⟩
  · rw [move, hst] at port
    obtain ⟨state, cause, sent⟩ := port.stays (by rw [hst]; decide)
    exact ⟨state.trans hst, cause, sent⟩
  · have goes : PortCommitted (s.pair p) (.off .adminOff) t.guardThreshold s.now t.drainLimit t.groupUp (t.pair p) := by
      obtain hst | hst := hst <;> rw [move, hst] at port <;> exact port
    exact goes.off
  · have goes : PortCommitted (s.pair p) (.off .adminOff) t.guardThreshold s.now t.drainLimit t.groupUp (t.pair p) := by
      cases hst : (s.pair p).state with
      | probation | active | draining =>
        rw [move, hst, hi] at port
        exact port
      | _ => rw [hst] at hr; cases hr
    exact goes.off
  · have drains : PortCommitted (s.pair p) .drain t.guardThreshold s.now t.drainLimit t.groupUp (t.pair p) := by
      obtain hst | hst := hst <;> rw [move, hst, hi] at port <;> exact port
    refine ⟨fun he => drains.drained (empty.mpr he), fun he hu => ?_⟩
    rw [drains.begun (fun h => by obtain ⟨hq, hh⟩ := empty.mp h; exact he.elim (· hq) (· hh)) hu]
    exact ⟨rfl, rfl, rfl, rfl⟩

/-- Admin ON (R9, R12, R14). -/
theorem commit_adminOn (hs : s.tables.Sound) (p : PairIx) (ha : bitAt (s.tables.get (.pair .shadow p 0)).val 0 = true) :
    ((s.pair p).state = .off → (t.pair p).state = .down ∧ (t.pair p).sent = (s.pair p).sent ++ [.retrain]
        ∧ (t.pair p).cause = (s.pair p).cause)
      ∧ (∀ d, (s.pair p).state = .draining → (s.pair p).drain = some d →
        (t.pair p).drain = none
        ∧ (d.fromActive = true → t.minRate ≤ (s.pair p).upRate →
            (t.pair p).state = .active ∧ (t.pair p).latency = (s.pair p).latency ∧ (t.pair p).samples = (s.pair p).samples)
        ∧ (d.fromActive = false ∨ (s.pair p).upRate < t.minRate →
            (t.pair p).state = .probation ∧ (t.pair p).probStart = s.now ∧ (t.pair p).samples = 0))
      ∧ ((s.pair p).state = .probation →
        (t.pair p).state = if (s.pair p).probStart + t.probationTime ≤ s.now ∧ 4 ≤ (s.pair p).samples
            ∧ t.minRate ≤ (s.pair p).upRate ∧ (s.pair p).bar = false then .active else .probation)
      ∧ ((s.pair p).state = .down ∨ (s.pair p).state = .training ∨ (s.pair p).state = .active →
        (t.pair p).state = (s.pair p).state) := by
  obtain ⟨unmarked, admin, -⟩ := commit_entry hx hs p
  have move := commitMove_on unmarked (admin.trans ha)
  rw [hx.pair] at move
  have port := commit_port hx ht p
  have rate : x.minRate = t.minRate := by unfold State.minRate; rw [ht.reports.groupWord]
  have time : x.probationTime = t.probationTime := by unfold State.probationTime; rw [ht.reports.groupWord]
  refine ⟨fun hst => ?_, fun d hst hd => ?_, fun hst => ?_, fun hst => ?_⟩
  · rw [move, hst] at port
    exact port.retrains
  · have returns : x.drainReturns p = (d.fromActive && decide (t.minRate ≤ (s.pair p).upRate)) := by
      unfold State.drainReturns; rw [hx.pair, hd, rate]
    rw [move, hst] at port
    change PortCommitted _ (if x.drainReturns p = true then .activate else .probation) _ _ _ _ _ at port
    rw [returns] at port
    split at port
    · next hr =>
      obtain ⟨hfrom, hrate⟩ := (Bool.and_eq_true _ _).mp hr
      have hrate := of_decide_eq_true hrate
      obtain ⟨state, drain, latency, samples⟩ := port.activates
      refine ⟨drain, fun _ _ => ⟨state, latency, samples⟩, fun hno => ?_⟩
      rw [hfrom] at hno
      exact absurd hrate (Nat.not_le.mpr (hno.resolve_left (by decide)))
    · next hr =>
      obtain ⟨state, drain, start, samples⟩ := port.probation
      exact ⟨drain, fun hfrom hrate => absurd (by rw [hfrom, decide_eq_true hrate]; rfl) hr, fun _ => ⟨state, start, samples⟩⟩
  · have may : x.mayActivate p = true ↔ (s.pair p).probStart + t.probationTime ≤ s.now ∧ 4 ≤ (s.pair p).samples
        ∧ t.minRate ≤ (s.pair p).upRate ∧ (s.pair p).bar = false := by
      unfold State.mayActivate
      rw [hx.pair, rate, time, hx.now]
      simp [hst, and_assoc]
    rw [move, hst] at port
    change PortCommitted _ (if x.mayActivate p = true then .activate else .stay) _ _ _ _ _ at port
    by_cases hm : x.mayActivate p = true
    · rw [if_pos hm] at port
      rw [if_pos (may.mp hm)]
      exact port.activates.1
    · rw [if_neg hm] at port
      rw [if_neg (mt may.mpr hm)]
      exact (port.stays (by rw [hst]; decide)).1.trans hst
  · have stays : PortCommitted (s.pair p) .stay t.guardThreshold s.now t.drainLimit t.groupUp (t.pair p) := by
      obtain hst | hst | hst := hst <;> rw [move, hst] at port <;> exact port
    refine (stays.stays ?_).1
    obtain hst | hst | hst := hst <;> rw [hst] <;> decide

/-- Notices after a commit (R161). -/
theorem commit_notices :
    (t.noticeSides = 0 → t.events.owed = false)
      ∧ (s.noticeSides = 0 → t.noticeSides ≠ 0 → s.anyPending = true →
        (s.events.lastNotice = none ∨ (∃ l, s.events.lastNotice = some l ∧ l + t.noticeInterval ≤ s.now) →
          t.events.lastNotice = some s.now)
        ∧ (∀ l, s.events.lastNotice = some l → s.now < l + t.noticeInterval →
          t.events.owed = true ∧ t.events.lastNotice = some l)) := by
  have sides : t.noticeSides = x.noticeSides := State.noticeSides_congr ht.reports.tables ht.reports.digit
  have interval : t.noticeInterval = x.noticeInterval := State.noticeInterval_congr ht.reports.tables ht.reports.digit
  rw [sides, interval]
  refine ⟨fun hn => (ht.reports.none hn).trans (hx.clears hn), fun ho hn hp => ⟨fun hl => ?_, fun l hl hlt => ?_⟩⟩
  · have sent := hx.sends ho hn hp hl
    rw [← hx.now] at sent ⊢
    exact ht.reports.sent sent
  · obtain ⟨owed, last⟩ := hx.owes ho hn hp l hl hlt
    obtain ⟨last', owed'⟩ := ht.reports.waits l last (by rw [hx.now]; exact hlt)
    exact ⟨owed' owed, last'⟩

end parts

/-- Settles O45. -/
theorem commitApplied : Obligations.CommitApplied := by
  intro s tm hs
  refine ⟨epochPoint_iff hs, fun h => passes hs ?_, fun hpend hfip hhold => ?_⟩
  · rw [exec_commitApply, if_neg]
    rw [epochPoint_iff (s := s.atTime tm) hs]
    rintro ⟨hpend, hfip, hhold⟩
    obtain h | h | h := h
    · exact absurd (hpend.symm.trans h) (by decide)
    · exact h hfip
    · exact absurd (hhold.symm.trans h) (by decide)
  · have noted := noticed_spec (s := s.atTime tm) hs
    have sound : (noticed (s.atTime tm)).tables.Sound := by
      rw [noted.tables]; exact (afterCommit_spec (t := s.tables) hs _).1
    have ends := commitEnd sound
    refine ⟨_, (exec_commitApply s tm).trans (if_pos ((epochPoint_iff (s := s.atTime tm) hs).mpr ⟨hpend, hfip, hhold⟩)), ?_⟩
    rw [applyCommit_eq]
    generalize finish (attempt (reassemblerAfterCommit (evaluateGroup (guardsAfterCommit (movePairs (noticed (s.atTime tm))))))) = t
      at ends ⊢
    obtain ⟨pending, count, kept, written⟩ := commit_words noted ends hs
    obtain ⟨clears, notices⟩ := commit_notices noted ends
    exact ⟨pending, count, fun i => written _, fun p => written _, fun p => (written _).trans (committed_offset (s.atTime tm) p),
      fun i j => written _, fun r hr => kept r (shadow_notActive hr), kept .gate fun ha => ha.2 rfl,
      ends.reports.commitDone.trans noted.commitDone, fun p ha => commit_adminOff noted ends hs p ha,
      fun p ha => commit_adminOn noted ends hs p ha, fun p => (commit_port noted ends p).guard, clears, notices⟩

end Sys2Proof.Machine
end

section
/-! PROOFS of the family 02 (the pair link protocol): the layout of a fragment's bytes, and the class of a fragment as sent (R23..R25,
R164). Settles O16 and O17. -/

namespace Sys2Proof.Machine

/-! ### Bytes and 16-bit fields -/

theorem byteOf_toNat {n : Nat} (h : n < 256) : (byteOf n).toNat = n := by
  rw [byteOf, BitVec.toNat_ofNat, Nat.mod_eq_of_lt h]

/-- Two bytes, most significant first, read back as the number they carry. -/
theorem be16_bytes16 {n : Nat} (h : n < 65536) : be16 (bytes16 n) 0 = n := by
  change (byteOf (n / 256)).toNat * 256 + (byteOf n).toNat = n
  rw [byteOf_toNat (by omega), byteOf, BitVec.toNat_ofNat]
  omega

/-- Past the end of a span stand the bytes of what follows it. -/
theorem byteNat_append_right (as bs : List Byte) (i : Nat) : byteNat (as ++ bs) (as.length + i) = byteNat bs i := by
  unfold byteNat
  rw [List.getD_append_right _ _ _ _ (Nat.le_add_right ..), Nat.add_sub_cancel_left]

theorem be16_append_right (as bs : List Byte) (i : Nat) : be16 (as ++ bs) (as.length + i) = be16 bs i := by
  unfold be16
  rw [Nat.add_assoc, byteNat_append_right, byteNat_append_right]

theorem bit_lt (b : Bool) : bit b < 2 := by cases b <;> decide

/-- A bit of a number, from the field of width 1 that it is. -/
theorem testBit_of_field {n i : Nat} {b : Bool} (h : n / 2 ^ i % 2 = bit b) : n.testBit i = b := by
  rw [Nat.testBit_eq_decide_div_mod_eq, h]
  cases b <;> rfl

/-! ### The header of a fragment -/

theorem FragKind.code_lt (k : FragKind) : k.code < 4 := by cases k <;> decide

theorem FragKind.ofCode_code (k : FragKind) : FragKind.ofCode k.code = k := by cases k <;> rfl

/-- Byte 0 of a header as R164 lays it out: kind, B, E, class, RRT, RRQ. -/
def FragFields.firstByte (f : FragFields) : Nat :=
  f.kind.code * 64 + bit f.b * 32 + bit f.e * 16 + f.cls % 4 * 4 + bit f.rrt * 2 + bit f.rrq

/-- The fields of byte 0, each at its own bits. -/
theorem FragFields.firstByte_fields (f : FragFields) :
    f.firstByte < 256 ∧ f.firstByte / 64 = f.kind.code ∧ f.firstByte / 2 ^ 5 % 2 = bit f.b ∧ f.firstByte / 2 ^ 4 % 2 = bit f.e
      ∧ f.firstByte / 4 % 4 = f.cls % 4 ∧ f.firstByte / 2 ^ 1 % 2 = bit f.rrt ∧ f.firstByte / 2 ^ 0 % 2 = bit f.rrq := by
  have kind := f.kind.code_lt
  have b := bit_lt f.b
  have e := bit_lt f.e
  have rrt := bit_lt f.rrt
  have rrq := bit_lt f.rrq
  unfold FragFields.firstByte
  omega

theorem FragFields.header_length (f : FragFields) : f.header.length = 8 := rfl

/-- A fragment's check as handed out, complemented where it is void (R24). -/
def FragFields.check (f : FragFields) (void : Bool) : BitVec 16 :=
  if void then ~~~crc16 (f.header ++ f.payload) else crc16 (f.header ++ f.payload)

theorem FragFields.bytes_eq (f : FragFields) (void : Bool) :
    f.bytes void = (f.header ++ f.payload) ++ bytes16 (f.check void).toNat := rfl

theorem FragFields.bytes_length (f : FragFields) (void : Bool) : (f.bytes void).length = f.payload.length + 10 := by
  rw [f.bytes_eq, List.length_append, List.length_append, f.header_length]
  change 8 + f.payload.length + 2 = _
  omega

/-- The bytes without the check. -/
theorem FragFields.bytes_take (f : FragFields) (void : Bool) :
    (f.bytes void).take ((f.bytes void).length - 2) = f.header ++ f.payload := by
  rw [f.bytes_eq, List.length_append]
  exact List.take_left' (Nat.add_sub_cancel ..).symm

/-- The check, read from the last two bytes. -/
theorem FragFields.bytes_check (f : FragFields) (void : Bool) :
    BitVec.ofNat 16 (be16 (f.bytes void) ((f.bytes void).length - 2)) = f.check void := by
  have last : (f.bytes void).length - 2 = (f.header ++ f.payload).length + 0 := by
    rw [f.bytes_eq, List.length_append]
    exact Nat.add_sub_cancel ..
  rw [last, f.bytes_eq, be16_append_right, be16_bytes16 (f.check void).isLt, BitVec.ofNat_toNat, BitVec.setWidth_eq]

/-- The payload stands between the header and the check. -/
theorem FragFields.parse_payload (f : FragFields) (void : Bool) : (FragFields.parse (f.bytes void)).payload = f.payload := by
  change ((f.bytes void).take ((f.bytes void).length - 2)).drop 8 = f.payload
  rw [f.bytes_take]
  exact List.drop_left' f.header_length

/-- A TXN or ACKN stands in the upper seven bits of its byte. -/
theorem txn_of_byte (x : Txn) : BitVec.ofNat 7 ((byteOf (x.toNat * 2)).toNat / 2) = x := by
  rw [byteOf_toNat (by omega), Nat.mul_div_cancel _ two_pos, BitVec.ofNat_toNat, BitVec.setWidth_eq]

/-- Settles O16: each field is read from the bytes of the header that carry it. -/
theorem fragmentRoundTrip : Obligations.FragmentRoundTrip := by
  intro f void hcls hnum hgid hlen hpay
  obtain ⟨byte, kind, b, e, cls, rrt, rrq⟩ := f.firstByte_fields
  have first : byteNat (f.bytes void) 0 = f.firstByte := byteOf_toNat byte
  have num : be16 (f.bytes void) 1 = f.num := be16_bytes16 hnum
  have len : be16 (f.bytes void) 5 = f.len % 1024 * 64 := be16_bytes16 (by omega)
  have gid : byteNat (f.bytes void) 7 = f.gid := byteOf_toNat hgid
  have txn : BitVec.ofNat 7 (byteNat (f.bytes void) 3 / 2) = f.txn := txn_of_byte f.txn
  have ackn : BitVec.ofNat 7 (byteNat (f.bytes void) 4 / 2) = f.ackn := txn_of_byte f.ackn
  have payload := f.parse_payload void
  unfold FragFields.parse at payload ⊢
  dsimp only at payload ⊢
  rw [payload, first, num, len, gid, txn, ackn, kind, FragKind.ofCode_code, testBit_of_field b, testBit_of_field e, cls,
    testBit_of_field rrt, testBit_of_field rrq, Nat.mod_eq_of_lt hcls, Nat.mul_div_cancel _ (by decide), Nat.mod_eq_of_lt (by omega)]

/-! ### The class of a fragment as sent -/

/-- The payload length does not suit the kind (R25). -/
def FragFields.BadLength (f : FragFields) : Prop :=
  (f.kind = .data ∧ (f.len = 0 ∨ 512 < f.len)) ∨ (f.kind ≠ .data ∧ f.len ≠ 0)

/-- The class of bytes whose fields are read back: the length tests, and then the check (R24, R25). -/
theorem classify_bytes {f : FragFields} {void : Bool} (hp : FragFields.parse (f.bytes void) = f) (hl : f.len = f.payload.length) :
    (f.BadLength → classify (f.bytes void) = .bad)
      ∧ (¬f.BadLength → classify (f.bytes void) = if void then if f.kind = .data then .void else .bad else .good) := by
  have long : ¬(f.bytes void).length < 10 := by rw [f.bytes_length]; omega
  have fits : f.len = (f.bytes void).length - 10 := by rw [f.bytes_length]; omega
  unfold classify
  rw [if_neg long]
  dsimp only
  rw [hp, if_neg (not_not.mpr fits), f.bytes_check, f.bytes_take]
  refine ⟨fun hb => ?_, fun hb => ?_⟩
  · obtain hd | hn := hb
    · rw [if_pos hd]
    · rw [if_neg fun hd => hn.1 hd.1, if_pos hn]
  · obtain ⟨data, other⟩ := not_or.mp hb
    rw [if_neg data, if_neg other]
    unfold FragFields.check
    cases void with
    | false => exact if_pos rfl
    | true =>
      have flipped : ~~~crc16 (f.header ++ f.payload) ≠ crc16 (f.header ++ f.payload) := by simp
      exact (if_neg flipped).trans (by simp)

/-- Settles O17. -/
theorem sentFragmentClass : Obligations.SentFragmentClass := by
  intro f hcls hnum hgid hlen hpay
  have classed : ∀ void, _ := fun void => classify_bytes (fragmentRoundTrip f void hcls hnum hgid hlen hpay) hlen
  refine ⟨fun hk h1 h512 => ?_, fun hk hout => ?_, fun hk h0 => ?_, fun hk h0 => ?_⟩
  · have fits : ¬f.BadLength := by rintro (⟨-, h | h⟩ | ⟨h, -⟩); exacts [by omega, by omega, h hk]
    exact ⟨(classed false).2 fits, ((classed true).2 fits).trans (if_pos hk)⟩
  · exact (classed false).1 (.inl ⟨hk, hout⟩)
  · have fits : ¬f.BadLength := by rintro (⟨h, -⟩ | ⟨-, h⟩); exacts [hk h, h h0]
    exact ⟨(classed false).2 fits, ((classed true).2 fits).trans (if_neg hk)⟩
  · exact (classed false).1 (.inr ⟨hk, h0⟩)

end Sys2Proof.Machine
end

section
/-! PROOFS of the family 02 (the pair link protocol): a good or void DATA fragment of the group, from the link of its pair to the receiver
and the reassembler (R25, R26, R38, R39, R42, R95, R112). Settles O29. -/

namespace Sys2Proof.Machine

/-! ### Arrivals leave the pair ports alone -/

theorem storeArrival_pairs (a : Entry) (s : State) : (storeArrival a s).1.pairs = s.pairs := by
  unfold storeArrival
  dsimp only
  split
  · exact (onlyReported_raiseEvent ..).pairs
  · have read : (if a.cls = 0 then touchGroup 0x0D s else s).pairs = s.pairs := by
      split
      · exact (reasWork_touchGroup _ s).pairs
      · rfl
    generalize (if a.cls = 0 then touchGroup 0x0D s else s) = x at read ⊢
    split
    · exact read
    · exact read

theorem arriveResync_pairs (a : Entry) (s : State) : (arriveResync a s).pairs = s.pairs := by
  unfold arriveResync
  split
  · rfl
  · dsimp only
    split
    · exact (reasWork_touchGroup _ _).pairs.trans (storeArrival_pairs a s)
    · exact storeArrival_pairs a s

theorem arriveWindow_pairs (a : Entry) (s : State) : (arriveWindow a s).pairs = s.pairs := by
  unfold arriveWindow
  dsimp only
  split
  · rfl
  · split_ifs
    · rfl
    · exact (reasWork_headProcess _).pairs.trans ((storeArrival_pairs a _).trans (reasWork_advanceN _ _ _).pairs)
    · rfl
    · exact (reasWork_headProcess _).pairs.trans (storeArrival_pairs a s)
    · exact storeArrival_pairs a s

theorem arrive_pairs (a : Entry) (s : State) : (arrive a s).pairs = s.pairs := by
  have suspended : (if a.rrt then suspendShortcut s else s).pairs = s.pairs := by
    split
    · exact (reasWork_touchGroup 0x03 s).pairs
    · rfl
  unfold arrive
  dsimp only
  split
  · exact suspended
  · exact (arriveResync_pairs a _).trans suspended
  · exact (arriveWindow_pairs a _).trans suspended

/-- The command of an arrival ends with the distributor's work on what the reassembler made of it (R95, R112). -/
theorem onlyPlaced_arrival {s : State} (hs : s.tables.Sound) (a : Entry) :
    OnlyPlaced (testShortcut (arrive a s)) (finish (testShortcut (arrive a s))) :=
  onlyPlaced_finish (((settles_arrive a s).trans (reasWork_testShortcut _).settles).isSound hs)

theorem arrival_port {s : State} (hs : s.tables.Sound) (a : Entry) (q : PairIx) :
    ∃ fs, (finish (testShortcut (arrive a s))).pair q = { s.pair q with txq := (s.pair q).txq ++ fs } := by
  have same := State.pair_congr ((reasWork_testShortcut (arrive a s)).pairs.trans (arrive_pairs a s)) q
  rw [← same]
  exact (onlyPlaced_arrival hs a).frame.pairs q

/-! ### What the link's part of a fragment leaves alone -/

/-- What the link of pair `p` leaves of the state apart from that pair's port: all but the distributor's work. -/
structure LinkFrame (p : PairIx) (s t : State) : Prop where
  tables : t.tables = s.tables
  farm : t.farm = s.farm
  groupUp : t.groupUp = s.groupUp
  queue : t.ctl.queue = s.ctl.queue
  others : ∀ q, q ≠ p → ∃ fs, t.pair q = { s.pair q with txq := (s.pair q).txq ++ fs }

theorem LinkFrame.refl (p : PairIx) (s : State) : LinkFrame p s s := ⟨rfl, rfl, rfl, rfl, fun _ _ => ⟨[], by simp⟩⟩

theorem LinkFrame.updPair {p : PairIx} {s t : State} (h : LinkFrame p s t) (g : PairPort → PairPort) :
    LinkFrame p s (t.updPair p g) :=
  { h with others := fun q hq => by rw [State.updPair_pair_ne t p q g hq]; exact h.others q hq }

theorem LinkFrame.attempt {p : PairIx} {s t : State} (h : LinkFrame p s t) (hs : s.tables.Sound) : LinkFrame p s (attempt t) := by
  have work := (onlyPlaced_attempt (s := t) (by rw [h.tables]; exact hs)).frame
  obtain ⟨rs, ctl⟩ := work.ctl
  exact
    { tables := work.tables.trans h.tables
      farm := work.farm.trans h.farm
      groupUp := work.groupUp.trans h.groupUp
      queue := by rw [ctl]; exact h.queue
      others := fun q hq => by
        obtain ⟨fs, e⟩ := h.others q hq
        obtain ⟨gs, k⟩ := work.pairs q
        exact ⟨fs ++ gs, by rw [k, e]; simp⟩ }

/-- An acknowledgement that does not end a drain removes its entries, and a placement attempt follows (R30, R82). -/
theorem applyAck_goesOn {s : State} {p : PairIx} {a : Txn} (hn : ¬(s.pair p).EndsDrain a) :
    applyAck p a s = if (s.pair p).ackCount a = 0 then s else attempt (s.updPair p fun pp => pp.acked ((s.pair p).ackCount a)) := by
  unfold applyAck
  dsimp only
  split
  · rfl
  · next hc =>
    refine if_neg fun hd => hn ?_
    rw [State.updPair_pair_same] at hd
    refine ⟨hd.1, hc, ?_⟩
    unfold PairPort.acknowledged
    rw [if_neg hc]
    exact hd.2

section link

variable {p : PairIx} {s t : State} (hs : s.tables.Sound) (h : LinkFrame p s t)
include hs h

theorem linkFrame_applyAck {a : Txn} (hn : ¬(t.pair p).EndsDrain a) : LinkFrame p s (applyAck p a t) := by
  rw [applyAck_goesOn hn]
  split
  · exact h
  · exact (h.updPair _).attempt hs

theorem linkFrame_applyRequest (a : Txn) : LinkFrame p s (applyRequest p a t) := by
  unfold applyRequest
  dsimp only
  split_ifs
  · exact (h.updPair _).attempt hs
  · exact h
  · exact h.updPair _
  · exact h

end link

theorem linkFrame_beforeKind {s : State} (hs : s.tables.Sound) {p : PairIx} (f : FragFields) (void : Bool)
    (hn : ¬((s.pair p).heard void f.ackn s.now).EndsDrain f.ackn) : LinkFrame p s (beforeKind p f void s) := by
  have acked := linkFrame_applyAck hs ((LinkFrame.refl p s).updPair fun pp => pp.heard void f.ackn s.now) (a := f.ackn)
    (by rw [State.updPair_pair_same]; exact hn)
  unfold beforeKind whileRunning
  dsimp only
  split_ifs
  · exact linkFrame_applyRequest hs acked f.ackn
  · exact acked
  · exact acked

theorem PairPort.clearMark_frame (pp : PairPort) (a : Txn) : ∃ m, pp.clearMark a = { pp with rewindMark := m } := by
  unfold PairPort.clearMark
  split
  · exact ⟨pp.rewindMark, rfl⟩
  · exact ⟨none, rfl⟩

/-- The port as the receiver finds it: heard, counted, and no other counter raised (R26). -/
theorem PairPort.linked_frame (pp : PairPort) (f : FragFields) (void : Bool) (now : Nat) :
    ∃ m st r n, pp.linked f void now = { pp.bump (if void then .void else .good) with
      lastHeard := now, rewindMark := m, store := st, replay := r, nextTxn := n } := by
  have heard : ∃ m, pp.heard void f.ackn now
      = { pp.bump (if void then .void else .good) with lastHeard := now, rewindMark := m } :=
    PairPort.clearMark_frame _ f.ackn
  have acknowledged : ∀ q : PairPort, ∃ st r, q.acknowledged f.ackn = { q with store := st, replay := r } := fun q => by
    unfold PairPort.acknowledged
    split
    · exact ⟨q.store, q.replay, rfl⟩
    · exact ⟨_, _, rfl⟩
  obtain ⟨m, heard⟩ := heard
  obtain ⟨st, r, acked⟩ := acknowledged (pp.heard void f.ackn now)
  obtain ⟨r', n, m', requested⟩ := ((pp.heard void f.ackn now).acknowledged f.ackn).requested_frame f.ackn
  unfold PairPort.linked
  split
  · exact ⟨m', st, r', n, by rw [requested, acked, heard]⟩
  · exact ⟨m, st, r, (pp.bump (if void then .void else .good)).nextTxn, by rw [acked, heard]⟩

/-! ### The receiver's three answers (R38, R39) -/

/-- The port of a pair behind whose RXN a DATA fragment came (R39). -/
def PairPort.repeated (pp : PairPort) (void : Bool) : PairPort :=
  { (if void then pp else pp.bump .duplicates) with owedAck := true }

section receiver

variable {s : State} {p : PairIx} {f : FragFields} {void : Bool}

theorem takeData_inStep (h : f.txn = (s.pair p).rxn) :
    takeData p f void s = testShortcut (arrive (arrivalOf p f void s.now) (s.updPair p fun pp => pp.accept f)) := if_pos h

theorem takeData_behind (h : 1 ≤ ((s.pair p).rxn - f.txn).toNat) (hle : ((s.pair p).rxn - f.txn).toNat ≤ 64) :
    takeData p f void s = s.updPair p fun pp => pp.repeated void := by
  have apart : f.txn ≠ (s.pair p).rxn := fun e => by rw [e] at h; simp at h
  have behind : txnBehind f.txn (s.pair p).rxn = true := by
    simp only [txnBehind, Bool.and_eq_true, decide_eq_true_eq]
    exact ⟨h, hle⟩
  exact (if_neg apart).trans (if_pos behind)

theorem takeData_ahead (h : 1 ≤ (f.txn - (s.pair p).rxn).toNat) (hle : (f.txn - (s.pair p).rxn).toNat ≤ 63) :
    takeData p f void s = s.updPair p PairPort.ask := by
  have apart : f.txn ≠ (s.pair p).rxn := fun e => by rw [e] at h; simp at h
  have around := toNat_sub_add_toNat_sub_swap apart
  have notBehind : ¬txnBehind f.txn (s.pair p).rxn = true := by
    simp only [txnBehind, Bool.and_eq_true, decide_eq_true_eq]
    omega
  exact (if_neg apart).trans (if_neg notBehind)

end receiver

theorem overlooks_accept (f : FragFields) : Overlooks fun pp => pp.accept f := fun _ _ => rfl

theorem overlooks_repeated (void : Bool) : Overlooks fun pp => pp.repeated void := fun pp fs => by cases void <;> rfl

theorem overlooks_ask : Overlooks PairPort.ask := fun pp fs => by
  unfold PairPort.ask
  dsimp only
  split <;> rfl

/-- A duplicate is counted where it is good (R39). -/
theorem PairPort.repeated_spec (pp : PairPort) (void : Bool) :
    ∃ c, pp.repeated void = { pp with owedAck := true, counters := c }
      ∧ (pp.repeated void).counter .duplicates = if void then pp.counter .duplicates else satInc32 (pp.counter .duplicates) := by
  cases void with
  | false => exact ⟨_, rfl, (pp.bump_counter .duplicates .duplicates).trans (if_pos rfl)⟩
  | true => exact ⟨_, rfl, rfl⟩

/-! ### A DATA fragment of the group -/

/-- The pair is in PROBATION or ACTIVE, or in DRAINING with a transmit queue that keeps the drain running. -/
def PairPort.Receives (pp : PairPort) : Prop := pp.state = .probation ∨ pp.state = .active ∨ (pp.state = .draining ∧ pp.txq ≠ [])

theorem PairPort.Receives.running {pp : PairPort} (h : pp.Receives) : pp.state.running = true := by
  obtain h | h | ⟨h, -⟩ := h
  · rw [h]; rfl
  · rw [h]; rfl
  · rw [h]; rfl

/-- No acknowledgement ends the drain of a pair whose transmit queue holds fragments (R13). -/
theorem PairPort.Receives.not_endsDrain {pp : PairPort} (h : pp.Receives) (void : Bool) (a : Txn) (now : Nat) :
    ¬(pp.heard void a now).EndsDrain a := by
  rintro ⟨state, -, empty⟩
  have same := (pp.sameBut_heard void a now).trans (PairPort.sameBut_acknowledged _ a)
  rw [(pp.sameBut_heard void a now).state] at state
  rw [PairPort.isEmpty, same.result, Bool.and_eq_true, List.isEmpty_iff] at empty
  obtain h | h | ⟨-, h⟩ := h
  · rw [h] at state; cases state
  · rw [h] at state; cases state
  · exact h empty.1

/-- The port and the rest of the state as the receiver finds them: `pp` is the port, but for fragments placed on it. -/
structure AtReceiver (s : State) (p : PairIx) (void : Bool) (pp : PairPort) (x : State) : Prop where
  work : PortWork s p pp x
  frame : LinkFrame p s x
  port : ∃ m st r n, pp = { (s.pair p).bump (if void then .void else .good) with
    lastHeard := s.now, rewindMark := m, store := st, replay := r, nextTxn := n }

namespace AtReceiver

variable {s x : State} {p : PairIx} {void : Bool} {pp : PairPort} (h : AtReceiver s p void pp x)
include h

theorem counter (c : PairCtr) : pp.counter c = ((s.pair p).bump (if void then .void else .good)).counter c := by
  obtain ⟨m, st, r, n, e⟩ := h.port
  exact PairPort.counter_congr (by rw [e]) c

/-- The fragment itself is counted (R26). -/
theorem counted : pp.counter (if void then .void else .good) = satInc32 ((s.pair p).counter (if void then .void else .good)) :=
  (h.counter _).trans (((s.pair p).bump_counter _ _).trans (if_pos rfl))

theorem counter_of_ne {c : PairCtr} (hv : c ≠ .void) (hg : c ≠ .good) : pp.counter c = (s.pair p).counter c := by
  refine (h.counter c).trans (((s.pair p).bump_counter _ _).trans (if_neg ?_))
  cases void
  · exact hg
  · exact hv

theorem rxn : (x.pair p).rxn = (s.pair p).rxn := by
  obtain ⟨m, st, r, n, e⟩ := h.port
  obtain ⟨fs, port⟩ := h.work.port
  rw [port, e]
  rfl

end AtReceiver

/-- A DATA fragment of the group reaches the receiver of its pair (R26, steps 1 to 5). -/
theorem exec_received_data {s : State} (hs : s.tables.Sound) (tm : Nat) {p : PairIx} (hst : (s.pair p).Receives) {bytes : List Byte}
    (hc : classify bytes ≠ .bad) (hg : (FragFields.parse bytes).gid = s.gid) (hk : (FragFields.parse bytes).kind = .data) {void : Bool}
    (hv : decide (classify bytes = .void) = void) :
    ∃ x pp, AtReceiver (s.atTime tm) p void pp x
      ∧ exec (.received tm p bytes) s = .next (finish (takeData p (FragFields.parse bytes) void x)) := by
  have goesOn := hst.not_endsDrain void (FragFields.parse bytes).ackn (max s.now tm)
  have acts : ∀ x, byKind p (FragFields.parse bytes) void x = takeData p (FragFields.parse bytes) void x := fun x => by
    unfold byKind; rw [hk]
  refine ⟨_, _, ⟨portWork_beforeKind (s := s.atTime tm) hs hst.running _ void goesOn,
    linkFrame_beforeKind (s := s.atTime tm) hs _ void goesOn, ((s.atTime tm).pair p).linked_frame ..⟩, ?_⟩
  rw [exec_received tm hst.running, receive_sound (s := s.atTime tm) hs hst.running hc, if_pos (by exact hg), hv,
    takeFragment_running (s := s.atTime tm) hs hst.running _ void goesOn, acts]

/-- Settles O29. -/
theorem receivedInStep : Obligations.ReceivedInStep := by
  rintro s tm p bytes _ hs hst rfl hc hg hk
  have sound := sound_atTime hs tm
  generalize hv : decide (classify bytes = .void) = void
  have isVoid : classify bytes = .void ↔ void = true := by rw [← hv, decide_eq_true_eq]
  simp only [isVoid]
  obtain ⟨x, pp, reached, run⟩ := exec_received_data hs tm hst hc hg hk hv
  generalize FragFields.parse bytes = f at run ⊢
  obtain ⟨m, st, r, n, port⟩ := reached.port
  have rxn : (x.pair p).rxn = (s.pair p).rxn := reached.rxn
  refine ⟨fun hin => ?_, fun h1 h64 => ?_, fun h1 h63 => ?_⟩
  · have accepted := reached.work.updPair (overlooks_accept f)
    have frame := reached.frame.updPair fun pp => pp.accept f
    obtain ⟨fs, before⟩ := accepted.port
    rw [takeData_inStep (hin.trans rxn.symm)] at run
    have placed := onlyPlaced_arrival (accepted.sound sound) (arrivalOf p f void x.now)
    obtain ⟨gs, after⟩ := arrival_port (accepted.sound sound) (arrivalOf p f void x.now) p
    rw [before] at after
    have counted : ∀ c, (pp.accept f).counter c = pp.counter c := fun c => PairPort.counter_congr rfl c
    refine ⟨_, x.updPair p fun pp => pp.accept f, run, ?_, ?_, ?_, ?_, ?_, ?_, ?_, accepted.now, accepted.reas, accepted.tables, frame.farm,
      frame.groupUp, frame.queue, ?_, ?_, fun q hq => ?_, ?_⟩
    · rw [after, port]; rfl
    · rw [after]; rfl
    · rw [after]; rfl
    · rw [after, port]; rfl
    · rw [after, port]; rfl
    · rw [after, port]; rfl
    · rw [after]
      exact (counted _).trans reached.counted
    · rw [after, before]
    · rw [before]; rfl
    · obtain ⟨gs, other⟩ := frame.others q hq
      rw [other]
      exact ⟨rfl, rfl⟩
    · have moment : x.now = max s.now tm := reached.work.now
      rw [← moment]
      exact placed
  · rw [takeData_behind (by rw [rxn]; exact h1) (by rw [rxn]; exact h64)] at run
    have changed := reached.work.updPair (overlooks_repeated void)
    have final := changed.placed (onlyPlaced_finish (changed.sound sound))
    obtain ⟨gs, after⟩ := final.port
    obtain ⟨c, result, counted⟩ := pp.repeated_spec void
    rw [reached.counter_of_ne (by decide) (by decide)] at counted
    have count : ((finish (x.updPair p fun pp => pp.repeated void)).pair p).counter .duplicates
        = (pp.repeated void).counter .duplicates := by rw [after]; rfl
    rw [result, port] at after
    refine ⟨_, run, ?_, ?_, ?_, ?_, final.reas, count.trans counted⟩
    · rw [after]
    · rw [after]; rfl
    · rw [after]; rfl
    · rw [after]; rfl
  · rw [takeData_ahead (by rw [rxn]; exact h1) (by rw [rxn]; exact h63)] at run
    have changed := reached.work.updPair overlooks_ask
    have final := changed.placed (onlyPlaced_finish (changed.sound sound))
    obtain ⟨gs, after⟩ := final.port
    obtain ⟨c, result, -, counted⟩ := pp.ask_spec
    rw [reached.counter_of_ne (by decide) (by decide)] at counted
    have asked : pp.rx = (s.pair p).rx := by rw [port]; rfl
    rw [asked] at counted
    have count : ((finish (x.updPair p PairPort.ask)).pair p).counter .retryAsk = pp.ask.counter .retryAsk := by rw [after]; rfl
    rw [result, port] at after
    refine ⟨_, run, ?_, ?_, ?_, ?_, final.reas, count.trans counted⟩
    · rw [after]; rfl
    · rw [after]; rfl
    · rw [after]
    · rw [after]; rfl

end Sys2Proof.Machine
end

section
/-! PROOFS of the family 03 (impulse noise and the burst guard): the group restart on sound table memory, block by block (R54, R71,
R93, R117, R125). Settles O57. -/

namespace Sys2Proof.Machine

/-! ### Reports with the group DOWN -/

/-- With the group DOWN a notice enters no class queue (R65). -/
theorem sendSides_queues_down {look : TRef → State → State} (b : List Byte) (n : Nat) {s : State} (hd : s.groupUp = false) :
    (sendSides look b n s).queues = s.queues := by
  have down : (if n.testBit 1 then s.updCtl fun c => c.putNotice b else s).groupUp = false
      ∧ (if n.testBit 1 then s.updCtl fun c => c.putNotice b else s).queues = s.queues := by
    split <;> exact ⟨hd, rfl⟩
  unfold sendSides admitInternalWith
  dsimp only
  rw [down.1]
  split
  · exact down.2
  · exact down.2

theorem newPendingWith_queues_down {look : TRef → State → State} (hl : ∀ r x, x.tables.Sound → look r x = x) {s : State}
    (h : s.tables.Sound) (hd : s.groupUp = false) : (newPendingWith look s).queues = s.queues := by
  have stamped : (stampNotice s).tables.Sound := h
  unfold newPendingWith sendNoticeWith touchNotice
  dsimp only
  simp only [hl _ _ h, hl _ _ stamped]
  split_ifs
  · rfl
  · exact sendSides_queues_down _ _ hd
  · rfl

/-- With the group DOWN raising an event leaves the class queues alone (R65, R161). -/
theorem raiseEvent_queues_down (k : EventKind) (d : Detail) {s : State} (h : s.tables.Sound) (hd : s.groupUp = false) :
    (raiseEvent k d s).queues = s.queues := by
  have reads : ∀ r x, x.tables.Sound → touchWith (raiseN 7) r x = x := fun r x hx => by
    unfold touchWith; rw [hx.words r]
  unfold raiseEvent raiseN
  dsimp only
  split
  · exact newPendingWith_queues_down reads (by exact h) hd
  · rfl

/-! ### One pair restarted -/

/-- A pair port after a group restart, `on` the admin of its active entry (R11, R54, R125). -/
def PairPort.restarted (pp : PairPort) (on : Bool) : PairPort :=
  { (if pp.state = .off then pp
      else pp.departed (if on then .down else .off) .groupRestart (if on then .retrain else .quiet)) with
    guard := Guard.unlearnt }

/-- A restarted port counts as no ACTIVE pair. -/
theorem PairPort.restarted_inactive (pp : PairPort) (on : Bool) : (pp.restarted on).state ≠ .active := by
  unfold PairPort.restarted
  split
  · next h => exact fun ha => absurd (h.symm.trans ha) (by decide)
  · cases on <;> exact fun ha => PairState.noConfusion ha

/-- What a pair's restart leaves of the other blocks and of the record of GROUP_DOWN. -/
structure RestartFrame (s t : State) : Prop where
  tables : t.tables = s.tables
  farm : t.farm = s.farm
  groupDown : t.event .groupDown = s.event .groupDown

theorem RestartFrame.refl (s : State) : RestartFrame s s := ⟨rfl, rfl, rfl⟩

theorem RestartFrame.trans {s t u : State} (h : RestartFrame s t) (k : RestartFrame t u) : RestartFrame s u :=
  ⟨k.tables.trans h.tables, k.farm.trans h.farm, k.groupDown.trans h.groupDown⟩

/-- A departure leaves the farm port alone. -/
theorem depart_farm (p : PairIx) (left target : PairState) (cause : Cause) (cmd : XcvrCmd) (keep : Bool) (s : State) :
    (depart p left target cause cmd keep s).farm = s.farm := by
  have given : (giveUp p keep s).farm = s.farm := by
    obtain ⟨l, -, c, rs, h⟩ := giveUp_shape p keep s
    rw [h]; rfl
  have suspended : ∀ x, (suspendShortcut x).farm = x.farm := fun x => (onlyReported_touch (.group .active 0x03) x).farm
  unfold depart
  dsimp only
  split
  · exact (suspended _).trans ((onlyReported_raiseEvent _ _ _).farm.trans given)
  · exact (onlyReported_raiseEvent _ _ _).farm.trans given

theorem restartFrame_toDown {s : State} (h : s.tables.Sound) (p : PairIx) (cause : Cause) : RestartFrame s (toDown p cause s) where
  tables := (blockFrame_toDown p cause s).sound h
  farm := by rw [toDown_eq, depart_farm, leaving_sound h]; rfl
  groupDown := by
    rw [toDown_eq, event_depart _ _ _ _ _ _ _ ⟨by decide, by decide⟩, if_neg (by decide), leaving_sound h]
    rfl

theorem restartFrame_restartOne {s : State} (h : s.tables.Sound) (p : PairIx) : RestartFrame s (restartOne s p) := by
  have unlearns : ∀ x : State, RestartFrame x (x.updPair p fun pp => { pp with guard := Guard.unlearnt }) :=
    fun _ => ⟨rfl, rfl, rfl⟩
  unfold restartOne
  dsimp only
  split
  · exact unlearns s
  · exact (restartFrame_toDown h p _).trans (unlearns _)

/-- The ports after one pair's restart. -/
theorem restartOne_pair {s : State} (h : s.tables.Sound) (p q : PairIx) :
    (restartOne s p).pair q = if q = p then (s.pair p).restarted (s.adminOn p) else s.pair q := by
  have admin : (leaving p .down s).adminOn p = s.adminOn p := by rw [leaving_sound h]; rfl
  unfold restartOne PairPort.restarted
  dsimp only
  rw [State.updPair_pair]
  by_cases hq : q = p
  · rw [if_pos hq, if_pos hq]
    split
    · rfl
    · rw [toDown_pair, if_pos rfl, admin]
  · rw [if_neg hq, if_neg hq]
    split
    · rfl
    · rw [toDown_pair, if_neg hq]

/-! ### The pairs restarted one after another -/

theorem restartFrame_foldl (ps : List PairIx) {s : State} (h : s.tables.Sound) : RestartFrame s (ps.foldl restartOne s) := by
  induction ps generalizing s with
  | nil => exact .refl s
  | cons p ps ih =>
    have one := restartFrame_restartOne h p
    exact one.trans (ih (by rw [one.tables]; exact h))

theorem foldl_restartOne_pair {ps : List PairIx} (hn : ps.Nodup) {s : State} (h : s.tables.Sound) (q : PairIx) :
    (ps.foldl restartOne s).pair q = if q ∈ ps then (s.pair q).restarted (s.adminOn q) else s.pair q := by
  induction ps generalizing s with
  | nil => simp
  | cons p ps ih =>
    obtain ⟨hp, hps⟩ := List.nodup_cons.mp hn
    have tables := (restartFrame_restartOne h p).tables
    have admin : (restartOne s p).adminOn q = s.adminOn q := by unfold State.adminOn; rw [tables]
    rw [List.foldl_cons, ih hps (by rw [tables]; exact h), admin, restartOne_pair h]
    by_cases e : q = p
    · subst e; simp [hp]
    · simp [e]

/-! ### Distributor, classifier and table memory -/

/-- A class queue flushed, counters and the restart list apart (R71). -/
theorem tallied_flushQueue (c : ClassIx) (s : State) : Tallied (s.setQueue c []) (flushQueue s c) :=
  (tallied_foldl (fun s f => tallied_queueFrameGone f s) (s.queue c) (s.setQueue c [])).trans (tallied_bumpBy _ _ _)

theorem flushQueue_queue (c d : ClassIx) (s : State) : (flushQueue s c).queue d = if d = c then [] else s.queue d := by
  obtain ⟨n, rs, h⟩ := tallied_flushQueue c s
  rw [h, ← State.setQueue_queue]
  rfl

/-- The class queues of the classes listed are empty after their flush; the farm port stays. -/
theorem foldl_flushQueue_queue (cs : List ClassIx) (s : State) :
    (∀ d, (cs.foldl flushQueue s).queue d = if d ∈ cs then [] else s.queue d) ∧ (cs.foldl flushQueue s).farm = s.farm := by
  induction cs generalizing s with
  | nil => exact ⟨fun d => by simp, rfl⟩
  | cons c cs ih =>
    have farm : (flushQueue s c).farm = s.farm := by
      obtain ⟨n, rs, h⟩ := tallied_flushQueue c s
      rw [h]; rfl
    obtain ⟨queues, kept⟩ := ih (flushQueue s c)
    refine ⟨fun d => ?_, kept.trans farm⟩
    rw [List.foldl_cons, queues, flushQueue_queue]
    by_cases e : d = c
    · subst e; simp
    · simp [e]

/-- The classifier flushed: every class queue empty, the frame being received dropped, the farm output queue kept (R71, R73). -/
theorem flushClassifier_queue (s : State) :
    (∀ c, (flushClassifier s).queue c = []) ∧ (flushClassifier s).farm.outQueue = s.farm.outQueue := by
  obtain ⟨queues, farm⟩ := foldl_flushQueue_queue [0, 1, 2, 3] s
  unfold flushClassifier
  dsimp only
  generalize ([0, 1, 2, 3] : List ClassIx).foldl flushQueue s = x at queues farm ⊢
  refine ⟨fun c => ?_, (congrArg FarmPort.outQueue farm : x.farm.outQueue = s.farm.outQueue)⟩
  have all : c ∈ ([0, 1, 2, 3] : List ClassIx) := by fin_cases c <;> decide
  exact (queues c).trans (if_pos all)

/-- The distributor cleared on sound table memory: what it discards is lost and counted, and nothing else changes (R91). -/
theorem tallied_clearDistributor {s : State} (h : s.tables.Sound) : Tallied (s.updDist Distributor.cleared) (clearDistributor s) := by
  unfold clearDistributor
  dsimp only
  rw [epochTest_sound (by exact h), ite_self]
  have list := tallied_foldl tallied_discardFrag s.dist.reroute (s.updDist Distributor.cleared)
  split
  · exact list.trans (tallied_discardFrag _ _)
  · exact list

/-- GID and W copied from the shadow (R117, R126). -/
def TableStore.restartBound (t : TableStore) : TableStore :=
  let u := t.store (.group .active 0) (t.get (.group .shadow 0)).val
  u.store (.group .active 1) (u.get (.group .shadow 1)).val

theorem TableStore.Sound.restartBound {t : TableStore} (h : t.Sound) : t.restartBound.Sound := (h.store _ _).store _ _

/-- The words after the copy of GID and W. -/
theorem TableStore.restartBound_get (t : TableStore) (r : TRef) :
    t.restartBound.get r = if r = .group .active 1 then { val := (t.get (.group .shadow 1)).val, wrong := .none }
      else if r = .group .active 0 then { val := (t.get (.group .shadow 0)).val, wrong := .none } else t.get r := by
  unfold TableStore.restartBound
  simp only [TableStore.get_store, reduceCtorEq, TRef.group.injEq, false_and, if_false]

theorem TableStore.restartBound_commitPending (t : TableStore) : t.restartBound.commitPending = t.commitPending := rfl

theorem copyRestartBound_sound {s : State} (h : s.tables.Sound) (i : Fin 19) :
    copyRestartBound i s = s.updTables fun t => t.store (.group .active i) (t.get (.group .shadow i)).val := by
  unfold copyRestartBound
  rw [touch_sound h]
  exact congrArg (fun t => s.updTables fun _ => t.1) (TableStore.copyWord_sound h _ _)

theorem sound_copyRestartBound {s : State} (h : s.tables.Sound) (i : Fin 19) : (copyRestartBound i s).tables.Sound := by
  rw [copyRestartBound_sound h, State.updTables_tables]
  exact h.store _ _

/-! ### The group restart whole -/

/-- The blocks after a group restart's flush, before the copy of GID and W. -/
def restartCleared (s : State) : State :=
  ((flushClassifier (clearDistributor ((allPairs.foldl restartOne s).setGroup false))).updDist fun d =>
    { d with nextGsn := 0 }).updReas Reassembler.toIdle

theorem mute_restartCleared {s : State} (h : s.tables.Sound) : Mute ((allPairs.foldl restartOne s).setGroup false) (restartCleared s) := by
  have sound : ((allPairs.foldl restartOne s).setGroup false).tables.Sound := by
    rw [State.setGroup_tables, (restartFrame_foldl allPairs h).tables]; exact h
  have renumbers : ∀ x : State, Mute x ((x.updDist fun d => { d with nextGsn := 0 }).updReas Reassembler.toIdle) :=
    fun _ => ⟨rfl, rfl, rfl, rfl⟩
  exact ((mute_clearDistributor sound).trans (mute_flushClassifier _)).trans (renumbers _)

/-- On sound table memory a group restart clears the blocks, copies GID and W and raises GROUP_DOWN. -/
theorem groupRestartNow_sound {s : State} (h : s.tables.Sound) :
    groupRestartNow s = raiseGroupDown .restart ((restartCleared s).updTables TableStore.restartBound) := by
  have sound : (restartCleared s).tables.Sound := by
    rw [(mute_restartCleared h).tables, State.setGroup_tables, (restartFrame_foldl allPairs h).tables]; exact h
  unfold groupRestartNow
  dsimp only
  change raiseGroupDown .restart (touchGroup 0x02 (copyRestartBound 1 (copyRestartBound 0 (restartCleared s)))) = _
  generalize restartCleared s = y at sound ⊢
  have first := sound_copyRestartBound sound 0
  rw [touchGroup_sound (sound_copyRestartBound first 1), copyRestartBound_sound first, copyRestartBound_sound sound]
  rfl

/-- The blocks after a group restart. -/
structure BlocksRestarted (s t : State) : Prop where
  pair : ∀ p, t.pair p = (s.pair p).restarted (s.adminOn p)
  groupUp : t.groupUp = false
  dist : t.dist = { nextGsn := 0, fip := none, reroute := [], wait := .none }
  queue : ∀ c, t.queue c = []
  idle : t.reas.state = .idle ∧ t.reas.window = []
  outQueue : t.farm.outQueue = s.farm.outQueue

/-- The state after the flush of a group restart. -/
structure RestartCleared (s t : State) : Prop extends BlocksRestarted s t where
  tables : t.tables = s.tables
  groupDown : t.event .groupDown = s.event .groupDown

theorem restartCleared_spec {s : State} (h : s.tables.Sound) : RestartCleared s (restartCleared s) := by
  have pairs : ∀ p, (allPairs.foldl restartOne s).pair p = (s.pair p).restarted (s.adminOn p) := fun p => by
    rw [foldl_restartOne_pair (by decide) h, if_pos (mem_allPairs p)]
  have frame := restartFrame_foldl allPairs h
  have mute := mute_restartCleared h
  unfold restartCleared at mute ⊢
  generalize allPairs.foldl restartOne s = x at pairs frame mute ⊢
  obtain ⟨ct, cp, cd, -⟩ := clearDistributor_spec (x.setGroup false)
  obtain ⟨ft, fp, fd, -⟩ := flushClassifier_spec (clearDistributor (x.setGroup false))
  obtain ⟨queues, out⟩ := flushClassifier_queue (clearDistributor (x.setGroup false))
  have cleared : (clearDistributor (x.setGroup false)).farm = x.farm := by
    obtain ⟨n, rs, e⟩ := tallied_clearDistributor (s := x.setGroup false) (by rw [State.setGroup_tables, frame.tables]; exact h)
    rw [e]; rfl
  have groupUp := ft.groupUp.trans ct.groupUp
  have farm : (flushClassifier (clearDistributor (x.setGroup false))).farm.outQueue = s.farm.outQueue := by
    rw [out, cleared, frame.farm]
  have emptied : (flushClassifier (clearDistributor (x.setGroup false))).dist = x.dist.cleared := fd.trans cd
  have ports : ∀ p, (flushClassifier (clearDistributor (x.setGroup false))).pair p = (s.pair p).restarted (s.adminOn p) :=
    fun p => (State.pair_congr (fp.trans cp) p).trans (pairs p)
  generalize flushClassifier (clearDistributor (x.setGroup false)) = y at mute groupUp farm emptied ports queues ⊢
  exact
    { tables := mute.tables.trans frame.tables
      groupDown := (State.event_congr (congrArg EventUnit.kinds mute.events) _).trans frame.groupDown
      pair := ports
      groupUp := groupUp
      dist := by rw [State.updReas_dist, State.updDist_dist, emptied]; rfl
      queue := queues
      idle := ⟨rfl, rfl⟩
      outQueue := farm }

/-- The state after a group restart on sound table memory. -/
structure Restarted (s t : State) : Prop extends BlocksRestarted s t where
  tables : t.tables = s.tables.restartBound
  groupDown : t.event .groupDown = (s.event .groupDown).occur (detail1 (byteFields 0 s.minPairs 3 0))

/-- GID and W copied and GROUP_DOWN raised after the flush (R117, R125). -/
theorem RestartCleared.restarted {s y : State} (h : s.tables.Sound) (c : RestartCleared s y) :
    Restarted s (raiseGroupDown .restart (y.updTables TableStore.restartBound)) := by
  have tables : (y.updTables TableStore.restartBound).tables = s.tables.restartBound := by rw [State.updTables_tables, c.tables]
  have sound : (y.updTables TableStore.restartBound).tables.Sound := by rw [tables]; exact h.restartBound
  have least : (y.updTables TableStore.restartBound).minPairs = s.minPairs := by
    unfold State.minPairs State.groupWord
    rw [word_sound sound, word_sound h, tables, TableStore.restartBound_get, if_neg (by decide), if_neg (by decide)]
    rfl
  have none : (y.updTables TableStore.restartBound).activeCount = 0 := by
    unfold State.activeCount
    rw [List.length_eq_zero_iff, List.filter_eq_nil_iff]
    intro p _
    rw [State.updTables_pair, c.pair]
    simpa using (s.pair p).restarted_inactive (s.adminOn p)
  unfold raiseGroupDown
  rw [none, least]
  have raised := onlyReported_raiseEvent .groupDown (detail1 (byteFields 0 s.minPairs FallReason.restart.code 0))
    (y.updTables TableStore.restartBound)
  have queues := raiseEvent_queues_down .groupDown (detail1 (byteFields 0 s.minPairs FallReason.restart.code 0)) sound c.groupUp
  exact
    { tables := (raiseEvent_tables _ _ sound).trans tables
      groupDown := by
        rw [raiseEvent_event_sound _ _ _ sound, if_pos rfl]
        exact congrArg (fun e : EventRec => e.occur _) c.groupDown
      pair := fun p => (raised.pair p).trans (c.pair p)
      groupUp := raised.groupUp.trans c.groupUp
      dist := raised.dist.trans c.dist
      queue := fun q => by
        unfold State.queue
        simp only [queues]
        exact c.queue q
      idle := by rw [raised.reas]; exact c.idle
      outQueue := by rw [raised.farm]; exact c.outQueue }

theorem groupRestartNow_spec {s : State} (h : s.tables.Sound) : Restarted s (groupRestartNow s) := by
  rw [groupRestartNow_sound h]
  exact (restartCleared_spec h).restarted h

/-- A group restart that is due is taken, and the group being DOWN nothing follows it. -/
theorem exec_groupRestartEffect {s : State} (hs : s.tables.Sound) (tm : Nat) (due : s.ctl.dueRestart = some .group) :
    ∃ t, exec (.groupRestartEffect tm) s = .next t ∧ Restarted s t := by
  generalize hx : (s.atTime tm).updCtl (fun c => { c with restarts := dropDue c.restarts }) = x
  have sound : x.tables.Sound := by rw [← hx]; exact hs
  have spec := groupRestartNow_spec sound
  have after : (groupRestartNow x).tables.Sound := by rw [spec.tables]; exact sound.restartBound
  have run : exec (.groupRestartEffect tm) s = .next (finish (groupRestartNow x)) := by rw [← hx]; exact if_pos due
  refine ⟨_, run, ?_⟩
  rw [finish_sound after, serve_down spec.groupUp]
  subst hx
  exact { spec with }

/-- Settles O57: the ports, the blocks, table memory and the event record are those of `Restarted`. -/
theorem groupRestartTaken : Obligations.GroupRestartTaken := by
  intro s tm hs due
  obtain ⟨t, run, restarted⟩ := exec_groupRestartEffect hs tm due
  obtain ⟨idle, window⟩ := restarted.idle
  refine ⟨t, run, fun p hp => ?_, fun p hp => ?_, fun p => ?_, restarted.groupUp, restarted.dist, restarted.queue, idle, window,
    restarted.outQueue, fun i hi => ?_, fun r h0 h1 => ?_, ?_, restarted.groupDown⟩
  · rw [restarted.pair]
    unfold PairPort.restarted
    rw [if_neg hp]
    exact ⟨rfl, rfl, rfl, rfl, rfl, rfl, rfl, rfl⟩
  · rw [restarted.pair]
    unfold PairPort.restarted
    rw [if_pos hp]
    exact ⟨hp, rfl, rfl⟩
  · rw [restarted.pair]
    unfold PairPort.restarted
    split <;> exact ⟨rfl, rfl, rfl, rfl⟩
  · obtain rfl | rfl : i = 0 ∨ i = 1 := by omega
    all_goals rw [restarted.tables, TableStore.restartBound_get]; rfl
  · rw [restarted.tables, TableStore.restartBound_get, if_neg h1, if_neg h0]
  · rw [restarted.tables, TableStore.restartBound_commitPending]

end Sys2Proof.Machine
end

section
/-! PROOFS of the family 03 (impulse noise and the burst guard): the distributor's work to its end, the projected delivery time with
its guard term, and the merge into the reroute list (R51, R66, R76, R79..R88). Settles O38. -/

namespace Sys2Proof.Machine

/-! ### Where no frame is to be taken and no fragment to be cut -/

/-- Nothing is left to take and nothing to cut: no class offers a frame that may be taken, and no cut is due that has a slot (R66, R76). -/
structure State.NoCut (s : State) : Prop where
  take : s.dist.fip = none → s.epochPoint = false → ∀ c, offers s c = false
  cut : s.cutDue = none ∨ s.freeSlots = 0

/-- A cut that the moves allow is due in the model's sense. -/
theorem DistCut.due {s u : State} (h : DistCut s u) :
    (s.dist.fip = none ∧ s.epochPoint = false ∧ ∃ c, offers s c = true) ∨ (s.cutDue ≠ none ∧ 0 < s.freeSlots) := by
  cases h with
  | take c idle noCommit offered _ => exact .inl ⟨idle, noCommit, c, offered⟩
  | part f q rest held placed more sound queue enough slot =>
    have long : ¬q.uncut.length ≤ f.size := by omega
    have due : s.cutDue = some { payload := q.uncut.take f.size, final := false, void := false } := by
      simp [State.cutDue, QFrame.cutDue, held, placed, more, sound, queue, long, enough]
    exact .inr ⟨by simp [due], slot⟩
  | last f q rest held placed more sound queue ended remains slot =>
    have due : s.cutDue = some { payload := q.uncut, final := true, void := false } := by
      simp [State.cutDue, QFrame.cutDue, held, placed, more, sound, queue, ended, remains]
    exact .inr ⟨by simp [due], slot⟩
  | void f tail held placed more failed slot =>
    have due : s.cutDue = some { payload := tail, final := true, void := true } := by
      simp [State.cutDue, held, placed, more, failed]
    exact .inr ⟨by simp [due], slot⟩

theorem State.NoCut.not_distCut {s : State} (h : s.NoCut) (u : State) : ¬DistCut s u := fun move => by
  obtain ⟨idle, noCommit, c, offered⟩ | ⟨due, slot⟩ := move.due
  · exact absurd offered (by simp [h.take idle noCommit c])
  · exact h.cut.elim due (by omega)

/-- The wait reason has no part in what is taken or cut. -/
theorem State.NoCut.wait {s : State} (h : s.NoCut) (w : WaitReason) : (s.updDist fun d => { d with wait := w }).NoCut :=
  ⟨h.take, h.cut⟩

theorem State.NoCut.recordHold {s : State} (h : s.NoCut) (w : WaitReason) : (recordHold w s).NoCut := by
  unfold Machine.recordHold
  dsimp only
  split
  · exact ⟨h.take, h.cut⟩
  · exact h.wait w

theorem distributing_sound {s : State} (h : s.tables.Sound) : s.distributing = s.groupUp := by
  unfold State.distributing; rw [h.group]; simp

/-- What taking a frame comes to with the group UP (R66, R76, R132). -/
theorem takeFrame_cases {s : State} (h : s.tables.Sound) (hu : s.groupUp = true) :
    (takeFrame s = s ∧ (s.dist.fip = none → s.epochPoint = false → ∀ c, offers s c = false))
      ∨ ∃ f, takeFrame s = s.updDist fun d => { d with fip := some f } := by
  unfold takeFrame
  rw [distributing_sound h, hu, touchOffers_sound h]
  split
  · dsimp only
    split
    · next hn =>
      refine .inl ⟨rfl, fun _ _ c => ?_⟩
      rw [List.find?_eq_none] at hn
      have all : c ∈ ([3, 2, 1, 0] : List ClassIx) := by fin_cases c <;> decide
      simpa using hn c all
    · rw [touchGroup_sound h]
      exact .inr ⟨_, rfl⟩
  · next hn =>
    refine .inl ⟨rfl, fun hf he => absurd ?_ hn⟩
    simp [hf, he]

/-- A cut leaves its fragment pending, so that no other is due (R76). -/
theorem noCut_makeCut (f : Fip) (c : Cut) (s : State) : (makeCut f c s).NoCut := by
  have held : (makeCut f c s).dist.fip
      = some { f with cutAny := true, finalCut := c.final, voidTail := none
                      pendingFrag := some (cutFrag f c (if c.void then none else (s.queue f.cls).head?.bind QFrame.resp)) } := by
    unfold makeCut
    dsimp only
    split <;> rfl
  refine ⟨fun hf => ?_, .inl ?_⟩
  · rw [held] at hf; cases hf
  · unfold State.cutDue; rw [held]; rfl

/-- After the next cut, made or not, nothing is left to take or to cut (R66, R76). -/
theorem noCut_cutNext {s : State} (h : s.tables.Sound) (hu : s.groupUp = true) : (cutNext s).1.NoCut := by
  have taken := onlyPlaced_takeFrame h
  have distributes : (takeFrame s).distributing = true := by
    rw [distributing_sound (taken.sound h), taken.frame.groupUp, hu]
  have take : (takeFrame s).dist.fip = none → (takeFrame s).epochPoint = false → ∀ c, offers (takeFrame s) c = false := by
    obtain ⟨e, none⟩ | ⟨f, e⟩ := takeFrame_cases h hu
    · rw [e]; exact none
    · rw [e]; exact fun hf => absurd hf (Option.some_ne_none f)
  unfold cutNext
  dsimp only
  split
  · next f c hf hc =>
    split
    · exact noCut_makeCut f c _
    · next hn => exact ⟨take, .inr (by simpa [distributes] using hn)⟩
  · next hn =>
    refine ⟨take, .inl ?_⟩
    cases hf : (takeFrame s).dist.fip with
    | none => unfold State.cutDue; rw [hf]
    | some f =>
      cases hc : (takeFrame s).cutDue with
      | none => rfl
      | some c => exact absurd hc (hn f c hf)

/-! ### Where no fragment is to be placed -/

/-- The head of the reroute list has not reached the age limit (R83). -/
def State.HeadFresh (s : State) : Prop := ∀ f rest, s.dist.reroute = f :: rest → ageOf s f ≤ s.rerouteAge

/-- A candidate that waits for a reason may be placed on no pair (R81, R87). -/
theorem HoldsFor.not_mayPlace {s : State} {n : Nat} {w : WaitReason} (h : HoldsFor s n w) (p : PairIx) : ¬MayPlace s n p := by
  rintro ⟨⟨ok, -⟩, within⟩
  obtain ⟨-, noPair⟩ | ⟨-, q, ⟨-, least⟩, beyond⟩ := h
  · exact absurd ok (by simp [noPair p])
  · have minimal : s.projected n q ≤ s.projected n p := (least p ok).elim le_of_lt fun e => e.1.le
    exact absurd (beyond.trans_le minimal) (not_lt.mpr within)

/-- A state that waits for a reason, its list's head fresh, allows no placement and no discard. -/
theorem WaitsFor.not_distPlace {s : State} {w : WaitReason} (h : WaitsFor s w) (fresh : s.HeadFresh) (u : State) : ¬DistPlace s u := by
  unfold WaitsFor at h
  intro move
  cases move with
  | discard f rest head aged => exact absurd (fresh f rest head) (not_le.mpr aged)
  | again f rest p head _ chosen =>
    rw [head] at h
    exact h.not_mayPlace p chosen
  | new f x p empty held pending span chosen =>
    have candidate : s.dist.fip.bind Fip.pendingFrag = some x := by rw [held]; exact pending
    rw [empty, candidate] at h
    exact h.elim (fun blocked => blocked.1 span) fun waits => waits.2.not_mayPlace p chosen

/-- The distributor has nothing left to do, and its wait reason says why (R80, R81). -/
structure State.AtRest (s : State) : Prop extends s.NoCut where
  waits : WaitsFor s s.dist.wait
  fresh : s.HeadFresh

/-- A hold recorded for the reason there is brings the distributor to rest. -/
theorem atRest_recordHold {s : State} {w : WaitReason} (cut : s.NoCut) (waits : WaitsFor s w) (fresh : s.HeadFresh) :
    (recordHold w s).AtRest := by
  refine { cut.recordHold w with waits := ?_, fresh := ?_ } <;> unfold Machine.recordHold <;> dsimp only <;> split
  · exact waits
  · exact waits
  · exact fresh
  · exact fresh

/-! ### One turn of an attempt -/

/-- What one turn of an attempt comes to, once the next cut is made: a placement or a discard and a further turn, or a hold. -/
inductive Turn (c : State) (next : Nat → State) : Prop where
  | goesOn (t : State) (move : DistPlace c t) (rest : ∀ n, next n = attemptN n t)
  | holds (w : WaitReason) (waits : WaitsFor c w) (fresh : c.HeadFresh) (ends : ∀ n, next n = recordHold w c)

/-- A hold for any other reason than the skew raises no counter (R81). -/
theorem recordHold_of_ne {w : WaitReason} (h : w ≠ .skew) (s : State) : recordHold w s = s.updDist fun d => { d with wait := w } := by
  unfold Machine.recordHold
  dsimp only
  rw [if_neg fun e => h e.1]

/-- A choice of a pair on sound table memory is a pair or a hold (R81, R87). -/
theorem choose_cases {s : State} (h : s.tables.Sound) (n : Nat) :
    (∃ p, choose s n = .onto p ∧ MayPlace s n p) ∨ ∃ w, choose s n = .hold w ∧ HoldsFor s n w := by
  cases hc : choose s n with
  | onto p => exact .inl ⟨p, rfl, choose_onto hc⟩
  | hold w => exact .inr ⟨w, rfl, choose_hold hc⟩
  | again => exact absurd hc (choose_sound h n)

/-- One turn of an attempt with the group UP (R76, R79..R84). -/
theorem turn_attemptN {s : State} (h : s.tables.Sound) (hu : s.groupUp = true) :
    Turn (cutNext s).1 fun n => attemptN (n + 1) s := by
  have work := onlyPlaced_cutNext h
  unfold attemptN
  dsimp only
  generalize (cutNext s).1 = c at work ⊢
  have cs : c.tables.Sound := work.sound h
  have distributes : c.distributing = true := by rw [distributing_sound cs, work.frame.groupUp, hu]
  simp only [touchGroup_sound cs, touchChoice_sound cs, distributes, Bool.not_true, Bool.false_eq_true, if_false]
  cases hr : c.dist.reroute with
  | cons f rest =>
    have tail : c.dist.reroute.tail = rest := by rw [hr]; rfl
    by_cases aged : c.rerouteAge < ageOf c f
    · refine .goesOn _ (.discard f rest hr aged) fun n => ?_
      simp only [if_pos aged, discardHead, State.updDist, tail]
    · have fresh : c.HeadFresh := fun g more head => by
        rw [hr] at head
        obtain ⟨rfl, -⟩ := List.cons.inj head
        exact not_lt.mp aged
      obtain ⟨p, hp, chosen⟩ | ⟨w, hw, waits⟩ := choose_cases cs f.wire
      · refine .goesOn _ (.again f rest p hr (not_lt.mp aged) chosen) fun n => ?_
        simp only [if_neg aged, hp, placeAgain, State.updDist, tail]
      · refine .holds w (by unfold WaitsFor; rw [hr]; exact waits) fresh fun n => ?_
        simp only [if_neg aged, hw]
  | nil =>
    have fresh : c.HeadFresh := fun g more head => by rw [hr] at head; cases head
    cases hf : c.dist.fip with
    | none =>
      have idle : c.waitsForSlot = false := by unfold State.waitsForSlot State.cutDue; rw [hf]; rfl
      refine .holds .none (by unfold WaitsFor; rw [hr, hf]; simp [idle]) fresh fun n => ?_
      exact (recordHold_of_ne (w := .none) (by decide) c).symm
    | some fp =>
      cases hp : fp.pendingFrag with
      | none =>
        refine .holds (if c.waitsForSlot then .slot else .none) (by unfold WaitsFor; rw [hr, hf]; simp [hp]) fresh fun n => ?_
        simp only [hp]
        exact (recordHold_of_ne (by split <;> decide) c).symm
      | some x =>
        have candidate : c.dist.fip.bind Fip.pendingFrag = some x := by rw [hf]; exact hp
        by_cases span : SpanFree c
        · have ok : c.spanOk = true := (spanOk_iff c).mpr span
          obtain ⟨p, hc, chosen⟩ | ⟨w, hw, waits⟩ := choose_cases cs x.wire
          · have move : DistPlace c (placeNew p x (c.updDist fun d => { d with fip := fp.afterPlacement })) :=
              DistPlace.new fp x p hr hf hp span chosen
            refine .goesOn _ move fun n => ?_
            have up : c.groupUp = true := work.frame.groupUp.trans hu
            simp only [hp, ok, hc, Bool.not_true, Bool.false_eq_true, if_false]
            rw [epochTest_sound ((OnlyPlaced.place .refl up move).sound cs)]
          · refine .holds w (by unfold WaitsFor; rw [hr, candidate]; exact .inr ⟨span, waits⟩) fresh fun n => ?_
            simp only [hp, ok, hw, Bool.not_true, Bool.false_eq_true, if_false]
        · have blocked : c.spanOk = false := by rw [← Bool.not_eq_true, spanOk_iff]; exact span
          refine .holds .span (by unfold WaitsFor; rw [hr, candidate]; exact .inl ⟨span, rfl⟩) fresh fun n => ?_
          simp only [hp, blocked, Bool.not_false, if_true]

/-! ### The turns come to an end -/

/-- The room of the transmit queues, eight fragments each (R85). -/
def State.queueRoom (s : State) : Nat := ∑ p : PairIx, (8 - (s.pair p).txq.length)

/-- How many turns an attempt can still take: every one places or discards a fragment of the reroute list or fills a transmit queue. -/
def State.turnsLeft (s : State) : Nat := s.dist.reroute.length + s.queueRoom

/-- With no more held than the slots, an attempt takes fewer turns than its bound. -/
theorem State.turnsLeft_lt {s : State} (h : s.heldSlots ≤ 256) : s.turnsLeft < 400 := by
  have room : s.queueRoom ≤ 64 := by
    have := Finset.sum_le_card_nsmul (Finset.univ : Finset PairIx) (fun p => 8 - (s.pair p).txq.length) 8 fun p _ => Nat.sub_le _ _
    simpa [State.queueRoom] using this
  unfold State.heldSlots at h
  unfold State.turnsLeft
  omega

/-- A fragment placed on an eligible pair takes room (R84, R85). -/
theorem queueRoom_place {s : State} {p : PairIx} (h : eligible s p = true) (f : Frag) :
    (s.updPair p fun pp => { pp with txq := pp.txq ++ [f] }).queueRoom < s.queueRoom := by
  have free : (s.pair p).txq.length < 8 := by
    unfold eligible at h
    simp only [Bool.and_eq_true, decide_eq_true_eq] at h
    exact h.1.2
  refine Finset.sum_lt_sum (fun q _ => ?_) ⟨p, Finset.mem_univ p, ?_⟩
  · rw [State.updPair_pair]
    split
    · next e => subst e; simp only [List.length_append]; omega
    · exact le_rfl
  · rw [State.updPair_pair_same]
    simp only [List.length_append, List.length_singleton]
    omega

/-- A placement takes a turn, if the reroute list does not grow. -/
theorem turnsLeft_place {s t : State} {p : PairIx} (h : eligible s p = true) (f : Frag)
    (pairs : t.pairs = (s.updPair p fun pp => { pp with txq := pp.txq ++ [f] }).pairs)
    (list : t.dist.reroute.length ≤ s.dist.reroute.length) : t.turnsLeft < s.turnsLeft := by
  have room : t.queueRoom < s.queueRoom := by
    have := queueRoom_place h f
    unfold State.queueRoom State.pair at this ⊢
    rwa [pairs]
  unfold State.turnsLeft
  omega

/-- A placement or a discard takes a turn (R83, R84). -/
theorem DistPlace.turnsLeft {s t : State} (h : DistPlace s t) : t.turnsLeft < s.turnsLeft := by
  cases h with
  | discard f rest head aged =>
    obtain ⟨pairs, dist, -⟩ := (tallied_fragmentGone f (s.updDist fun d => { d with reroute := rest })).same
    have list : (fragmentGone f (s.updDist fun d => { d with reroute := rest })).dist.reroute = rest := by rw [dist]; rfl
    unfold State.turnsLeft State.queueRoom State.pair
    simp only [State.bump_pairs, State.bump_dist, pairs, list, head, State.updDist_pairs, List.length_cons]
    omega
  | again f rest p head fresh chosen =>
    refine turnsLeft_place chosen.1.1 { f with rrt := true } rfl ?_
    rw [head]
    exact Nat.le_succ _
  | new f x p empty held pending span chosen =>
    exact turnsLeft_place chosen.1.1 { x with gsn := some s.dist.nextGsn, firstPlaced := some s.now } rfl le_rfl

/-- The next cut touches neither transmit queues nor the reroute list. -/
theorem turnsLeft_cutNext {s : State} (h : s.tables.Sound) (hu : s.groupUp = true) : (cutNext s).1.turnsLeft = s.turnsLeft := by
  have taken : (takeFrame s).turnsLeft = s.turnsLeft := by
    obtain ⟨e, -⟩ | ⟨f, e⟩ := takeFrame_cases h hu <;> rw [e]
    rfl
  have made : ∀ f c (x : State), (makeCut f c x).turnsLeft = x.turnsLeft := fun f c x => by
    unfold makeCut
    dsimp only
    split <;> rfl
  unfold cutNext
  dsimp only
  split
  · split
    · exact (made _ _ _).trans taken
    · exact taken
  · exact taken

/-- An attempt with turns enough comes to rest (R80, R82). -/
theorem atRest_attemptN (n : Nat) : ∀ s : State, s.tables.Sound → s.groupUp = true → s.turnsLeft < n → (attemptN n s).AtRest := by
  induction n with
  | zero => exact fun s _ _ h => absurd h (Nat.not_lt_zero _)
  | succ n ih =>
    intro s h hu enough
    have work := onlyPlaced_cutNext h
    have up : (cutNext s).1.groupUp = true := work.frame.groupUp.trans hu
    cases turn_attemptN h hu with
    | goesOn t move rest =>
      have moved := OnlyPlaced.place work up move
      have fewer := move.turnsLeft
      rw [turnsLeft_cutNext h hu] at fewer
      rw [rest n]
      exact ih t (moved.sound h) (moved.frame.groupUp.trans hu) (by omega)
    | holds w waits fresh ends =>
      rw [ends n]
      exact atRest_recordHold (noCut_cutNext h hu) waits fresh

theorem atRest_attempt {s : State} (h : s.tables.Sound) (hu : s.groupUp = true) (enough : s.turnsLeft < 400) : (attempt s).AtRest := by
  have run : attempt s = attemptN 400 s := by
    rw [attempt_sound h]
    exact if_pos hu
  rw [run]
  exact atRest_attemptN 400 s h hu enough

/-- At the end of a command nothing is left to take or to cut (R66, R76). -/
theorem noCut_finish {s : State} (h : s.tables.Sound) (hu : s.groupUp = true) (enough : s.turnsLeft < 400) : (finish s).NoCut := by
  have work := onlyPlaced_cutNext h
  have cut := noCut_cutNext h hu
  rw [finish_sound h]
  unfold serve
  rw [if_pos hu]
  dsimp only
  split
  · exact (atRest_attempt (work.sound h) (work.frame.groupUp.trans hu) (by rw [turnsLeft_cutNext h hu]; exact enough)).toNoCut
  · split
    · exact cut.wait .slot
    · exact cut

/-! ### Offers -/

theorem groupWord_sound {s : State} (h : s.tables.Sound) (i : Fin 19) : s.groupWord i = (s.tables.get (.group .active i)).val := by
  unfold State.groupWord; rw [word_sound h]; rfl

/-- A class offers its oldest frame once ended, or at once if cut-through (R66). -/
theorem offers_iff {s : State} (h : s.tables.Sound) (c : ClassIx) :
    offers s c = true ↔ ∃ q rest, s.queue c = q :: rest
      ∧ (q.ended = true ∨ bitAt (s.tables.get (.group .active (classWord c))).val 16 = true) := by
  unfold offers State.cutThrough
  rw [groupWord_sound h]
  cases s.queue c with
  | nil => simp
  | cons q rest => simp

/-! ### The projected delivery time -/

/-- A division rounded up, between its two bounds. -/
theorem ceilDiv_bounds (a : Nat) {b : Nat} (h : 0 < b) : a ≤ ceilDiv a b * b ∧ ceilDiv a b * b < a + b := by
  have euclid := Nat.div_add_mod (a + b - 1) b
  have small := Nat.mod_lt (a + b - 1) h
  unfold ceilDiv
  rw [Nat.mul_comm]
  omega

/-- What a replay has still to send: the retry store from the cursor's entry on (R86). -/
theorem PairPort.toReplay_eq {pp : PairPort} {rest : List RetryEntry}
    (h : (pp.replay = none ∧ rest = [])
      ∨ ∃ r older, pp.replay = some r ∧ pp.store = older ++ rest ∧ (∀ x ∈ older, x.txn ≠ r.cursor)
        ∧ ∀ x, rest.head? = some x → x.txn = r.cursor) : pp.toReplay = rest := by
  obtain ⟨none, rfl⟩ | ⟨r, older, replay, store, before, cursor⟩ := h
  · exact PairPort.toReplay_none fun r hr => absurd (none.symm.trans hr) (by simp)
  · cases rest with
    | nil =>
      refine PairPort.toReplay_none fun r' hr x hx => ?_
      obtain rfl := Option.some.inj (replay.symm.trans hr)
      exact before x (by simpa [store] using hx)
    | cons e newer => exact PairPort.toReplay_split replay store before (cursor e rfl)

/-- The guard term on sound table memory (R51). -/
theorem guardTerm_sound {s : State} (h : s.tables.Sound) (p : PairIx) :
    s.guardTerm p = match (s.pair p).guard.window with
      | some w => if bitAt (s.tables.get (.group .active 0x08)).val 0 then w.endMs * 1000 - s.now else 0
      | none => 0 := by
  unfold State.guardTerm State.guardEnable
  rw [groupWord_sound h]
  cases (s.pair p).guard.window <;> rfl

/-! ### The merge into the reroute list -/

theorem insertByGsn_perm (next : Gsn) (f : Frag) (l : List Frag) : (insertByGsn next f l).Perm (f :: l) := by
  induction l with
  | nil => exact .refl _
  | cons g rest ih =>
    unfold insertByGsn
    split
    · exact .refl _
    · exact (ih.cons g).trans (.swap f g rest)

/-- A list in order, the farthest behind first, stays so (R88). -/
theorem insertByGsn_sorted (next : Gsn) (f : Frag) {l : List Frag}
    (h : l.Pairwise fun x y => behindBy next y ≤ behindBy next x) :
    (insertByGsn next f l).Pairwise fun x y => behindBy next y ≤ behindBy next x := by
  induction l with
  | nil => exact List.pairwise_singleton _ _
  | cons g rest ih =>
    obtain ⟨first, sorted⟩ := List.pairwise_cons.mp h
    unfold insertByGsn
    split
    · next farther =>
      refine List.pairwise_cons.mpr ⟨fun x hx => ?_, h⟩
      rcases List.mem_cons.mp hx with rfl | hx
      · exact farther.le
      · exact (first x hx).trans farther.le
    · next nearer =>
      refine List.pairwise_cons.mpr ⟨fun x hx => ?_, ih sorted⟩
      rcases List.mem_cons.mp ((insertByGsn_perm next f rest).mem_iff.mp hx) with rfl | hx
      · exact not_lt.mp nearer
      · exact first x hx

/-- Settles O38: every move is one of `OnlyPlaced`; with the group UP an attempt comes to rest, its turns being bounded by the slots
and the room of the transmit queues. -/
theorem distributorWork : Obligations.DistributorWork := by
  intro s h
  refine ⟨onlyPlaced_attempt h, onlyPlaced_finish h, fun down => ⟨attempt_down h down, ?_⟩, fun up held => ?_, offers_iff h,
    fun size p rest rate ahead => ?_, fun f => ⟨insertByGsn_perm _ f _, insertByGsn_sorted _ f, ?_, rfl⟩⟩
  · rw [finish_sound h, serve_down down]
  · have enough := State.turnsLeft_lt held
    have rest := atRest_attempt h up enough
    exact ⟨rest.waits.not_distPlace rest.fresh, rest.not_distCut, rest.waits, (noCut_finish h up enough).not_distCut⟩
  · have bytes : (s.pair p).bytesAhead
        = ((s.pair p).txq.map fun f => f.payload.length + 10).sum + (rest.map fun e => e.frag.payload.length + 10).sum := by
      unfold PairPort.bytesAhead
      rw [PairPort.toReplay_eq ahead]
      rfl
    rw [← bytes]
    exact ⟨_, s.guardTerm p, rfl, guardTerm_sound h p, ceilDiv_bounds _ rate⟩
  · exact State.bump_counter_same (s.updDist _) .rerouted

end Sys2Proof.Machine
end

section
/-! PROOFS of the family 04 (the farm port and traffic classes), first layer: what the slots, the upstream blocks and the downstream blocks
held come to under the updates of the state (R63, R70, R74, R96). -/

namespace Sys2Proof.Machine

/-! ### Slots -/

/-- The slots that the distributor itself holds: the reroute list's and the pending fragment's (R74). -/
def Distributor.held (d : Distributor) : Nat :=
  d.reroute.length + (match d.fip with
    | some f => if f.pendingFrag.isSome then 1 else 0
    | none => 0)

theorem heldSlots_eq (s : State) : s.heldSlots = ∑ p : PairIx, (s.pair p).held + s.dist.held := by
  have parts : s.heldSlots = (allPairs.map fun p => (s.pair p).held).sum + s.dist.held := Nat.add_assoc ..
  rw [parts]
  simp only [allPairs, List.map_cons, List.map_nil, List.sum_cons, List.sum_nil, Fin.sum_univ_eight]
  omega

theorem heldSlots_updDist (s : State) (f : Distributor → Distributor) :
    (s.updDist f).heldSlots + s.dist.held = s.heldSlots + (f s.dist).held := by
  rw [heldSlots_eq, heldSlots_eq, State.updDist_dist]
  change ∑ p, (s.pair p).held + (f s.dist).held + s.dist.held = _
  omega

theorem heldSlots_updPair (s : State) (p : PairIx) (f : PairPort → PairPort) :
    (s.updPair p f).heldSlots + (s.pair p).held = s.heldSlots + (f (s.pair p)).held := by
  have ports : ∀ q, ((s.updPair p f).pair q).held = if q = p then (f (s.pair p)).held else (s.pair q).held := fun q => by
    rw [State.updPair_pair]; split <;> rfl
  have others : ∑ q ∈ Finset.univ.erase p, ((s.updPair p f).pair q).held = ∑ q ∈ Finset.univ.erase p, (s.pair q).held :=
    Finset.sum_congr rfl fun q hq => by rw [ports, if_neg (Finset.ne_of_mem_erase hq)]
  rw [heldSlots_eq, heldSlots_eq, ← Finset.add_sum_erase _ _ (Finset.mem_univ p), others,
    ← Finset.add_sum_erase _ (fun q => (s.pair q).held) (Finset.mem_univ p), ports, if_pos rfl, State.updPair_dist]
  omega

theorem Distributor.held_none {d : Distributor} (h : d.fip = none) : d.held = d.reroute.length := by
  unfold Distributor.held; rw [h]; rfl

theorem Distributor.held_some {d : Distributor} {f : Fip} (h : d.fip = some f) :
    d.held = d.reroute.length + if f.pendingFrag.isSome then 1 else 0 := by
  unfold Distributor.held; rw [h]

/-! ### Upstream blocks -/

/-- The blocks that the frames of a class queue hold together (R63). -/
def queueBlocks (q : List QFrame) : Nat := (q.map QFrame.blocks).sum

theorem queueBlocks_append (q r : List QFrame) : queueBlocks (q ++ r) = queueBlocks q + queueBlocks r := by
  simp [queueBlocks]

theorem queueBlocks_cons (f : QFrame) (q : List QFrame) : queueBlocks (f :: q) = f.blocks + queueBlocks q := rfl

/-- The blocks that all class queues hold (R63). -/
def State.upstreamBlocks (s : State) : Nat := s.classBlocks 0 + s.classBlocks 1 + s.classBlocks 2 + s.classBlocks 3

theorem classBlocks_setQueue (s : State) (c d : ClassIx) (q : List QFrame) :
    (s.setQueue c q).classBlocks d = if d = c then queueBlocks q else s.classBlocks d := by
  unfold State.classBlocks
  rw [State.setQueue_queue]
  split <;> rfl

theorem upstreamBlocks_setQueue (s : State) (c : ClassIx) (q : List QFrame) :
    (s.setQueue c q).upstreamBlocks + s.classBlocks c = s.upstreamBlocks + queueBlocks q := by
  unfold State.upstreamBlocks
  simp only [classBlocks_setQueue]
  fin_cases c <;> simp <;> omega

theorem freeQueueBlocks_eq (s : State) : s.freeQueueBlocks = 512 - s.upstreamBlocks := rfl

/-- Another byte takes no block where the last one has room, and one at most (R63). -/
theorem blocksFor_succ_le (n : Nat) : blocksFor (n + 1) ≤ blocksFor n + if n % 128 = 0 then 1 else 0 := by
  unfold blocksFor ceilDiv Config.blockBytes
  split <;> omega

/-- A new frame, nothing of it cut, holds the blocks of its bytes. -/
theorem QFrame.blocks_new (bs : List Byte) (ended : Bool) (resp : Option Nat) :
    QFrame.blocks { cut := 0, uncut := bs, ended := ended, resp := resp } = blocksFor bs.length := by
  simp [QFrame.blocks, QFrame.stored]

/-- A cut of stored bytes takes no block. -/
theorem QFrame.blocks_cut (q : QFrame) {n : Nat} (h : n ≤ q.uncut.length) :
    QFrame.blocks { q with cut := q.cut + n, uncut := q.uncut.drop n } ≤ q.blocks := by
  unfold QFrame.blocks QFrame.stored
  simp only [List.length_drop]
  rw [show q.cut + n + (q.uncut.length - n) = q.cut + q.uncut.length by omega]
  exact Nat.sub_le_sub_left (Nat.div_le_div_right (Nat.le_add_right _ _)) _

theorem QFrame.blocks_push (q : QFrame) (b : Byte) :
    QFrame.blocks { q with uncut := q.uncut ++ [b] } ≤ q.blocks + if q.stored % 128 = 0 then 1 else 0 := by
  have := blocksFor_succ_le q.stored
  unfold QFrame.blocks
  have stored : QFrame.stored { q with uncut := q.uncut ++ [b] } = q.stored + 1 := by
    simp [QFrame.stored]; omega
  rw [stored]
  change _ - q.cut / _ ≤ _
  omega

/-- Marks set on the frame still arriving change no block. -/
theorem queueBlocks_mapArriving {f : QFrame → QFrame} (h : ∀ x, (f x).blocks = x.blocks) (q : List QFrame) :
    queueBlocks (mapArriving f q) = queueBlocks q := by
  induction q with
  | nil => rfl
  | cons x q ih =>
    unfold mapArriving
    split
    · rw [queueBlocks_cons, queueBlocks_cons, ih]
    · rw [queueBlocks_cons, queueBlocks_cons, h]

theorem queueBlocks_withoutArriving (q : List QFrame) : queueBlocks (withoutArriving q) ≤ queueBlocks q :=
  List.Sublist.sum_le_sum (List.Sublist.map _ List.filter_sublist) fun _ _ => Nat.zero_le _

/-- A byte stored takes a block only where the arriving frame needs one (R63). -/
theorem queueBlocks_push (b : Byte) (q : List QFrame) :
    queueBlocks (mapArriving (fun f => { f with uncut := f.uncut ++ [b] }) q)
      ≤ queueBlocks q + if arrivingStored q % 128 = 0 then 1 else 0 := by
  induction q with
  | nil => exact Nat.zero_le _
  | cons x q ih =>
    unfold mapArriving
    split
    · next hx =>
      have stored : arrivingStored (x :: q) = arrivingStored q := by simp [arrivingStored, hx]
      rw [queueBlocks_cons, queueBlocks_cons, stored]
      omega
    · next hx =>
      have stored : arrivingStored (x :: q) = x.stored := by simp [arrivingStored, hx]
      have := x.blocks_push b
      rw [queueBlocks_cons, queueBlocks_cons, stored]
      omega

/-! ### Downstream blocks -/

/-- The blocks that the window's entries hold (R96). -/
def windowBlocks (w : List Entry) : Nat := (w.map Entry.blocks).sum

theorem windowBlocks_filter (k : Entry → Bool) (w : List Entry) : windowBlocks (w.filter k) ≤ windowBlocks w :=
  List.Sublist.sum_le_sum (List.Sublist.map _ List.filter_sublist) fun _ _ => Nat.zero_le _

/-- The blocks of the window and of the farm output queue together (R96). -/
def State.downstreamBlocks (s : State) : Nat := windowBlocks s.reas.window + (s.farm.outQueue.map OutFrame.blocks).sum

theorem freeDownBlocks_eq (s : State) : s.freeDownBlocks = 1024 - s.downstreamBlocks := rfl

/-! ### Runs of the window -/

/-- An entry found under a GSN carries it and stands in the window. -/
theorem entry_spec {r : Reassembler} {g : Gsn} {e : Entry} (h : r.entry g = some e) : e ∈ r.window ∧ e.gsn = g :=
  ⟨List.mem_of_find?_eq_some h, by simpa using List.find?_some h⟩

/-- No run goes once around the sequence: the first entry alone has B (R105). -/
theorem Reassembler.IsRun.length_le {r : Reassembler} {h : Gsn} {es : List Entry} (run : r.IsRun h es) : es.length ≤ 16384 := by
  by_contra hlen
  have around := run.entries 16384 (by omega)
  have first := run.entries 0 (by omega)
  rw [show h + BitVec.ofNat 14 16384 = h + BitVec.ofNat 14 0 from rfl, first] at around
  have same : es[0] = es[16384] := Option.some.inj around
  have hb := run.first (by omega)
  rw [same, run.later 16384 (by omega) (by omega)] at hb
  cases hb

/-- A run holds each of its entries once. -/
theorem Reassembler.IsRun.nodup {r : Reassembler} {h : Gsn} {es : List Entry} (run : r.IsRun h es) : es.Nodup := by
  rw [List.nodup_iff_injective_getElem]
  rintro ⟨i, hi⟩ ⟨j, hj⟩ (same : es[i] = es[j])
  have := run.length_le
  have gi := (entry_spec (run.entries i hi)).2
  have gj := (entry_spec (run.entries j hj)).2
  rw [same, gj] at gi
  have index : BitVec.ofNat 14 j = BitVec.ofNat 14 i := by simpa using gi
  have value := congrArg BitVec.toNat index
  simp only [BitVec.toNat_ofNat] at value
  exact Fin.ext (by change i = j; omega)

/-- A run that is scanned stays one with the next entry, which has no B (R105). -/
theorem Reassembler.IsRun.snoc {r : Reassembler} {h : Gsn} {es : List Entry} {e : Entry} (run : r.IsRun h es)
    (open_ : ∀ x ∈ es, x.e = false) (entry : r.entry (h + BitVec.ofNat 14 es.length) = some e) (hb : e.b = false) :
    r.IsRun h (es ++ [e]) where
  nonempty := by simp
  entries i hi := by
    rw [List.getElem_append]
    split
    · exact run.entries i ‹_›
    · obtain rfl : i = es.length := by simp at hi; omega
      simpa using entry
  first hi := by
    have := List.length_pos_iff.mpr run.nonempty
    rw [List.getElem_append_left this]
    exact run.first this
  later i hi h0 := by
    rw [List.getElem_append]
    split
    · exact run.later i ‹_› h0
    · simpa using hb
  inner i hi hlt := by
    rw [List.length_append, List.length_singleton] at hlt
    rw [List.getElem_append_left (by omega)]
    exact open_ _ (List.getElem_mem _)

/-- The head entry alone is a run if it has B. -/
theorem isRun_singleton {r : Reassembler} {h : Gsn} {e : Entry} (entry : r.entry h = some e) (hb : e.b = true) : r.IsRun h [e] where
  nonempty := by simp
  entries i hi := by
    obtain rfl : i = 0 := by simpa using hi
    simpa using entry
  first _ := hb
  later i hi h0 := by simp at hi; omega
  inner i hi hlt := by simp at hlt

/-- A complete run scanned on from a run without E is a run (R105). -/
theorem isRun_scan {r : Reassembler} {h : Gsn} (n : Nat) : ∀ {acc es : List Entry}, r.IsRun h acc → (∀ x ∈ acc, x.e = false) →
    r.scan n (h + BitVec.ofNat 14 acc.length) acc = .complete es → r.IsRun h es := by
  induction n with
  | zero => exact fun _ _ hs => by cases hs
  | succ n ih =>
    intro acc es run open_ hs
    unfold Reassembler.scan at hs
    split at hs
    · cases hs
    · next e he =>
      have filled : acc.isEmpty = false := by simpa using run.nonempty
      rw [filled] at hs
      split at hs
      · cases hs
      · next hb =>
        have next := run.snoc open_ he (by simpa using hb)
        split at hs
        · cases hs; exact next
        · next hee =>
          refine ih next (fun x hx => ?_) (by simpa [BitVec.add_assoc, BitVec.ofNat_add] using hs)
          obtain hx | hx := List.mem_append.mp hx
          · exact open_ x hx
          · rw [List.mem_singleton.mp hx]; simpa using hee

/-- A complete run at the head whose entry there has B is a run (R105). -/
theorem isRun_complete {r : Reassembler} {h : Gsn} {e : Entry} {es : List Entry} (entry : r.entry h = some e) (hb : e.b = true)
    (hc : r.runFrom h = .complete es) : r.IsRun h es := by
  unfold Reassembler.runFrom Reassembler.scan at hc
  simp only [entry, List.isEmpty_nil, Bool.not_true, Bool.and_false, Bool.false_eq_true, if_false, List.nil_append] at hc
  split at hc
  · cases hc; exact isRun_singleton entry hb
  · next he =>
    exact isRun_scan _ (isRun_singleton entry hb) (fun x hx => by rw [List.mem_singleton.mp hx]; simpa using he) hc

/-- A run taken out of the window frees at least the blocks of its entries (R96, R108). -/
theorem windowBlocks_take {r : Reassembler} {h : Gsn} {es : List Entry} (run : r.IsRun h es) :
    windowBlocks (r.take h es).window + windowBlocks es ≤ windowBlocks r.window := by
  have split := ((List.filter_append_perm (fun e : Entry => (es.map Entry.gsn).contains e.gsn) r.window).map Entry.blocks).sum_eq
  rw [List.map_append, List.sum_append] at split
  have taken : es.Subperm (r.window.filter fun e => (es.map Entry.gsn).contains e.gsn) := by
    refine run.nodup.subperm fun x hx => ?_
    obtain ⟨i, hi, rfl⟩ := List.mem_iff_getElem.mp hx
    refine List.mem_filter.mpr ⟨(entry_spec (run.entries i hi)).1, ?_⟩
    exact List.elem_eq_true_of_mem (List.mem_map_of_mem hx)
  obtain ⟨l, perm, sub⟩ := taken
  have least : windowBlocks es ≤ windowBlocks (r.window.filter fun e => (es.map Entry.gsn).contains e.gsn) := by
    rw [show windowBlocks es = windowBlocks l from ((perm.map Entry.blocks).sum_eq).symm]
    exact List.Sublist.sum_le_sum (sub.map _) fun _ _ => Nat.zero_le _
  change windowBlocks (r.window.filter fun e => !(es.map Entry.gsn).contains e.gsn) + _ ≤ _
  unfold windowBlocks at least ⊢
  omega

end Sys2Proof.Machine
end

section
/-! PROOFS of the family 04, second layer: the shared work of the blocks keeps what is held within the part's memories (R63, R74, R96). A
lemma `within_x` says of the operation `x` that a state within memory stays so. -/

namespace Sys2Proof.Machine

variable {s t : State}

/-! ### Updates of the state -/

/-- Less held is within memory too. -/
theorem within_of_le (h : s.WithinMemory) (slots : t.heldSlots ≤ s.heldSlots) (up : t.upstreamBlocks ≤ s.upstreamBlocks)
    (down : t.downstreamBlocks ≤ s.downstreamBlocks) : t.WithinMemory :=
  ⟨slots.trans h.slots, up.trans h.upstream, down.trans h.downstream⟩

/-- What is held depends on the pairs, the distributor, the class queues, the window and the farm output queue alone. -/
theorem within_of_same (h : s.WithinMemory) (hp : t.pairs = s.pairs) (hd : t.dist = s.dist) (hq : t.queues = s.queues)
    (hw : t.reas.window = s.reas.window) (ho : t.farm.outQueue = s.farm.outQueue) : t.WithinMemory := by
  refine within_of_le h (le_of_eq ?_) (le_of_eq ?_) (le_of_eq ?_)
  · rw [heldSlots_eq, heldSlots_eq, hd]
    simp only [State.pair_congr hp]
  · unfold State.upstreamBlocks State.classBlocks State.queue
    rw [hq]
  · unfold State.downstreamBlocks
    rw [hw, ho]

theorem within_atTime (h : s.WithinMemory) (n : Nat) : (s.atTime n).WithinMemory := within_of_same h rfl rfl rfl rfl rfl
theorem within_bump (h : s.WithinMemory) (c : GroupCtr) : (s.bump c).WithinMemory := within_of_same h rfl rfl rfl rfl rfl
theorem within_drawFree (h : s.WithinMemory) : s.drawFree.WithinMemory := within_of_same h rfl rfl rfl rfl rfl
theorem within_setGroup (h : s.WithinMemory) (up : Bool) : (s.setGroup up).WithinMemory := within_of_same h rfl rfl rfl rfl rfl

theorem within_updTables (h : s.WithinMemory) (f : TableStore → TableStore) : (s.updTables f).WithinMemory :=
  within_of_same h rfl rfl rfl rfl rfl

theorem within_updEvents (h : s.WithinMemory) (f : EventUnit → EventUnit) : (s.updEvents f).WithinMemory :=
  within_of_same h rfl rfl rfl rfl rfl

theorem within_updCtl (h : s.WithinMemory) (f : ControlEngine → ControlEngine) : (s.updCtl f).WithinMemory :=
  within_of_same h rfl rfl rfl rfl rfl

/-- The farm port changed but for its output queue. -/
theorem within_updFarm (h : s.WithinMemory) {f : FarmPort → FarmPort} (ho : (f s.farm).outQueue = s.farm.outQueue) :
    (s.updFarm f).WithinMemory := within_of_same h rfl rfl rfl rfl ho

/-- The reassembler changed to hold no more. -/
theorem within_updReas (h : s.WithinMemory) {f : Reassembler → Reassembler}
    (hw : windowBlocks (f s.reas).window ≤ windowBlocks s.reas.window) : (s.updReas f).WithinMemory :=
  within_of_le h le_rfl le_rfl (Nat.add_le_add_right hw _)

/-- The distributor changed to hold no more. -/
theorem within_updDist (h : s.WithinMemory) {f : Distributor → Distributor} (hd : (f s.dist).held ≤ s.dist.held) :
    (s.updDist f).WithinMemory :=
  within_of_le h (by have := heldSlots_updDist s f; omega) le_rfl le_rfl

/-- A pair port changed to hold no more. -/
theorem within_updPair (h : s.WithinMemory) {p : PairIx} {f : PairPort → PairPort} (hh : (f (s.pair p)).held ≤ (s.pair p).held) :
    (s.updPair p f).WithinMemory :=
  within_of_le h (by have := heldSlots_updPair s p f; omega) le_rfl le_rfl

/-- A class queue changed to hold at most the free blocks beside its own (R63). -/
theorem within_setQueue (h : s.WithinMemory) {c : ClassIx} {q : List QFrame} (hq : queueBlocks q ≤ s.classBlocks c + s.freeQueueBlocks) :
    (s.setQueue c q).WithinMemory where
  slots := h.slots
  upstream := by
    have := upstreamBlocks_setQueue s c q
    have := freeQueueBlocks_eq s
    have : s.upstreamBlocks ≤ 512 := h.upstream
    change (s.setQueue c q).upstreamBlocks ≤ 512
    omega
  downstream := h.downstream

/-- A class queue changed to hold no more. -/
theorem within_setQueue_le (h : s.WithinMemory) {c : ClassIx} {q : List QFrame} (hq : queueBlocks q ≤ queueBlocks (s.queue c)) :
    (s.setQueue c q).WithinMemory := within_setQueue h (Nat.le_add_right_of_le hq)

/-- Fragments moved between the pairs and the distributor. -/
theorem within_of_slots (h : s.WithinMemory) (slots : t.heldSlots ≤ s.heldSlots) (hq : t.queues = s.queues) (hr : t.reas = s.reas)
    (hf : t.farm = s.farm) : t.WithinMemory :=
  within_of_le h slots (le_of_eq (by unfold State.upstreamBlocks State.classBlocks State.queue; rw [hq]))
    (le_of_eq (by unfold State.downstreamBlocks; rw [hr, hf]))

theorem within_ite {b : Prop} [Decidable b] (hs : b → s.WithinMemory) (ht : ¬b → t.WithinMemory) :
    (if b then s else t).WithinMemory := by
  split
  · next h => exact hs h
  · next h => exact ht h

theorem within_foldl {α : Type} {f : State → α → State} (hf : ∀ (s : State) a, s.WithinMemory → (f s a).WithinMemory) (l : List α)
    (h : s.WithinMemory) : (l.foldl f s).WithinMemory := by
  induction l generalizing s with
  | nil => exact h
  | cons a l ih => exact ih (hf s a h)

theorem Tallied.within (k : Tallied s t) (h : s.WithinMemory) : t.WithinMemory := by
  obtain ⟨c, rs, rfl⟩ := k
  exact within_of_same h rfl rfl rfl rfl rfl

/-! ### Reports -/

/-- An internal frame enters class queue 3 only where the free blocks hold it (R65). -/
theorem within_admitInternalWith {look : TRef → State → State} (hl : ∀ (r : TRef) (s : State), s.WithinMemory → (look r s).WithinMemory)
    (b : List Byte) (r : Option Nat) (h : s.WithinMemory) : (admitInternalWith look b r s).1.WithinMemory := by
  unfold admitInternalWith
  split
  · dsimp only
    have hx := hl (.group .active (classWord 3)) s h
    generalize look (.group .active (classWord 3)) s = x at hx ⊢
    split
    · next room =>
      simp only [State.internalRoom, Bool.and_eq_true, decide_eq_true_eq] at room
      refine within_bump (within_setQueue hx ?_) _
      rw [queueBlocks_append, queueBlocks_cons, QFrame.blocks_new]
      exact Nat.add_le_add_left room.2 _
    · exact within_bump hx _
  · exact within_bump h _

section look

variable {look : TRef → State → State} (hl : ∀ (r : TRef) (s : State), s.WithinMemory → (look r s).WithinMemory)
include hl

theorem within_sendSides (b : List Byte) (n : Nat) (h : s.WithinMemory) : (sendSides look b n s).WithinMemory := by
  unfold sendSides
  have put := within_ite (b := n.testBit 1 = true) (fun _ => within_updCtl h fun c => c.putNotice b) fun _ => h
  exact within_ite (fun _ => within_admitInternalWith hl _ _ put) fun _ => put

theorem within_sendNoticeWith (h : s.WithinMemory) : (sendNoticeWith look s).WithinMemory :=
  within_sendSides hl _ _ (hl _ _ (hl _ _ (hl _ _ (hl _ _ (within_updEvents h _)))))

theorem within_newPendingWith (h : s.WithinMemory) : (newPendingWith look s).WithinMemory :=
  within_ite (fun _ => hl _ s h) fun _ => within_ite (fun _ => within_sendNoticeWith hl (hl _ s h))
    fun _ => within_updEvents (hl _ s h) _

end look

theorem within_touchWith {re : EventKind → Detail → State → State}
    (hr : ∀ (k : EventKind) (d : Detail) (s : State), s.WithinMemory → (re k d s).WithinMemory) (r : TRef) (h : s.WithinMemory) :
    (touchWith re r s).WithinMemory := by
  unfold touchWith
  split
  · exact h
  · exact hr _ _ _ (within_updTables h _)
  · exact within_ite (fun _ => within_updTables h _) fun _ => hr _ _ _ (within_updTables h _)

theorem within_raiseN (n : Nat) :
    ∀ (k : EventKind) (d : Detail) (s : State), s.WithinMemory → (raiseN n k d s).WithinMemory := by
  induction n with
  | zero =>
    exact fun k d s h => within_ite (fun _ => within_newPendingWith (fun _ _ hx => hx) (within_updEvents h _))
      fun _ => within_updEvents h _
  | succ n ih =>
    exact fun k d s h => within_ite (fun _ => within_newPendingWith (fun r _ hx => within_touchWith ih r hx) (within_updEvents h _))
      fun _ => within_updEvents h _

theorem within_raiseEvent (h : s.WithinMemory) (k : EventKind) (d : Detail) : (raiseEvent k d s).WithinMemory :=
  within_raiseN 8 k d s h

theorem within_touch (h : s.WithinMemory) (r : TRef) : (touch r s).WithinMemory :=
  within_touchWith (fun k d _ hx => within_raiseEvent hx k d) r h

theorem within_touchGroup (h : s.WithinMemory) (i : Fin 19) : (touchGroup i s).WithinMemory := within_touch h _

theorem within_touchAll (h : s.WithinMemory) (rs : List TRef) : (touchAll rs s).WithinMemory :=
  within_foldl (fun _ r hx => within_touch hx r) rs h

theorem within_epochTest (h : s.WithinMemory) : (epochTest s).WithinMemory := within_ite (fun _ => within_touch h _) fun _ => h

theorem within_admitInternal (h : s.WithinMemory) (b : List Byte) (r : Option Nat) : (admitInternal b r s).1.WithinMemory :=
  within_admitInternalWith (fun r _ hx => within_touch hx r) b r h

theorem within_sendNotice (h : s.WithinMemory) : (sendNotice s).WithinMemory :=
  within_sendNoticeWith (fun r _ hx => within_touch hx r) h

theorem within_newPending (h : s.WithinMemory) : (newPending s).WithinMemory :=
  within_newPendingWith (fun r _ hx => within_touch hx r) h

theorem within_suspendShortcut (h : s.WithinMemory) : (suspendShortcut s).WithinMemory := by
  unfold suspendShortcut
  exact within_updReas (within_touchGroup h 0x03) le_rfl

/-! ### The reassembler -/

theorem within_controlArrive (h : s.WithinMemory) (o : Origin) (b : List Byte) : (controlArrive o b s).WithinMemory :=
  within_ite (fun _ => within_updCtl h _) fun _ => within_bump h _

/-- Entries removed from the window. -/
theorem within_take (h : s.WithinMemory) (g : Gsn) (es : List Entry) : (s.updReas fun r => r.take g es).WithinMemory :=
  within_updReas h (windowBlocks_filter _ _)

/-- A complete run leaves the window, and the frame it makes keeps no more than its blocks (R105, R108). -/
theorem within_takeComplete (h : s.WithinMemory) {g : Gsn} {es : List Entry} (run : s.reas.IsRun g es) :
    (takeComplete g es s).WithinMemory := by
  have taken := within_take h g es
  have freed := windowBlocks_take run
  unfold takeComplete
  refine within_ite (fun _ => within_bump taken _) fun _ => within_ite (fun _ => within_bump taken _) fun _ => ?_
  have meets : ∀ x : State, x.WithinMemory → x.downstreamBlocks + windowBlocks es ≤ 1024 →
      (deliver (entriesBytes es) (es.map Entry.blocks).sum x).WithinMemory := by
    intro x hx room
    unfold deliver
    dsimp only
    generalize hy : (if longEnough (entriesBytes es) && frameType (entriesBytes es) == controlType then
      touchGroup 0x0F (touchGroup 0x0E x) else x) = y
    have read : y.WithinMemory ∧ y.downstreamBlocks = x.downstreamBlocks := by
      rw [← hy]
      split
      · have := (onlyReported_touch (.group .active 0x0E) x).trans (onlyReported_touch (.group .active 0x0F) _)
        exact ⟨within_touchGroup (within_touchGroup hx _) _, by
          unfold State.downstreamBlocks touchGroup; rw [this.reas, this.farm]⟩
      · exact ⟨hx, rfl⟩
    obtain ⟨within, same⟩ := read
    refine within_ite (fun _ => within_bump (within_controlArrive within _ _) _) fun _ => within_bump ?_ _
    refine ⟨within.slots, within.upstream, ?_⟩
    change windowBlocks y.reas.window + ((y.farm.outQueue ++ [_]).map OutFrame.blocks).sum ≤ 1024
    rw [← same] at room
    unfold State.downstreamBlocks at room
    rw [List.map_append, List.sum_append]
    change _ + (_ + (windowBlocks es + 0)) ≤ 1024
    omega
  refine meets _ taken ?_
  have total : s.downstreamBlocks ≤ 1024 := h.downstream
  unfold State.downstreamBlocks at total ⊢
  change windowBlocks (s.reas.take g es).window + (s.farm.outQueue.map OutFrame.blocks).sum + _ ≤ _
  omega

theorem within_headStep (h : s.WithinMemory) (hs : headStep s = some t) : t.WithinMemory := by
  unfold headStep at hs
  split at hs
  · next g _ _ =>
    split at hs
    · cases hs
    · next e entry =>
      split at hs
      · split at hs <;> cases hs
        · exact within_updReas h le_rfl
        · exact within_updReas h (windowBlocks_filter _ _)
      · split at hs
        · cases hs
          exact within_bump (within_take h _ _) _
        · next hb =>
          split at hs
          · cases hs
            exact within_bump (within_take h _ _) _
          · next es complete =>
            cases hs
            exact within_takeComplete h (isRun_complete entry (by simpa using hb) complete)
          · split at hs
            · cases hs
              exact within_bump (within_updReas h (windowBlocks_filter _ _)) _
            · cases hs
  · cases hs

theorem within_headLoop (n : Nat) (h : s.WithinMemory) : (headLoop n s).WithinMemory := by
  induction n generalizing s with
  | zero => exact h
  | succ n ih =>
    unfold headLoop
    split
    · exact h
    · next hs => exact ih (within_headStep h hs)

theorem within_processHead (h : s.WithinMemory) : (processHead s).WithinMemory := within_headLoop _ h

theorem within_declareGap (h : s.WithinMemory) (cause : GapCause) : (declareGap cause s).WithinMemory := by
  unfold declareGap
  split
  · exact h
  · next n _ =>
    have moved := within_updReas h (f := fun r => { r.remove (s.reas.inProgress.map Entry.gsn) with head := some (n + 1) })
      (windowBlocks_filter _ _)
    exact within_processHead (within_bump (within_ite (fun _ => moved) fun _ => within_bump moved _) _)

theorem within_setHold (h : s.WithinMemory) : (setHold s).WithinMemory := by
  unfold setHold
  split
  · split
    · exact within_updReas h le_rfl
    · exact within_updReas (within_touchGroup h _) le_rfl
  · exact h

theorem within_testsN (n : Nat) (h : s.WithinMemory) : (testsN n s).WithinMemory := by
  induction n generalizing s with
  | zero => exact h
  | succ n ih =>
    exact within_ite (fun _ => ih (within_declareGap h _)) fun _ =>
      within_ite (fun _ => ih (within_declareGap (within_setHold h) _)) fun _ => within_setHold h

theorem within_headProcess (h : s.WithinMemory) : (headProcess s).WithinMemory :=
  within_ite (fun _ => within_testsN _ (within_processHead h)) fun _ => within_processHead h

theorem within_testShortcut (h : s.WithinMemory) : (testShortcut s).WithinMemory :=
  within_ite (fun _ => within_testsN _ h) fun _ => h

theorem within_advanceStep (h : s.WithinMemory) : (advanceStep s).WithinMemory := by
  unfold advanceStep
  split
  · exact h
  · split
    · exact within_declareGap h _
    · split
      · exact within_processHead (within_bump (within_take h _ _) _)
      · exact within_processHead h

theorem within_advanceN (n : Nat) (g : Gsn) (h : s.WithinMemory) : (advanceN n g s).WithinMemory := by
  induction n generalizing s with
  | zero => exact h
  | succ n ih =>
    unfold advanceN
    split
    · exact h
    · exact within_ite (fun _ => ih (within_advanceStep h)) fun _ => h

/-- An arrival is stored only where the free downstream blocks hold it (R97). -/
theorem within_storeArrival (a : Entry) (h : s.WithinMemory) : (storeArrival a s).1.WithinMemory := by
  unfold storeArrival
  dsimp only
  split
  · exact within_raiseEvent (within_bump h _) _ _
  · next room =>
    generalize hx : (if a.cls = 0 then touchGroup 0x0D s else s) = x
    have read : x.WithinMemory ∧ x.downstreamBlocks = s.downstreamBlocks := by
      rw [← hx]
      split
      · have := onlyReported_touch (.group .active 0x0D) s
        exact ⟨within_touchGroup h _, by unfold State.downstreamBlocks touchGroup; rw [this.reas, this.farm]⟩
      · exact ⟨h, rfl⟩
    obtain ⟨within, same⟩ := read
    split
    · exact within_bump within _
    · have stored : (x.updReas fun r => { r with window := r.window ++ [a] }).downstreamBlocks ≤ 1024 := ?_
      · exact within_bump (s := x.updReas _) ⟨within.slots, within.upstream, stored⟩ _
      have total : s.downstreamBlocks ≤ 1024 := h.downstream
      rw [freeDownBlocks_eq] at room
      unfold State.downstreamBlocks at same total room
      change windowBlocks (x.reas.window ++ [a]) + (x.farm.outQueue.map OutFrame.blocks).sum ≤ 1024
      rw [show windowBlocks (x.reas.window ++ [a]) = windowBlocks x.reas.window + a.blocks by simp [windowBlocks]]
      omega

theorem within_arriveResync (a : Entry) (h : s.WithinMemory) : (arriveResync a s).WithinMemory :=
  within_ite (fun _ => within_bump h _) fun _ =>
    within_ite (fun _ => within_updReas (within_touchGroup (within_storeArrival a h) _) le_rfl) fun _ => within_storeArrival a h

theorem within_arriveWindow (a : Entry) (h : s.WithinMemory) : (arriveWindow a s).WithinMemory := by
  unfold arriveWindow
  split
  · exact h
  · exact within_ite (fun _ => within_bump h _) fun _ => within_ite
      (fun _ => within_headProcess (within_storeArrival a (within_advanceN _ _ (within_bump h _)))) fun _ => within_ite
      (fun _ => within_bump h _) fun _ => within_ite (fun _ => within_headProcess (within_storeArrival a h))
      fun _ => within_storeArrival a h

theorem within_arrive (a : Entry) (h : s.WithinMemory) : (arrive a s).WithinMemory := by
  have read := within_ite (b := a.rrt = true) (fun _ => within_suspendShortcut h) fun _ => h
  unfold arrive
  dsimp only
  split
  · exact within_bump read _
  · exact within_arriveResync a read
  · exact within_arriveWindow a read

theorem within_resyncNow (g : Gsn) (h : s.WithinMemory) : (resyncNow g s).WithinMemory :=
  within_headProcess ((tallied_bumpBy _ _ _).within (within_updReas (within_touchGroup h 0x01) (windowBlocks_filter _ _)))

/-! ### Departures -/

/-- Fragments given back take the slots they had (R89). -/
theorem length_foldl_insertByGsn (next : Gsn) (fs l : List Frag) :
    (fs.foldl (fun l f => insertByGsn next f l) l).length = l.length + fs.length := by
  induction fs generalizing l with
  | nil => rfl
  | cons f fs ih => rw [List.foldl_cons, ih, (insertByGsn_perm next f l).length_eq]; simp only [List.length_cons]; omega

theorem Distributor.held_reroute (d : Distributor) (l : List Frag) :
    Distributor.held { d with reroute := l } + d.reroute.length = d.held + l.length := by
  unfold Distributor.held
  dsimp only
  omega

/-- A pair's fragments moved to the reroute list. -/
theorem within_reroute (h : s.WithinMemory) {p : PairIx} {f : PairPort → PairPort} {fs : List Frag} (next : Gsn)
    (hf : (f (s.pair p)).held + fs.length ≤ (s.pair p).held) :
    ((s.updPair p f).updDist fun d =>
      { d with reroute := fs.foldl (fun l f => insertByGsn next f l) d.reroute }).WithinMemory := by
  refine within_of_slots h ?_ rfl rfl rfl
  have list := Distributor.held_reroute s.dist (fs.foldl (fun l f => insertByGsn next f l) s.dist.reroute)
  have ports := heldSlots_updPair s p f
  have lists := heldSlots_updDist (s.updPair p f) fun d =>
    { d with reroute := fs.foldl (fun l f => insertByGsn next f l) d.reroute }
  rw [length_foldl_insertByGsn] at list
  rw [State.updPair_dist] at lists
  omega

theorem within_joinReroutes (h : s.WithinMemory) {p : PairIx} {f : PairPort → PairPort} {fs : List Frag}
    (hf : (f (s.pair p)).held + fs.length ≤ (s.pair p).held) : (fs.foldl joinReroute (s.updPair p f)).WithinMemory := by
  rw [foldl_joinReroute]
  exact (tallied_bumpBy _ _ _).within (within_reroute h _ hf)

theorem within_giveUp (p : PairIx) (keep : Bool) (h : s.WithinMemory) : (giveUp p keep s).WithinMemory := by
  cases keep with
  | true => exact within_joinReroutes h (by simp [PairPort.emptied, PairPort.held, PairPort.fragments, Nat.add_comm])
  | false => exact (giveUp_discard p s).within (within_updPair h (Nat.zero_le _))

theorem within_depart (p : PairIx) (left target : PairState) (cause : Cause) (cmd : XcvrCmd) (keep : Bool) (h : s.WithinMemory) :
    (depart p left target cause cmd keep s).WithinMemory := by
  have raised := within_raiseEvent (within_updPair (within_giveUp p keep h) (p := p)
    (f := fun pp => pp.departed target cause cmd) (Nat.zero_le _)) .pairDown (detail1 (byteFields p.val cause.code left.code 0))
  exact within_ite (fun _ => within_suspendShortcut raised) fun _ => raised

theorem within_leaving (p : PairIx) (st : PairState) (h : s.WithinMemory) : (leaving p st s).WithinMemory :=
  within_touchGroup (within_updPair h le_rfl) 0x02

theorem within_toDown (p : PairIx) (cause : Cause) (h : s.WithinMemory) : (toDown p cause s).WithinMemory := by
  rw [toDown_eq]
  exact within_depart _ _ _ _ _ _ (within_leaving p _ h)

theorem within_toOff (p : PairIx) (cause : Cause) (h : s.WithinMemory) : (toOff p cause s).WithinMemory :=
  within_depart _ _ _ _ _ _ (within_leaving p _ h)

theorem within_drained (p : PairIx) (h : s.WithinMemory) : (drained p s).WithinMemory := within_depart _ _ _ _ _ _ h

theorem within_drainCheck (p : PairIx) (h : s.WithinMemory) : (drainCheck p s).WithinMemory :=
  within_ite (fun _ => within_drained p h) fun _ => h

/-! ### The group's fall and rise -/

theorem within_clearDistributor (h : s.WithinMemory) : (clearDistributor s).WithinMemory := by
  have clears : (s.updDist Distributor.cleared).WithinMemory := within_updDist h (Nat.zero_le _)
  have lost := (tallied_foldl tallied_discardFrag s.dist.reroute _).within
    (within_ite (b := s.dist.fip.isSome = true) (fun _ => within_epochTest clears) fun _ => clears)
  unfold clearDistributor
  dsimp only
  split
  · exact (tallied_discardFrag _ _).within lost
  · exact lost

theorem within_flushQueue (s : State) (c : ClassIx) (h : s.WithinMemory) : (flushQueue s c).WithinMemory :=
  (tallied_flushQueue c s).within (within_setQueue_le h (Nat.zero_le _))

theorem within_flushClassifier (h : s.WithinMemory) : (flushClassifier s).WithinMemory := by
  have flushed := within_foldl within_flushQueue [0, 1, 2, 3] h
  unfold flushClassifier
  dsimp only
  generalize ([0, 1, 2, 3] : List ClassIx).foldl flushQueue s = x at flushed ⊢
  exact within_updFarm flushed rfl

theorem within_fallBlocks (h : s.WithinMemory) : (fallBlocks s).WithinMemory := by
  have given := within_foldl (f := fun s p => giveUp p false s) (fun _ p hx => within_giveUp p false hx) allPairs h
  have cleared := within_flushClassifier (within_clearDistributor given)
  unfold fallBlocks
  exact within_foldl (f := fun s p => drainCheck p s) (fun _ p hx => within_drainCheck p hx) allPairs
    (within_updReas cleared (Nat.zero_le _))

theorem within_groupFall (h : s.WithinMemory) : (groupFall s).WithinMemory := by
  unfold groupFall
  exact within_fallBlocks (within_raiseEvent (within_setGroup h false) _ _)

theorem within_groupRise (h : s.WithinMemory) : (groupRise s).WithinMemory := by
  unfold groupRise
  exact within_updReas (within_raiseEvent (within_setGroup h true) _ _) (Nat.zero_le _)

theorem within_evaluateGroup (h : s.WithinMemory) : (evaluateGroup s).WithinMemory := by
  have read := within_touchGroup h 0x02
  exact within_ite (fun _ => within_groupFall read) fun _ => within_ite (fun _ => within_groupRise read) fun _ => read

theorem within_damagedPairOff (s : State) (p : PairIx) (h : s.WithinMemory) : (damagedPairOff p s).WithinMemory :=
  within_ite (fun _ => within_evaluateGroup (within_toOff p _ h)) fun _ => h

theorem within_settleDamage (h : s.WithinMemory) : (settleDamage s).WithinMemory :=
  within_foldl within_damagedPairOff _ (within_ite (fun _ => within_evaluateGroup h) fun _ => h)

/-! ### Taking and cutting -/

theorem within_touchOffer (s : State) (c : ClassIx) (h : s.WithinMemory) : (touchOffer s c).WithinMemory := by
  unfold touchOffer
  split
  · exact h
  · exact within_ite (fun _ => h) fun _ => within_touchGroup h _

/-- A frame taken holds no slot yet (R76). -/
theorem within_takeFrame (h : s.WithinMemory) : (takeFrame s).WithinMemory := by
  unfold takeFrame
  split
  · next ready =>
    simp only [Bool.and_eq_true, Option.isNone_iff_eq_none] at ready
    have offered := within_foldl within_touchOffer [3, 2, 1, 0] h
    have reads := reports_foldl_touchOffer [3, 2, 1, 0] s
    dsimp only
    split
    · exact offered
    · next c _ =>
      have same := (reads.trans (reports_touch (.group .active (classWord c)) _)).dist
      refine within_updDist (within_touchGroup offered (classWord c)) ?_
      exact (Distributor.held_none ((congrArg Distributor.fip same).trans ready.1.2)).ge
  · exact h

/-- A fragment cut takes one slot, which is free, and no block (R70, R76). -/
theorem DistCut.within {t : State} (h : s.WithinMemory) (cut : DistCut s t) : t.WithinMemory := by
  have slots : ∀ (f x : Fip), s.dist.fip = some f → f.pendingFrag = none → 0 < s.freeSlots → ∀ c q,
      queueBlocks q ≤ queueBlocks (s.queue c) → ((s.setQueue c q).updDist fun d => { d with fip := some x }).WithinMemory := by
    intro f x held placed slot c q hq
    have within := within_setQueue_le h hq
    refine ⟨?_, within.upstream, within.downstream⟩
    have moved := heldSlots_updDist (s.setQueue c q) fun d => { d with fip := some x }
    change 0 < 256 - s.heldSlots at slot
    have before : s.dist.held = s.dist.reroute.length := by rw [Distributor.held_some held, placed]; rfl
    have after : Distributor.held { s.dist with fip := some x } ≤ s.dist.reroute.length + 1 := by
      rw [Distributor.held_some rfl]
      exact Nat.add_le_add_left (by split <;> omega) _
    change _ + s.dist.held = s.heldSlots + Distributor.held { s.dist with fip := some x } at moved
    change _ ≤ 256
    omega
  cases cut with
  | take c idle => exact within_updDist h (by rw [Distributor.held_none idle]; exact le_rfl)
  | part f q rest held placed more sound queue enough slot =>
    refine slots f _ held placed slot f.cls _ ?_
    rw [queue, queueBlocks_cons, queueBlocks_cons]
    exact Nat.add_le_add_right (q.blocks_cut enough.le) _
  | last f q rest held placed more sound queue ended remains slot =>
    refine slots f _ held placed slot f.cls _ ?_
    rw [queue, queueBlocks_cons]
    exact Nat.le_add_left _ _
  | void f tail held placed more failed slot =>
    refine within_bump (slots f _ held placed slot f.cls _ ?_) _
    cases s.queue f.cls with
    | nil => exact le_rfl
    | cons q rest => exact Nat.le_add_left _ _

theorem within_cutNext (h : s.WithinMemory) : (cutNext s).1.WithinMemory := by
  have taken := within_takeFrame h
  unfold cutNext
  dsimp only
  split
  · next f c hf hc =>
    split
    · next slot =>
      simp only [Bool.and_eq_true, decide_eq_true_eq] at slot
      exact (distCut_makeCut hf hc slot.2).within taken
    · exact taken
  · exact taken

/-! ### Placing -/

theorem within_touchChoice (h : s.WithinMemory) : (touchChoice s).WithinMemory := by
  have read := within_touchAll h ((allPairs.filter (eligible s)).map fun p => .pair .active p 1)
  have guard := within_ite (b := ((allPairs.filter (eligible s)).any fun p => ((touchAll ((allPairs.filter (eligible s)).map
    fun p => .pair .active p 1) s).pair p).guard.window.isSome) = true) (fun _ => within_touchGroup read 0x08) fun _ => read
  exact within_ite (fun _ => guard) fun _ => within_touchGroup guard _

theorem within_wait (h : s.WithinMemory) (w : WaitReason) : (s.updDist fun d => { d with wait := w }).WithinMemory :=
  within_updDist h le_rfl

theorem within_recordHold (h : s.WithinMemory) (w : WaitReason) : (recordHold w s).WithinMemory :=
  within_ite (fun _ => within_bump (within_wait h w) _) fun _ => within_wait h w

theorem within_discardHead (h : s.WithinMemory) (f : Frag) : (discardHead f s).WithinMemory := by
  refine within_bump ((tallied_fragmentGone f _).within (within_updDist h ?_)) _
  have := Distributor.held_reroute s.dist s.dist.reroute.tail
  rw [List.length_tail] at this
  omega

theorem PairPort.held_push (pp : PairPort) (x : Frag) : PairPort.held { pp with txq := pp.txq ++ [x] } = pp.held + 1 := by
  simp only [PairPort.held, List.length_append, List.length_singleton]
  omega

/-- A fragment moved from the distributor to a transmit queue keeps its slot (R74). -/
theorem within_place (h : s.WithinMemory) (p : PairIx) (x : Frag) {g : Distributor → Distributor}
    (freed : (g s.dist).held + 1 ≤ s.dist.held) :
    ((s.updDist g).updPair p fun pp => { pp with txq := pp.txq ++ [x] }).WithinMemory := by
  refine within_of_slots h ?_ rfl rfl rfl
  have left := heldSlots_updDist s g
  have placed := heldSlots_updPair (s.updDist g) p fun pp => { pp with txq := pp.txq ++ [x] }
  rw [PairPort.held_push] at placed
  omega

theorem within_placeAgain (h : s.WithinMemory) (p : PairIx) (x : Frag) {f : Frag} {rest : List Frag} (head : s.dist.reroute = f :: rest) :
    (placeAgain p x (s.updDist fun d => { d with reroute := d.reroute.tail })).WithinMemory := by
  refine within_bump (within_place h p _ ?_) _
  have := Distributor.held_reroute s.dist s.dist.reroute.tail
  rw [head] at this ⊢
  simp only [List.length_cons, List.tail_cons] at this ⊢
  omega

theorem within_placeNew (h : s.WithinMemory) (p : PairIx) (x : Frag) {f : Fip} (held : s.dist.fip = some f)
    (pending : f.pendingFrag.isSome = true) : (placeNew p x (s.updDist fun d => { d with fip := f.afterPlacement })).WithinMemory := by
  refine within_bump (within_place h p _ (g := fun d => { d with fip := f.afterPlacement, nextGsn := d.nextGsn + 1 }) ?_) _
  rw [Distributor.held_some held, if_pos pending]
  unfold Fip.afterPlacement Distributor.held
  split <;> exact le_rfl

/-! ### Attempts and the end of a command -/

theorem within_attemptN (n : Nat) (h : s.WithinMemory) : (attemptN n s).WithinMemory := by
  induction n generalizing s with
  | zero => exact h
  | succ n ih =>
    have cut := within_cutNext h
    unfold attemptN
    dsimp only
    generalize (cutNext s).1 = c at cut ⊢
    refine within_ite (fun _ => cut) fun _ => ?_
    split
    · next f rest head =>
      have read := within_touchGroup cut 0x07
      have kept := (reports_touch (.group .active 0x07) c).trans (reports_touchChoice _)
      refine within_ite (fun _ => read) fun _ => within_ite (fun _ => ih (within_discardHead read f)) fun _ => ?_
      have chosen := within_touchChoice read
      change Reports c (touchChoice (touchGroup 0x07 c)) at kept
      generalize touchChoice (touchGroup 0x07 c) = y at chosen kept ⊢
      refine within_ite (fun _ => chosen) fun _ => ?_
      split
      · exact ih (within_settleDamage chosen)
      · exact within_recordHold chosen _
      · exact ih (within_placeAgain chosen _ _ ((congrArg Distributor.reroute kept.dist).trans head))
    · split
      · exact within_wait cut _
      · next fp held =>
        split
        · exact within_wait cut _
        · next f pending =>
          refine within_ite (fun _ => within_recordHold cut _) fun _ => ?_
          have chosen := within_touchChoice cut
          have kept := reports_touchChoice c
          generalize touchChoice c = y at chosen kept ⊢
          refine within_ite (fun _ => chosen) fun _ => ?_
          split
          · exact ih (within_settleDamage chosen)
          · exact within_recordHold chosen _
          · exact ih (within_epochTest (within_placeNew chosen _ _ ((congrArg Distributor.fip kept.dist).trans held)
              (by rw [pending]; rfl)))

theorem within_attemptRun (h : s.WithinMemory) : (attemptRun s).WithinMemory :=
  within_ite (fun _ => within_attemptN _ h) fun _ => within_wait h _

theorem within_attemptSettled (n : Nat) (h : s.WithinMemory) : (attemptSettled n s).WithinMemory := by
  induction n generalizing s with
  | zero => exact h
  | succ n ih => exact within_ite (fun _ => ih (within_settleDamage (within_attemptRun h))) fun _ => within_attemptRun h

theorem within_attempt (h : s.WithinMemory) : (attempt s).WithinMemory := within_attemptSettled 12 h

theorem within_settleOwed (h : s.WithinMemory) : (settleOwed s).WithinMemory :=
  within_ite (fun _ => within_attempt (within_settleDamage h)) fun _ => h

theorem within_useWord (h : s.WithinMemory) (r : TRef) : (useWord r s).WithinMemory := within_settleOwed (within_touch h r)

theorem within_useGroup (h : s.WithinMemory) (i : Fin 19) : (useGroup i s).WithinMemory := within_useWord h _

theorem within_serve (h : s.WithinMemory) : (serve s).WithinMemory :=
  within_ite (fun _ => within_ite (fun _ => within_attempt (within_cutNext h)) fun _ =>
    within_ite (fun _ => within_wait (within_cutNext h) _) fun _ => within_cutNext h) fun _ => h

/-- What ends every command keeps within memory. -/
theorem within_finish (h : s.WithinMemory) : (finish s).WithinMemory := within_settleOwed (within_serve (within_settleOwed h))

/-- What follows every pair change keeps within memory. -/
theorem within_pairChanged (h : s.WithinMemory) : (pairChanged s).WithinMemory :=
  within_attempt (within_testShortcut (within_evaluateGroup h))

end Sys2Proof.Machine
end

section
/-! PROOFS of the family 04, third layer: the pair ports' reports, deadlines, hand-offs and received fragments keep what is held within the
part's memories (R10, R29, R30, R36, R63, R74, R96). -/

namespace Sys2Proof.Machine

variable {s : State}

/-! ### The pair state machine -/

/-- A pair port changed in neither of its stores. -/
theorem within_port (h : s.WithinMemory) {p : PairIx} {f : PairPort → PairPort} (hq : (f (s.pair p)).txq = (s.pair p).txq)
    (hs : (f (s.pair p)).store = (s.pair p).store) : (s.updPair p f).WithinMemory :=
  within_updPair h (by unfold PairPort.held; rw [hq, hs])

theorem within_lose (p : PairIx) (cause : Cause) (h : s.WithinMemory) : (lose p cause s).WithinMemory :=
  within_pairChanged (within_toDown p cause h)

theorem within_restartPair (p : PairIx) (h : s.WithinMemory) : (restartPair p s).WithinMemory :=
  within_ite (fun _ => h) fun _ => within_lose p _ h

theorem within_toActive (p : PairIx) (h : s.WithinMemory) : (toActive p s).WithinMemory := by
  have drawn := within_ite (b := (s.pair p).lastProbe.isNone = true) (fun _ => within_drawFree h) fun _ => h
  unfold toActive
  exact within_raiseEvent (within_touch (within_port drawn rfl rfl) _) _ _

theorem within_examine (p : PairIx) (h : s.WithinMemory) : (examine p s).WithinMemory := by
  have read := within_useGroup (within_useGroup h 0x05) 0x06
  exact within_ite (fun _ => within_ite (fun _ => within_pairChanged (within_toActive p read)) fun _ => read) fun _ => h

theorem within_enterService (p : PairIx) (u d : Nat) (h : s.WithinMemory) : (enterService p u d s).WithinMemory := by
  unfold enterService
  exact within_pairChanged (within_port h rfl rfl)

/-- The transmit queue of a pair below the minimum rate moves to the reroute list (R10). -/
theorem within_lowRate (p : PairIx) (h : s.WithinMemory) : (lowRate p s).WithinMemory := by
  unfold lowRate
  refine within_pairChanged (within_joinReroutes h ?_)
  change 0 + (s.pair p).store.length + (s.pair p).txq.length ≤ (s.pair p).txq.length + (s.pair p).store.length
  omega

theorem within_takeRate (p : PairIx) (u d : Nat) (h : s.WithinMemory) : (takeRate p u d s).WithinMemory := by
  have rated := within_port h (p := p) (f := fun pp => { pp with upRate := clampRate u, downRate := clampRate d }) rfl rfl
  unfold takeRate
  dsimp only
  generalize s.updPair p _ = x at rated ⊢
  have read := within_ite (b := (x.pair p).state = .active) (fun _ => within_useGroup rated 0x06) fun _ => rated
  exact within_ite (fun _ => within_lowRate p read) fun _ => within_examine p (within_ite (fun _ => read) fun _ => within_attempt read)

theorem within_takeEcho (p : PairIx) (stamp : BitVec 16) (h : s.WithinMemory) : (takeEcho p stamp s).WithinMemory := by
  have sampled := within_port h (p := p) (f := fun pp => pp.sample (latencySample s.now stamp)) rfl rfl
  have read := within_useWord sampled (.pair .active p 0)
  unfold takeEcho
  dsimp only
  generalize useWord (.pair .active p 0) _ = x at read ⊢
  have stored := within_ite (b := (x.autoE p && !x.tables.pairDamaged[p.val]) = true)
    (fun _ => within_updTables read fun t => t.store (.pair .active p 1) (asWord (x.pair p).latency)) fun _ => read
  exact within_examine p (within_ite (fun _ => stored) fun _ => within_attempt stored)

/-! ### The burst guard -/

theorem within_guard (h : s.WithinMemory) (p : PairIx) (f : PairPort → Guard) :
    (s.updPair p fun pp => { pp with guard := f pp }).WithinMemory := within_port h rfl rfl

theorem within_judgeBurst (p : PairIx) (t : Nat) (h : s.WithinMemory) : (judgeBurst p t s).WithinMemory :=
  within_ite (fun _ => within_ite (fun _ => h) fun _ => within_guard h p _) fun _ => within_port h rfl rfl

theorem within_learnBurst (p : PairIx) (t : Nat) (h : s.WithinMemory) : (learnBurst p t s).WithinMemory := by
  have read := within_useGroup (within_guard h p fun _ => (s.pair p).guard.learn t) 0x08
  unfold learnBurst
  exact within_ite (fun _ => within_raiseEvent (within_guard read p _) _ _) fun _ => read

theorem within_guardBadCheck (p : PairIx) (h : s.WithinMemory) : (guardBadCheck p s).WithinMemory := by
  have noted := within_guard h p fun _ => { (s.pair p).guard with lastBad := some s.now }
  have counted := within_port noted (p := p) (f := fun pp => pp.bump .bursts) rfl rfl
  unfold guardBadCheck
  exact within_ite (fun _ => within_ite (fun _ => within_judgeBurst p _ counted) fun _ => within_learnBurst p _ counted) fun _ => noted

theorem within_probationBadCheck (p : PairIx) (h : s.WithinMemory) : (probationBadCheck p s).WithinMemory := by
  unfold probationBadCheck
  exact within_ite (fun _ => within_port h rfl rfl) fun _ => h

theorem within_openWindow (p : PairIx) (n : Nat) (h : s.WithinMemory) : (openWindow p n s).WithinMemory := by
  unfold openWindow
  exact within_guard h p _

theorem within_closeWindow (p : PairIx) (w : GuardWindow) (h : s.WithinMemory) : (closeWindow p w s).WithinMemory := by
  have missed := within_useGroup (within_guard h p fun pp => pp.guard.miss) 0x08
  unfold closeWindow
  exact within_ite (fun _ => within_guard h p _) fun _ => within_ite (fun _ => within_guard missed p _) fun _ => missed

/-! ### Hand-offs -/

theorem within_afterStores (p : PairIx) (h : s.WithinMemory) : (afterStores p s).WithinMemory :=
  within_ite (fun _ => within_pairChanged (within_drained p h)) fun _ => within_attempt h

theorem within_touchHandOff (p : PairIx) (h : s.WithinMemory) : (touchHandOff p s).WithinMemory := by
  have limit := within_useGroup h 0x04
  unfold touchHandOff
  split
  · exact h
  · exact within_ite (fun _ => within_useGroup limit _) fun _ => limit
  · exact within_useGroup limit _
  · exact within_useGroup h _

/-- A fragment handed to the transceiver changes neither store. -/
theorem within_handOff (h : s.WithinMemory) (p : PairIx) (f : FragFields) (void : Bool) (n : Nat) {g : PairPort → PairPort}
    (hq : ∀ pp, (g pp).txq = pp.txq) (hs : ∀ pp, (g pp).store = pp.store) :
    (s.updPair p fun pp => g (pp.handOff f void n s.now)).WithinMemory := by
  obtain ⟨-, -, queue, store⟩ := (s.pair p).handOff_same f void n s.now
  exact within_port h ((hq _).trans queue) ((hs _).trans store)

/-- The head of the transmit queue leaves its slot or keeps it in the retry store (R29, R36). -/
theorem within_handQueue (h : s.WithinMemory) {p : PairIx} {f : Frag} {rest : List Frag} (queue : (s.pair p).txq = f :: rest)
    (l g : Nat) : (s.updPair p fun pp => pp.handQueue f l g s.now).WithinMemory := by
  refine within_updPair h ?_
  unfold PairPort.handQueue PairPort.held
  dsimp only
  split <;> simp only [queue, List.tail_cons, List.length_cons, List.length_append, List.length_nil] <;> omega

theorem within_handOut (p : PairIx) (h : s.WithinMemory) : (handOut p s).WithinMemory := by
  unfold handOut
  dsimp only
  split
  · exact h
  · exact within_attempt (within_handOff h p _ _ _ (g := fun pp => { pp with echo := none }) (fun _ => rfl) fun _ => rfl)
  · exact within_attempt (within_handOff h p (plainFields .probe (s.now / 10 % 65536)) false s.gid
      (g := fun pp => { pp with probeDue := s.now + (s.pair p).probePeriod, lastProbe := some s.now }) (fun _ => rfl) fun _ => rfl)
  · next e _ =>
    refine within_ite (fun _ => within_pairChanged (within_raiseEvent (within_toDown p _ h) _ _)) fun _ => within_attempt ?_
    obtain ⟨-, -, queue, -⟩ := (s.pair p).handOff_same (dataFields e.frag e.txn) e.frag.void s.gid s.now
    refine within_updPair h (le_of_eq ?_)
    change ((s.pair p).handOff (dataFields e.frag e.txn) e.frag.void s.gid s.now).txq.length
      + (markResent s.now e.txn (s.pair p).store).length = _
    rw [queue, markResent, List.length_map]
    rfl
  · next f picked =>
    obtain ⟨rest, queue⟩ := PairPort.pick_queue picked
    exact within_afterStores p ((tallied_fragmentGone f _).within (within_handQueue h queue _ _))
  · exact within_attempt (within_handOff h p _ _ _ (g := id) (fun _ => rfl) fun _ => rfl)

/-! ### Acknowledgement, replay and the receiver -/

/-- Acknowledged entries leave their slots (R30). -/
theorem within_applyAck (p : PairIx) (a : Txn) (h : s.WithinMemory) : (applyAck p a s).WithinMemory := by
  refine within_ite (fun _ => h) fun _ => within_afterStores p (within_updPair h ?_)
  change (s.pair p).txq.length + ((s.pair p).store.drop _).length ≤ _
  rw [List.length_drop]
  exact Nat.add_le_add_left (Nat.sub_le _ _) _

theorem within_applyRequest (p : PairIx) (a : Txn) (h : s.WithinMemory) : (applyRequest p a s).WithinMemory :=
  within_ite (fun _ => within_ite (fun _ => within_attempt (within_port h rfl rfl)) fun _ => h)
    fun _ => within_ite (fun _ => within_port h rfl rfl) fun _ => h

theorem within_ask (p : PairIx) (h : s.WithinMemory) : (s.updPair p PairPort.ask).WithinMemory :=
  have ⟨_, _, queue, store⟩ := (s.pair p).ask_same
  within_port h queue store

theorem within_takeData (p : PairIx) (f : FragFields) (void : Bool) (h : s.WithinMemory) : (takeData p f void s).WithinMemory := by
  have accepted := within_port h (p := p) (f := fun pp => pp.accept f) rfl rfl
  refine within_ite (fun _ => within_testShortcut (within_arrive _ accepted)) fun _ =>
    within_ite (fun _ => ?_) fun _ => within_ask p h
  cases void <;> exact within_port h rfl rfl

theorem within_byKind (p : PairIx) (f : FragFields) (void : Bool) (h : s.WithinMemory) : (byKind p f void s).WithinMemory := by
  unfold byKind
  split
  · exact within_takeData p f void h
  · exact h
  · exact within_port h rfl rfl
  · exact within_takeEcho p _ h

theorem within_whileRunning {f : State → State} (p : PairIx) (h : s.WithinMemory) (hf : (f s).WithinMemory) :
    (whileRunning p f s).WithinMemory := within_ite (fun _ => hf) fun _ => h

theorem within_takeFragment (p : PairIx) (f : FragFields) (void : Bool) (h : s.WithinMemory) :
    (takeFragment p f void s).WithinMemory := by
  have heard : (s.updPair p fun pp =>
      ({ pp.bump (if void then .void else .good) with lastHeard := s.now }).clearMark f.ackn).WithinMemory := by
    refine within_port h ?_ ?_ <;> rw [PairPort.clearMark_eq] <;> rfl
  have acked := within_applyAck p f.ackn heard
  have asked := within_ite (b := f.rrq = true) (fun _ => within_whileRunning p acked (within_applyRequest p f.ackn acked)) fun _ => acked
  unfold takeFragment
  exact within_whileRunning p asked (within_byKind p f void asked)

theorem within_takeBad (p : PairIx) (h : s.WithinMemory) : (takeBad p s).WithinMemory := by
  have counted := within_port h (p := p) (f := fun pp => pp.bump .bad) rfl rfl
  have checked := within_probationBadCheck p (within_guardBadCheck p counted)
  unfold takeBad
  exact within_whileRunning p checked (within_ask p checked)

theorem within_mismatch (p : PairIx) (got : Nat) (h : s.WithinMemory) : (mismatch p got s).WithinMemory :=
  within_ite (fun _ => within_port h rfl rfl) fun _ => within_pairChanged (within_raiseEvent (within_toDown p _ h) _ _)

theorem within_receive (p : PairIx) (bytes : List Byte) (h : s.WithinMemory) : (receive p bytes s).WithinMemory := by
  have read := within_useGroup h 0x00
  unfold receive
  split
  · exact within_takeBad p h
  · exact within_whileRunning p read (within_ite (fun _ => within_takeFragment p _ _ read) fun _ => within_mismatch p _ read)

end Sys2Proof.Machine
end

section
/-! PROOFS of the family 04, fourth layer: the farm port, table memory, the control engine, commits and resets keep what is held within the
part's memories (R63, R69, R71, R96), and with them every step does. Settles O7. -/

namespace Sys2Proof.Machine

variable {s : State}

/-! ### The farm port -/

theorem within_lookupIn (bs : List Byte) (is : List (Fin 64)) (h : s.WithinMemory) : (lookupIn bs is s).1.WithinMemory := by
  induction is generalizing s with
  | nil => exact within_touchGroup h _
  | cons i is ih =>
    have read := within_touch (within_touch h (.cls .active i 0)) (.cls .active i 1)
    unfold lookupIn
    split
    · exact ih h
    · dsimp only
      split
      · exact read
      · exact ih read

/-- A frame that fails as it arrives takes no block and no slot (R69, R77). -/
theorem within_failArriving (c : ClassIx) (tail : List Byte) (h : s.WithinMemory) : (failArriving c tail s).WithinMemory := by
  have without := within_setQueue_le h (queueBlocks_withoutArriving (s.queue c))
  unfold failArriving
  split
  · exact without
  · next f taken =>
    have held := arrivingTaken_fip taken
    refine within_ite (fun _ => ?_) fun _ => ?_
    · have marked := within_setQueue_le h (queueBlocks_mapArriving (f := fun q => { q with ended := true, failed := true })
        (fun _ => rfl) (s.queue c)).le
      refine within_updDist marked (le_of_eq ?_)
      rw [State.setQueue_dist, Distributor.held_some held, Distributor.held_some rfl]
    · have dropped := within_epochTest (within_updDist without (f := fun d => { d with fip := none }) (Nat.le_add_right _ _))
      exact within_ite (fun _ => within_attempt dropped) fun _ => dropped

theorem within_setRxKind (k : RxKind) (h : s.WithinMemory) : (setRxKind k s).WithinMemory := within_updFarm h rfl

/-- A byte is stored only where a block it needs is free (R63). -/
theorem within_storeByte (c : ClassIx) (check : List Byte) (s : State) (b : Byte) (h : s.WithinMemory) :
    (storeByte c check s b).WithinMemory := by
  unfold storeByte
  split
  · refine within_ite (fun _ => ?_) fun _ => h
    dsimp only
    generalize hx : (if arrivingStored (s.queue c) % Config.blockBytes = 0 then touchGroup (classWord c) s else s) = x
    have read : x.WithinMemory := hx ▸ within_ite (fun _ => within_touchGroup h _) fun _ => h
    refine within_ite (fun room => ?_) fun _ => within_failArriving c _ (within_setRxKind _ (within_bump read _))
    have pushed := queueBlocks_push b (x.queue c)
    refine within_setQueue read ?_
    change _ ≤ queueBlocks (x.queue c) + _
    by_cases full : arrivingStored (s.queue c) % Config.blockBytes = 0
    · simp only [roomForByte, full, ne_eq, not_true_eq_false, decide_false, Bool.false_or, Bool.and_eq_true, decide_eq_true_eq] at room
      have : (if arrivingStored (x.queue c) % 128 = 0 then 1 else 0) ≤ 1 := by split <;> omega
      omega
    · rw [if_neg full] at hx
      subst hx
      rw [if_neg (by exact full)] at pushed
      omega
  · exact h

theorem within_classifyFrame (bs held check : List Byte) (h : s.WithinMemory) : (classifyFrame bs held check s).WithinMemory := by
  unfold classifyFrame
  refine within_ite (fun _ => within_setRxKind _ (within_bump h _)) fun _ => ?_
  have look := within_lookupIn bs allEntries h
  generalize lookupIn bs allEntries s = l at look ⊢
  obtain ⟨x, _ | c⟩ := l
  · exact within_setRxKind _ (within_bump look _)
  · refine within_foldl (within_storeByte c check) held (within_setRxKind _ (within_setQueue_le look (le_of_eq ?_)))
    rw [queueBlocks_append, queueBlocks_cons, QFrame.blocks_new]
    rfl

theorem within_judgeFrame (r : RxFrame) (h : s.WithinMemory) : (judgeFrame r s).WithinMemory := by
  have read := within_ite (b := frameType (r.held ++ r.check) = controlType)
    (fun _ => within_touchGroup (within_touchGroup h 0x0E) 0x0F) fun _ => h
  exact within_ite (fun _ => within_updFarm h rfl) fun _ =>
    within_ite (fun _ => within_updFarm read rfl) fun _ => within_classifyFrame _ _ _ read

theorem within_becomeGiant (r : RxFrame) (h : s.WithinMemory) : (becomeGiant r s).WithinMemory := by
  have counted := within_setRxKind (.dropped .silent) (within_bump h .giants)
  unfold becomeGiant
  split
  · exact h
  · exact h
  · exact within_setRxKind _ h
  · exact within_failArriving _ _ counted
  · exact counted

theorem within_takeByte (r : RxFrame) (b : Byte) (h : s.WithinMemory) : (takeByte r b s).WithinMemory := by
  have set : ∀ x, (s.updFarm fun f => { f with rx := x }).WithinMemory := fun _ => within_updFarm h rfl
  unfold takeByte
  dsimp only
  split
  · exact h
  · exact set _
  · split
    · exact within_storeByte _ _ _ _ (set _)
    · exact set _
  · exact within_ite (fun _ => within_judgeFrame _ (set _)) fun _ => set _
  · exact set _

theorem within_farmByte (b : Byte) (h : s.WithinMemory) : (farmByte b s).WithinMemory := by
  have set : ∀ x, (s.updFarm fun f => { f with rx := x }).WithinMemory := fun _ => within_updFarm h rfl
  unfold farmByte
  exact within_ite (fun _ => within_takeByte _ b h) fun _ => within_ite (fun _ => within_becomeGiant _ (set _)) fun _ => set _

theorem within_countFailure (v : Verdict) (h : s.WithinMemory) : (countFailure v s).WithinMemory := by
  cases v
  · exact h
  · exact within_bump h _
  · exact within_bump h _

theorem within_takeLink (r : RxFrame) (h : s.WithinMemory) : (takeLink r s).WithinMemory := by
  unfold takeLink
  exact within_ite (fun _ => within_updFarm (within_bump h _) rfl) fun _ => within_bump h _

theorem within_endGood (c : ClassIx) (h : s.WithinMemory) : (endGood c s).WithinMemory :=
  within_bump (within_setQueue_le h (queueBlocks_mapArriving (f := fun f => { f with ended := true }) (fun _ => rfl) _).le) _

theorem within_frameEnd (r : RxFrame) (h : s.WithinMemory) : (frameEnd r s).WithinMemory := by
  have cleared : (s.updFarm fun f => { f with rx := none }).WithinMemory := within_updFarm h rfl
  unfold frameEnd
  dsimp only
  generalize s.updFarm _ = x at cleared ⊢
  have received := within_bump cleared .framesReceived
  split
  · exact cleared
  · exact cleared
  · exact received
  · exact cleared
  · exact received
  · exact within_countFailure _ cleared
  · exact received
  · exact within_countFailure _ cleared
  · exact within_takeLink r received
  · exact within_countFailure _ cleared
  · exact within_controlArrive (within_bump received _) _ _
  · exact within_countFailure _ cleared
  · exact within_endGood _ received
  · exact within_failArriving _ _ (within_countFailure _ cleared)

theorem within_beginTx (x : FarmTx) (h : s.WithinMemory) : (beginTx x s).WithinMemory := by
  have begun : (s.updFarm fun f => { f with tx := some x }).WithinMemory := within_updFarm h rfl
  unfold beginTx
  dsimp only
  split
  · exact begun
  · exact within_updCtl begun _
  · exact within_updCtl begun _

theorem within_recordSent (w : List Byte) (h : s.WithinMemory) : (recordSent w s).WithinMemory := within_bump (within_updFarm h rfl) _

/-- A frame sent frees its blocks (R96). -/
theorem within_dequeue (h : s.WithinMemory) : (s.updFarm fun f => { f with outQueue := f.outQueue.tail }).WithinMemory :=
  within_of_le h le_rfl le_rfl (Nat.add_le_add_left
    (List.Sublist.sum_le_sum (List.Sublist.map _ (List.tail_sublist _)) fun _ _ => Nat.zero_le _) _)

theorem within_endTx (x : FarmTx) (h : s.WithinMemory) : (endTx x s).WithinMemory := by
  have sent : ∀ w, (recordSent w s).WithinMemory := fun w => within_recordSent w h
  unfold endTx
  dsimp only
  split
  · exact within_headProcess (within_dequeue (sent _))
  · split
    · exact within_updCtl (within_updCtl (sent _) _) _
    · exact within_updCtl (sent _) _
  · exact within_updCtl (sent _) _

/-! ### Table memory and the event unit -/

theorem within_digestBefore (r : TRef) (h : s.WithinMemory) : (digestBefore r s).WithinMemory := by
  unfold digestBefore digestFinds
  exact within_ite (fun _ => within_ite (fun _ => within_updTables (within_touch (within_drawFree h) r) _)
    fun _ => within_drawFree h) fun _ => h

theorem within_storeShadow (r : TRef) (v : Word) (h : s.WithinMemory) : (storeShadow r v s).WithinMemory := by
  unfold storeShadow
  exact within_updTables (within_digestBefore r h) _

theorem within_enableKind (v : Word) (s : State) (i : Fin 15) (h : s.WithinMemory) : (enableKind v s i).WithinMemory :=
  within_ite (fun _ => within_newPending (within_updEvents h _)) fun _ => within_updEvents h _

theorem within_storeEnable (v : Word) (h : s.WithinMemory) : (storeEnable v s).WithinMemory := within_foldl (within_enableKind v) _ h

theorem within_storeGate (v : Word) (h : s.WithinMemory) : (storeGate v s).WithinMemory := by
  unfold storeGate
  exact within_updTables h _

theorem within_storeKeep (b : Fin 2) (v : Word) (h : s.WithinMemory) : (storeKeep b v s).WithinMemory := by
  unfold storeKeep
  exact within_updCtl h _

theorem within_storePairCounter (p : PairIx) (i : Fin 10) (v : Word) (h : s.WithinMemory) :
    (storePairCounter p i v s).WithinMemory := by
  unfold storePairCounter
  exact within_port h rfl rfl

theorem within_storePlace (v : Word) (p : Place) (h : s.WithinMemory) : (storePlace v p s).1.WithinMemory := by
  unfold storePlace
  split
  · exact within_storeShadow _ v h
  · exact within_storeShadow _ v h
  · exact within_storeShadow _ v h
  · exact within_storeGate v h
  · exact within_storePairCounter _ _ v h
  · exact within_of_same h rfl rfl rfl rfl rfl
  · dsimp only
    exact within_updTables h _
  · exact within_updTables h _
  · exact within_updTables h _
  · exact within_storeEnable v h
  · exact within_storeKeep _ v h
  · exact h

theorem within_feedWords (as : List Nat) (acc : State × Nat × Bool) (h : acc.1.WithinMemory) :
    (as.foldl feedWord acc).1.WithinMemory := by
  induction as generalizing acc with
  | nil => exact h
  | cons a as ih =>
    refine ih (feedWord acc a) ?_
    unfold feedWord
    dsimp only
    split
    · exact within_touch h _
    · exact h

theorem within_endDigest (st : DigestState) (w : Word) (d : Bool) (h : s.WithinMemory) : (endDigest st w d s).WithinMemory :=
  within_raiseEvent (within_updTables h _) _ _

theorem within_digestEnds (h : s.WithinMemory) : (digestEnds s).WithinMemory := by
  have feeds : (feedAll s).1.WithinMemory := within_feedWords _ (s, crc32Init, false) h
  unfold digestEnds
  generalize feedAll s = x at feeds ⊢
  obtain ⟨x, c, d⟩ := x
  exact within_ite (fun _ => within_endDigest _ _ _ (within_drawFree feeds)) fun _ => within_endDigest _ _ _ feeds

theorem within_memoryError (r : TRef) (two : Bool) (h : s.WithinMemory) : (memoryError r two s).WithinMemory :=
  within_ite (fun _ => h) fun _ => within_updTables h _

theorem within_intervalEnd (h : s.WithinMemory) : (intervalEnd s).WithinMemory := by
  have cleared := within_updEvents h fun e => { e with owed := false }
  unfold intervalEnd
  exact within_ite (fun _ => within_sendNotice (within_touchGroup (within_updEvents cleared _) _)) fun _ => within_touchGroup cleared _

/-! ### The control engine -/

theorem within_ite_state {x y : Outcome} {b : Prop} [Decidable b] (hx : b → x.state.WithinMemory) (hy : ¬b → y.state.WithinMemory) :
    (if b then x else y).state.WithinMemory := by
  split
  · next h => exact hx h
  · next h => exact hy h

theorem within_outcomes {α : Type} {f : Outcome → α → Outcome}
    (hf : ∀ (x : Outcome) a, x.state.WithinMemory → (f x a).state.WithinMemory) (l : List α)
    {x : Outcome} (h : x.state.WithinMemory) : (l.foldl f x).state.WithinMemory := by
  induction l generalizing x with
  | nil => exact h
  | cons a l ih => exact ih (hf x a h)

theorem within_meetPlace (p : Place) (h : s.WithinMemory) : (meetPlace p s).WithinMemory := by
  unfold meetPlace
  split
  · exact within_useWord h _
  · exact h

theorem within_gateWrite (o : Origin) (as : List Nat) (h : s.WithinMemory) : (gateWrite o as s).1.WithinMemory := by
  cases o with
  | line => exact h
  | farm => exact within_ite (fun _ => within_useWord h _) fun _ => h

theorem within_gateFlagTest (o : Origin) (i : Nat) (h : s.WithinMemory) : (gateFlagTest o i s).1.WithinMemory := by
  cases o with
  | line => exact h
  | farm => exact within_useWord h _

section requests

variable (o : Origin) (r : Request)

theorem within_answerVacant (n : Nat) (h : s.WithinMemory) : (answerVacant o r n s).state.WithinMemory := within_raiseEvent h _ _

theorem within_runRead (h : s.WithinMemory) : (runRead o r s).state.WithinMemory :=
  within_ite_state (fun _ => h) fun _ => within_ite_state (fun _ => within_answerVacant o r _ h) fun _ =>
    within_outcomes (fun _ a hx => within_meetPlace (placeAt a) hx) _ h

theorem within_runWrite (h : s.WithinMemory) : (runWrite o r s).state.WithinMemory := by
  have gate := within_gateWrite o (blockAddrs r.addr.toNat r.words) h
  exact within_ite_state (fun _ => h) fun _ => within_ite_state (fun _ => within_answerVacant o r _ h) fun _ =>
    within_ite_state (fun _ => gate) fun _ => within_outcomes (fun _ a hx => within_storePlace a.2 (placeAt a.1) hx) _ gate

theorem within_runOneWord (n : Nat) (f : NewWord) (h : s.WithinMemory) : (runOneWord n f o r s).state.WithinMemory := by
  have gate := within_gateWrite o [r.addr.toNat] h
  refine within_ite_state (fun _ => h) fun _ => within_ite_state (fun _ => within_answerVacant o r _ h) fun _ => ?_
  dsimp only
  refine within_ite_state (fun _ => gate) fun _ => ?_
  have met := within_meetPlace (placeOf r.addr) gate
  split
  · exact met
  · refine within_ite_state (fun _ => met) fun _ => ?_
    split
    · exact met
    · exact within_storePlace _ _ met

theorem within_runCommit (h : s.WithinMemory) : (runCommit o r s).state.WithinMemory := by
  have gate := within_gateFlagTest o 4 h
  exact within_ite_state (fun _ => h) fun _ => within_ite_state (fun _ => gate) fun _ => within_ite_state (fun _ => gate)
    fun _ => within_epochTest (within_updTables gate _)

theorem within_runDigest (h : s.WithinMemory) : (runDigest r s).state.WithinMemory :=
by
  unfold runDigest
  exact within_ite_state (fun _ => h) fun _ => within_ite_state (fun _ => h) fun _ => within_ite_state (fun _ => h)
    fun _ => by dsimp only; exact within_updTables h _

theorem within_runEventNext (h : s.WithinMemory) : (runEventNext r s).state.WithinMemory := by
  refine within_ite_state (fun _ => h) fun _ => ?_
  split
  · exact h
  · dsimp only
    exact within_updEvents h _

theorem within_runPairRestart (h : s.WithinMemory) : (runPairRestart o r s).state.WithinMemory := by
  have gate := within_gateFlagTest o 5 h
  unfold runPairRestart
  refine within_ite_state (fun _ => h) fun _ => ?_
  split
  · exact within_ite_state (fun _ => gate) fun _ => within_restartPair _ gate
  · exact h

theorem within_recordRestart (k : RestartKind) (n : Option Nat) (h : s.WithinMemory) : (recordRestart k n s).WithinMemory := by
  unfold recordRestart
  exact within_updCtl h _

theorem within_runEventClear (h : s.WithinMemory) : (runEventClear r s).state.WithinMemory := by
  unfold runEventClear
  exact within_ite_state (fun _ => h) fun _ => by dsimp only; exact within_updEvents h _

theorem within_runRestart (k : RestartKind) (i : Nat) (n : Option Nat) (h : s.WithinMemory) :
    (runRestart k i o n r s).state.WithinMemory := by
  have gate := within_gateFlagTest o i h
  exact within_ite_state (fun _ => h) fun _ => within_ite_state (fun _ => gate) fun _ => within_recordRestart _ _ gate

theorem within_setBox (b : Fin 2) (m : Mailbox) (h : s.WithinMemory) : (setBox b m s).WithinMemory := within_updCtl h _

theorem within_runBoxPost (h : s.WithinMemory) : (runBoxPost o r s).state.WithinMemory := by
  refine within_ite_state (fun _ => h) fun _ => ?_
  split
  · exact h
  · exact within_ite_state (fun _ => h) fun _ => within_ite_state (fun _ => h) fun _ => within_raiseEvent (within_setBox _ _ h) _ _

theorem within_runBoxTake (h : s.WithinMemory) : (runBoxTake o r s).state.WithinMemory := by
  refine within_ite_state (fun _ => h) fun _ => ?_
  split
  · exact h
  · exact within_ite_state (fun _ => h) fun _ => within_ite_state (fun _ => h) fun _ =>
      within_ite (fun _ => h) fun _ => within_setBox _ _ h

theorem within_runBoxRelease (h : s.WithinMemory) : (runBoxRelease o r s).state.WithinMemory := by
  refine within_ite_state (fun _ => h) fun _ => ?_
  split
  · exact h
  · exact within_ite_state (fun _ => h) fun _ => within_ite_state (fun _ => h) fun _ => within_setBox _ _ h

theorem within_runKind (k : ReqKind) (n : Option Nat) (h : s.WithinMemory) : (runKind k o n r s).state.WithinMemory := by
  cases k with
  | read => exact within_runRead o r h
  | write => exact within_runWrite o r h
  | writePosted => exact within_runWrite o r h
  | maskWrite => exact within_runOneWord o r _ _ h
  | maskWritePosted => exact within_runOneWord o r _ _ h
  | swapIf => exact within_runOneWord o r _ _ h
  | addSat => exact within_runOneWord o r _ _ h
  | addSatPosted => exact within_runOneWord o r _ _ h
  | commit => exact within_runCommit o r h
  | digest => exact within_runDigest r h
  | eventNext => exact within_runEventNext r h
  | eventClear => exact within_runEventClear r h
  | pairRestart => exact within_runPairRestart o r h
  | groupRestart => exact within_runRestart o r _ _ n h
  | partReset => exact within_runRestart o r _ _ n h
  | boxPost => exact within_runBoxPost o r h
  | boxTake => exact within_runBoxTake o r h
  | boxRelease => exact within_runBoxRelease o r h

theorem within_request (k : ReqKind) (n : Option Nat) (h : s.WithinMemory) : (request k o n r s).1.WithinMemory := by
  have runs := within_runKind o r k n h
  unfold request
  dsimp only
  split
  · exact within_settleOwed (within_ite (fun _ => runs) fun _ => within_raiseEvent runs _ _)
  · exact within_settleOwed runs

end requests

theorem within_single (k : ReqKind) (t : Nat) (o : Origin) (tag : Byte) (a : Word) (n : Nat) (data : List Byte) (h : s.WithinMemory) :
    (single k t o tag a n data s).WithinMemory :=
  within_finish (within_updCtl (within_request o _ k none (within_atTime h t)) _)

theorem within_frameRequests (o : Origin) (n : Option Nat) (rs : List Request) (acc : State × List Record) (h : acc.1.WithinMemory) :
    (rs.foldl (frameRequest o n) acc).1.WithinMemory := by
  induction rs generalizing acc with
  | nil => exact h
  | cons r rs ih =>
    refine ih (frameRequest o n acc r) ?_
    unfold frameRequest
    split
    · exact h
    · exact within_request o r _ n h

theorem within_handOn (o : Origin) (b : List Byte) (n : Nat) (h : s.WithinMemory) : (handOn o b n s).WithinMemory := by
  have offered := within_admitInternal h b (some n)
  cases o with
  | farm => dsimp only [handOn]; exact within_updCtl h _
  | line => exact within_ite (fun _ => offered) fun _ => within_updCtl offered _

theorem within_respond (f : CtlFrame) (st : Status) (rs : List Record) (h : s.WithinMemory) : (respond f st rs s).WithinMemory := by
  unfold respond
  exact within_updCtl (within_handOn _ _ _ (within_updCtl (within_touchGroup (within_touchGroup h 0x0E) 0x0F) _)) _

theorem within_executeFrame (f : CtlFrame) (h : s.WithinMemory) : (executeFrame f s).WithinMemory := by
  unfold executeFrame
  split
  · exact within_respond f _ _ (within_bump h _)
  · next rs _ => exact within_respond f _ _ (within_frameRequests f.origin _ rs (s, []) h)

/-! ### Commits -/

theorem within_restartBoundReads (s : State) (i : Fin 19) (h : s.WithinMemory) : (restartBoundReads s i).WithinMemory :=
  within_ite (fun _ => within_touch (within_touch h _) _) fun _ => within_touch h _

theorem within_commitCopy (h : s.WithinMemory) : (commitCopy s).WithinMemory :=
  within_updTables (within_touchAll (within_foldl within_restartBoundReads [0, 1] h) _) _

theorem within_commitDone (h : s.WithinMemory) : (commitDone s).WithinMemory := within_raiseEvent (within_updTables h _) _ _

theorem within_noticesAfterCommit (n : Nat) (o : Option Nat) (h : s.WithinMemory) : (noticesAfterCommit n o s).WithinMemory := by
  have read := within_touchGroup h 0x12
  exact within_ite (fun _ => within_updEvents read _) fun _ => within_ite
    (fun _ => within_ite (fun _ => within_sendNotice read) fun _ => within_updEvents read _) fun _ => read

theorem within_makeMove (keep : Bool) (p : PairIx) (m : CommitMove) (h : s.WithinMemory) : (makeMove keep p m s).WithinMemory := by
  cases m with
  | stay => exact h
  | retrain => exact within_port h (f := fun pp => ({ pp with state := .down }).command .retrain) rfl rfl
  | activate => exact within_toActive p h
  | probation => exact within_port h (f := fun pp => pp.enterProbation s.now) rfl rfl
  | drain =>
    have read := within_touchGroup h 0x07
    unfold makeMove beginDrain
    exact within_drainCheck p (within_port read rfl rfl)
  | off c => exact within_depart _ _ _ _ _ _ h

theorem within_touchMoves (h : s.WithinMemory) : (touchMoves s).WithinMemory := by
  have reads : ∀ {x : State} {b : Prop} [Decidable b] (i : Fin 19), x.WithinMemory → (if b then touchGroup i x else x).WithinMemory :=
    fun i hx => within_ite (fun _ => within_touchGroup hx i) fun _ => hx
  exact within_touchGroup (reads _ (reads _ (within_touchAll h _))) _

theorem within_movePairs (h : s.WithinMemory) : (movePairs s).WithinMemory := by
  have met := within_touchMoves h
  unfold movePairs
  dsimp only
  generalize touchMoves s = x at met ⊢
  exact within_foldl (f := fun s (m : PairIx × CommitMove) => makeMove x.upAfterCommit m.1 m.2 s)
    (fun _ m hx => within_makeMove _ m.1 m.2 hx) _ met

theorem within_guardAfterCommit (s : State) (p : PairIx) (h : s.WithinMemory) : (guardAfterCommit s p).WithinMemory := by
  unfold guardAfterCommit
  exact within_ite (fun _ => within_guard h p _) fun _ => h

theorem within_guardsAfterCommit (h : s.WithinMemory) : (guardsAfterCommit s).WithinMemory := by
  have read := within_ite (b := (allPairs.any fun p => (s.pair p).guard.locked) = true) (fun _ => within_touchGroup h 0x08) fun _ => h
  unfold guardsAfterCommit
  dsimp only
  generalize (if allPairs.any _ = true then _ else _) = x at read ⊢
  exact within_foldl within_guardAfterCommit allPairs read

theorem within_applyCommit (h : s.WithinMemory) : (applyCommit s).WithinMemory := by
  have copied := within_noticesAfterCommit s.noticeSides s.events.lastNotice (within_commitDone (within_commitCopy h))
  have moved := within_evaluateGroup (within_guardsAfterCommit (within_movePairs copied))
  exact within_attempt (within_ite (fun _ => within_testsN _ moved) fun _ => moved)

/-! ### Restarts and resets -/

theorem within_restartOne (s : State) (p : PairIx) (h : s.WithinMemory) : (restartOne s p).WithinMemory := by
  unfold restartOne
  exact within_guard (within_ite (fun _ => h) fun _ => within_toDown p _ h) p _

theorem within_copyRestartBound (i : Fin 19) (h : s.WithinMemory) : (copyRestartBound i s).WithinMemory :=
  within_updTables (within_touch h _) _

theorem within_groupRestartNow (h : s.WithinMemory) : (groupRestartNow s).WithinMemory := by
  have down := within_setGroup (within_foldl within_restartOne allPairs h) false
  have flushed := within_flushClassifier (within_clearDistributor down)
  unfold groupRestartNow
  dsimp only
  generalize flushClassifier _ = x at flushed ⊢
  have idle := within_updReas (within_updDist flushed (f := fun d => { d with nextGsn := 0 }) le_rfl) (f := Reassembler.toIdle)
    (Nat.zero_le _)
  exact within_raiseEvent (within_touchGroup (within_copyRestartBound 1 (within_copyRestartBound 0 idle)) 0x02) _ _

/-- After a reset nothing is held. -/
theorem within_resetAt (now : Nat) (straps : BitVec 5) (s : State) : (resetAt now straps s).WithinMemory where
  slots := by
    have ports : ∀ p, ((resetAt now straps s).pair p).held = 0 := fun p => congrArg PairPort.held (powerUp_pair straps p)
    rw [heldSlots_eq]
    simp only [ports, Finset.sum_const_zero]
    exact Nat.zero_le _
  upstream := by
    have queues : ∀ c, (resetAt now straps s).classBlocks c = 0 := fun c => congrArg queueBlocks (powerUp_queue straps c)
    simp only [queues]
    exact Nat.zero_le _
  downstream := Nat.zero_le _

/-! ### Every command -/

/-- Any next state of an outcome is within memory. -/
def AnswersWithin (o : Host.Outcome State Fault Refusal) : Prop := ∀ t, o = .next t → t.WithinMemory

theorem State.WithinMemory.answers (h : s.WithinMemory) : AnswersWithin (.next s) := fun _ e => by cases e; exact h

/-- A command that ends with the distributor's work. -/
theorem State.WithinMemory.finished (h : s.WithinMemory) : AnswersWithin (.next (finish s)) := (within_finish h).answers

theorem answersWithin_ite {x y : Host.Outcome State Fault Refusal} {b : Prop} [Decidable b] (hx : b → AnswersWithin x)
    (hy : ¬b → AnswersWithin y) : AnswersWithin (if b then x else y) := by
  split
  · next h => exact hx h
  · next h => exact hy h

section pairs

variable (tm : Nat) (p : PairIx) (h : s.WithinMemory)
include h

theorem answersWithin_trainStart : AnswersWithin (execTrainStart tm p s) := by
  have timed := within_atTime h tm
  unfold execTrainStart
  dsimp only
  split
  · exact timed.finished
  · exact timed.finished
  · exact (within_pairChanged (within_port timed rfl rfl)).finished
  · exact (within_lose p _ timed).finished

theorem answersWithin_up (u d : Nat) : AnswersWithin (execUp tm p u d s) := by
  have timed := within_atTime h tm
  unfold execUp
  dsimp only
  split
  · exact timed.finished
  · exact (within_enterService p u d timed).finished
  · exact (within_enterService p u d timed).finished
  · exact (within_takeRate p u d timed).finished

theorem answersWithin_down : AnswersWithin (execDown tm p s) := by
  have timed := within_atTime h tm
  unfold execDown
  dsimp only
  split
  · exact timed.finished
  · exact timed.finished
  · exact (within_lose p _ timed).finished

theorem answersWithin_ready : AnswersWithin (execReady tm p s) := by
  have timed := within_atTime h tm
  have met := within_touchHandOff p timed
  exact answersWithin_ite (fun _ => answersWithin_ite (fun _ => (within_handOut p met).finished) fun _ => met.finished)
    fun _ => timed.finished

theorem answersWithin_silence : AnswersWithin (execSilence tm p s) := by
  have timed := within_atTime h tm
  have read := within_ite (b := ((s.atTime tm).pair p).state.running = true) (fun _ => within_useGroup timed 0x05) fun _ => timed
  exact answersWithin_ite (fun _ => (within_lose p _ read).finished) fun _ => read.finished

theorem answersWithin_replayTimeout : AnswersWithin (execReplayTimeout tm p s) := by
  have timed := within_atTime h tm
  have read := within_ite (b := ((s.atTime tm).pair p).waiting.isSome = true) (fun _ => within_useGroup timed 0x04) fun _ => timed
  unfold execReplayTimeout
  dsimp only
  split
  · exact (within_attempt (within_port read rfl rfl)).finished
  · exact read.finished

theorem answersWithin_guardWindowOpen : AnswersWithin (execGuardWindowOpen tm p s) := by
  have timed := within_atTime h tm
  have read := within_ite (b := ((s.atTime tm).pair p).guard.awaitsWindow.isSome = true) (fun _ => within_useGroup timed 0x08)
    fun _ => timed
  unfold execGuardWindowOpen
  dsimp only
  split
  · exact (within_attempt (within_openWindow p _ read)).finished
  · exact read.finished

theorem answersWithin_guardWindowEnd : AnswersWithin (execGuardWindowEnd tm p s) := by
  have timed := within_atTime h tm
  unfold execGuardWindowEnd
  dsimp only
  split
  · exact (within_attempt (within_closeWindow p _ timed)).finished
  · exact timed.finished

end pairs

section blocks

variable (tm : Nat) (h : s.WithinMemory)
include h

theorem answersWithin_farmFrameEnd : AnswersWithin (execFarmFrameEnd tm s) := by
  have timed := within_atTime h tm
  unfold execFarmFrameEnd
  dsimp only
  split
  · exact (within_frameEnd _ timed).finished
  · exact timed.finished

theorem answersWithin_farmTransmitStart : AnswersWithin (execFarmTransmitStart tm s) := by
  have timed := within_atTime h tm
  unfold execFarmTransmitStart
  dsimp only
  split
  · exact (within_beginTx _ timed).finished
  · exact timed.finished

theorem answersWithin_farmTransmitEnd : AnswersWithin (execFarmTransmitEnd tm s) := by
  have timed := within_atTime h tm
  unfold execFarmTransmitEnd
  dsimp only
  split
  · exact (within_endTx _ timed).finished
  · exact timed.finished

theorem answersWithin_resyncDeadline : AnswersWithin (execResyncDeadline tm s) := by
  have timed := within_atTime h tm
  unfold execResyncDeadline
  dsimp only
  split
  · exact (within_resyncNow _ timed).finished
  · exact timed.finished

theorem answersWithin_shadowTableWrite (a v : Word) : AnswersWithin (execShadowTableWrite tm a v s) := by
  have timed := within_atTime h tm
  unfold execShadowTableWrite
  dsimp only
  split
  · exact (within_storeShadow _ v timed).finished
  · exact (within_storeShadow _ v timed).finished
  · exact (within_storeShadow _ v timed).finished
  · exact timed.finished

theorem answersWithin_tableMemoryError (a : Word) (two : Bool) : AnswersWithin (execTableMemoryError tm a two s) := by
  have timed := within_atTime h tm
  unfold execTableMemoryError
  dsimp only
  split
  · exact (within_memoryError _ two timed).finished
  · exact timed.finished

theorem answersWithin_controlFrameExecute : AnswersWithin (execControlFrameExecute tm s) := by
  have timed := within_atTime h tm
  unfold execControlFrameExecute
  dsimp only
  split
  · exact (within_executeFrame _ timed).finished
  · exact timed.finished

end blocks

/-- Every command keeps what is held within memory. -/
theorem answersWithin_exec (c : Instr) (h : s.WithinMemory) : AnswersWithin (exec c s) := by
  have timed : ∀ tm, (s.atTime tm).WithinMemory := within_atTime h
  cases c with
  | powerUpReset straps => exact (within_resetAt 0 straps s).answers
  | trainStart tm p => exact answersWithin_trainStart tm p h
  | up tm p u d => exact answersWithin_up tm p h u d
  | rate tm p u d => exact answersWithin_ite (fun _ => (within_takeRate p u d (timed tm)).finished) fun _ => (timed tm).finished
  | down tm p => exact answersWithin_down tm p h
  | ready tm p => exact answersWithin_ready tm p h
  | received tm p bytes => exact answersWithin_ite (fun _ => (within_receive p bytes (timed tm)).finished) fun _ => (timed tm).finished
  | probationTimeExpiry tm p => exact (within_examine p (timed tm)).finished
  | silence tm p => exact answersWithin_silence tm p h
  | replayTimeout tm p => exact answersWithin_replayTimeout tm p h
  | drainLimit tm p =>
    exact answersWithin_ite (fun _ => (within_pairChanged (within_toOff p _ (timed tm))).finished) fun _ => (timed tm).finished
  | guardWindowOpen tm p => exact answersWithin_guardWindowOpen tm p h
  | guardWindowEnd tm p => exact answersWithin_guardWindowEnd tm p h
  | farmByteArrival tm b => exact (within_farmByte b (timed tm)).finished
  | farmFrameEnd tm => exact answersWithin_farmFrameEnd tm h
  | pauseEnd tm => exact answersWithin_ite (fun _ => (within_updFarm (timed tm) rfl).finished) fun _ => (timed tm).finished
  | farmTransmitStart tm => exact answersWithin_farmTransmitStart tm h
  | farmTransmitEnd tm => exact answersWithin_farmTransmitEnd tm h
  | rerouteAgeLimit tm => exact answersWithin_ite (fun _ => (within_attempt (timed tm)).finished) fun _ => (timed tm).finished
  | holdDeadline tm =>
    exact answersWithin_ite (fun _ => (within_testsN _ (within_declareGap (timed tm) _)).finished) fun _ => (timed tm).finished
  | resyncDeadline tm => exact answersWithin_resyncDeadline tm h
  | suspensionEnd tm =>
    exact answersWithin_ite (fun _ => (within_testShortcut (within_updReas (timed tm) le_rfl)).finished) fun _ => (timed tm).finished
  | commitApply tm => exact answersWithin_ite (fun _ => (within_applyCommit (timed tm)).finished) fun _ => (timed tm).finished
  | digestDone tm => exact answersWithin_ite (fun _ => (within_digestEnds (timed tm)).finished) fun _ => (timed tm).finished
  | controlFrameExecute tm => exact answersWithin_controlFrameExecute tm h
  | read tm o tag a len => exact (within_single .read tm o tag a len [] h).answers
  | write tm o tag a data => exact (within_single .write tm o tag a _ data h).answers
  | writePosted tm o tag a data => exact (within_single .writePosted tm o tag a _ data h).answers
  | maskWrite tm o tag a data => exact (within_single .maskWrite tm o tag a _ data h).answers
  | maskWritePosted tm o tag a data => exact (within_single .maskWritePosted tm o tag a _ data h).answers
  | swapIf tm o tag a data => exact (within_single .swapIf tm o tag a _ data h).answers
  | addSat tm o tag a data => exact (within_single .addSat tm o tag a _ data h).answers
  | addSatPosted tm o tag a data => exact (within_single .addSatPosted tm o tag a _ data h).answers
  | commit tm o tag a data => exact (within_single .commit tm o tag a _ data h).answers
  | digest tm o tag a data => exact (within_single .digest tm o tag a _ data h).answers
  | eventNext tm o tag a data => exact (within_single .eventNext tm o tag a _ data h).answers
  | eventClear tm o tag a data => exact (within_single .eventClear tm o tag a _ data h).answers
  | pairRestart tm o tag a data => exact (within_single .pairRestart tm o tag a _ data h).answers
  | groupRestart tm o tag a data => exact (within_single .groupRestart tm o tag a _ data h).answers
  | partReset tm o tag a data => exact (within_single .partReset tm o tag a _ data h).answers
  | boxPost tm o tag a data => exact (within_single .boxPost tm o tag a _ data h).answers
  | boxTake tm o tag a data => exact (within_single .boxTake tm o tag a _ data h).answers
  | boxRelease tm o tag a data => exact (within_single .boxRelease tm o tag a _ data h).answers
  | shadowTableWrite tm a v => exact answersWithin_shadowTableWrite tm h a v
  | gateRecordWrite tm v => exact (within_updTables (timed tm) _).finished
  | eccStatusWrite tm second v => exact (within_storePlace v _ (timed tm)).finished
  | eventEnableWrite tm v => exact (within_storeEnable v (timed tm)).finished
  | keepFlagWrite tm b v => exact (within_updCtl (timed tm) _).finished
  | counterWrite tm a v => exact (within_storePlace v _ (timed tm)).finished
  | groupRestartEffect tm =>
    exact answersWithin_ite (fun _ => (within_groupRestartNow (within_updCtl (timed tm) _)).finished) fun _ => (timed tm).finished
  | partResetEffect tm straps =>
    exact answersWithin_ite (fun _ => (within_resetAt _ straps _).answers) fun _ => (timed tm).finished
  | noticeIntervalEnd tm => exact answersWithin_ite (fun _ => (within_intervalEnd (timed tm)).finished) fun _ => (timed tm).finished
  | tableMemoryError tm a two => exact answersWithin_tableMemoryError tm h a two

/-- Settles O7: every command keeps within memory, whether taken from the queue or due. -/
theorem stepKeepsWithinMemory : Obligations.StepKeepsWithinMemory := by
  intro s t h run
  unfold step at run
  split at run
  · next c rest _ => exact answersWithin_exec c (s := { s with pending := rest }) (within_of_same h rfl rfl rfl rfl rfl) t run
  · split at run
    · next c _ _ => exact answersWithin_exec c h t run
    · cases run; exact h

end Sys2Proof.Machine
end

section
/-! PROOFS of the family 04, fifth layer: what the group's fall leaves in the class queues, the reassembler and the farm port on sound
table memory (R65, R71, R94, R122). Settles O44. -/

namespace Sys2Proof.Machine

variable {s t u : State}

/-- The farm output queue is kept, and the class queues and the reassembler stay as they are but for the suspension. -/
structure FallKept (s t : State) : Prop where
  queues : t.queues = s.queues
  outQueue : t.farm.outQueue = s.farm.outQueue
  reas : t.reas = { s.reas with suspension := t.reas.suspension }
  tables : t.tables = s.tables
  groupUp : t.groupUp = s.groupUp

theorem FallKept.refl (s : State) : FallKept s s := ⟨rfl, rfl, rfl, rfl, rfl⟩

theorem FallKept.trans (h : FallKept s t) (k : FallKept t u) : FallKept s u where
  queues := k.queues.trans h.queues
  outQueue := k.outQueue.trans h.outQueue
  reas := by rw [k.reas, h.reas]
  tables := k.tables.trans h.tables
  groupUp := k.groupUp.trans h.groupUp

theorem Tallied.fallKept (h : Tallied s t) : FallKept s t := by
  obtain ⟨c, rs, rfl⟩ := h
  exact ⟨rfl, rfl, rfl, rfl, rfl⟩

theorem fallKept_giveUp (p : PairIx) (keep : Bool) (s : State) : FallKept s (giveUp p keep s) := by
  obtain ⟨l, -, tally⟩ := giveUp_shape p keep s
  have emptied : FallKept s ((s.updPair p PairPort.emptied).updDist fun d => { d with reroute := l }) := ⟨rfl, rfl, rfl, rfl, rfl⟩
  exact emptied.trans tally.fallKept

theorem fallKept_raiseEvent (k : EventKind) (d : Detail) (h : s.tables.Sound) (down : s.groupUp = false) :
    FallKept s (raiseEvent k d s) := by
  have reported := onlyReported_raiseEvent k d s
  exact ⟨raiseEvent_queues_down k d h down, congrArg FarmPort.outQueue reported.farm, by rw [reported.reas],
    raiseEvent_tables k d h, reported.groupUp⟩

theorem fallKept_suspendShortcut (h : s.tables.Sound) : FallKept s (suspendShortcut s) := by
  rw [suspendShortcut_sound h]
  exact ⟨rfl, rfl, rfl, rfl, rfl⟩

/-- A departure with the group DOWN adds nothing to a class queue. -/
theorem fallKept_depart (p : PairIx) (left target : PairState) (cause : Cause) (cmd : XcvrCmd) (keep : Bool) (h : s.tables.Sound)
    (down : s.groupUp = false) : FallKept s (depart p left target cause cmd keep s) := by
  have given : FallKept s (departPort p target cause cmd keep s) :=
    (fallKept_giveUp p keep s).trans ⟨rfl, rfl, rfl, rfl, rfl⟩
  have raised := given.trans (fallKept_raiseEvent .pairDown (detail1 (byteFields p.val cause.code left.code 0))
    (given.tables.symm ▸ h) (given.groupUp.trans down))
  change FallKept s (if left.running then suspendShortcut (raiseEvent .pairDown _ (departPort p target cause cmd keep s)) else
    raiseEvent .pairDown _ (departPort p target cause cmd keep s))
  split
  · exact raised.trans (fallKept_suspendShortcut (raised.tables.symm ▸ h))
  · exact raised

theorem fallKept_drainChecks (ps : List PairIx) (h : s.tables.Sound) (down : s.groupUp = false) :
    FallKept s (ps.foldl (fun s p => drainCheck p s) s) := by
  induction ps generalizing s with
  | nil => exact .refl s
  | cons p ps ih =>
    have first : FallKept s (drainCheck p s) := by
      unfold drainCheck
      split
      · exact fallKept_depart _ _ _ _ _ _ h down
      · exact .refl s
    exact first.trans (ih (first.tables.symm ▸ h) (first.groupUp.trans down))

theorem fallKept_giveUps (ps : List PairIx) (s : State) : FallKept s (ps.foldl (fun s p => giveUp p false s) s) := by
  induction ps generalizing s with
  | nil => exact .refl s
  | cons p ps ih => exact (fallKept_giveUp p false s).trans (ih _)

/-- The stores cleared: the class queues empty, the farm output queue kept (R71, R122). -/
theorem cleared_queues (h : s.tables.Sound) :
    (∀ c, (cleared s).queue c = []) ∧ (cleared s).farm.outQueue = s.farm.outQueue := by
  have given := fallKept_giveUps allPairs s
  unfold cleared
  generalize allPairs.foldl (fun s p => giveUp p false s) s = x at given ⊢
  have lost : (clearDistributor x).farm.outQueue = x.farm.outQueue :=
    (tallied_clearDistributor (s := x) (given.tables.symm ▸ h)).fallKept.outQueue
  obtain ⟨queues, out⟩ := flushClassifier_queue (clearDistributor x)
  generalize flushClassifier (clearDistributor x) = y at queues out ⊢
  exact ⟨queues, (out.trans lost).trans given.outQueue⟩

/-- The class queues, the reassembler and the farm output queue after the group's fall. -/
theorem fallBlocks_stores (h : s.tables.Sound) (down : s.groupUp = false) :
    (∀ c, (fallBlocks s).queue c = []) ∧ (fallBlocks s).farm.outQueue = s.farm.outQueue
      ∧ (fallBlocks s).reas = { s.reas.toIdle with suspension := (fallBlocks s).reas.suspension } := by
  obtain ⟨tidies, -, -, idle⟩ := cleared_spec s
  obtain ⟨queues, out⟩ := cleared_queues h
  have tables := tidies.toBlockFrame.sound h
  have clearDown := tidies.groupUp.trans down
  rw [fallBlocks_eq]
  generalize cleared s = x at *
  have drains := fallKept_drainChecks allPairs (s := x) (tables.symm ▸ h) clearDown
  generalize allPairs.foldl (fun s p => drainCheck p s) x = y at *
  refine ⟨fun c => ?_, drains.outQueue.trans out, by rw [drains.reas, idle]⟩
  unfold State.queue
  rw [drains.queues]
  exact queues c

/-- What the group's fall leaves of them, its event raised with the group already DOWN (R71, R94, R122). -/
theorem groupFall_stores (h : s.tables.Sound) :
    (∀ c, (groupFall s).queue c = []) ∧ (groupFall s).farm.outQueue = s.farm.outQueue
      ∧ (groupFall s).reas = { s.reas.toIdle with suspension := (groupFall s).reas.suspension } := by
  have fall : groupFall s = fallBlocks (raiseGroupDown .pairs (s.setGroup false)) := by
    unfold groupFall
    simp only [h.group, Bool.false_eq_true, if_false]
  have kept : FallKept (s.setGroup false) (raiseGroupDown .pairs (s.setGroup false)) := fallKept_raiseEvent _ _ (by exact h) rfl
  rw [fall]
  generalize raiseGroupDown .pairs (s.setGroup false) = x at kept ⊢
  obtain ⟨queues, out, idle⟩ := fallBlocks_stores (kept.tables.symm ▸ h) kept.groupUp
  generalize fallBlocks x = y at queues out idle ⊢
  exact ⟨queues, out.trans kept.outQueue, idle.trans (by rw [kept.reas]; rfl)⟩

/-- Settles O44: neither the fall's event nor a drain it ends puts a frame into a class queue after the flush. -/
theorem groupFallEmpties : Obligations.GroupFallEmpties := by
  intro s h
  obtain ⟨dist, down⟩ := groupFall_dist s
  obtain ⟨queues, out, idle⟩ := groupFall_stores h
  have tables := (settles_groupFall s).toBlockFrame.sound h
  have event := event_groupFall s (k := .groupDown) ⟨by decide, by decide⟩ (.inl (by decide))
  rw [if_pos rfl, h.group] at event
  refine ⟨down, fun p => ?_, fun p draining => ?_, fun p other => ?_, dist, queues, ?_, ?_, ?_, out, tables, event⟩
  · obtain ⟨queue, store⟩ := (s.pair p).holdsNone_fallen
    rw [groupFall_pair]
    refine ⟨queue, store, ?_⟩
    unfold PairPort.fallen
    split <;> rfl
  · rw [groupFall_pair, PairPort.fallen, if_pos draining]
    exact ⟨rfl, rfl⟩
  · rw [groupFall_pair, PairPort.fallen_of_ne other]
    rfl
  all_goals rw [idle]; rfl

end Sys2Proof.Machine
end

section
/-! PROOFS of the family 04, sixth layer: the farm port's pause and transmissions on sound table memory (R57, R59, R96, R104, R146, R155,
R162). Settles O37. -/

namespace Sys2Proof.Machine

variable {s t u : State}

/-! ### Updates with equal results -/

theorem State.updCtl_congr {f g : ControlEngine → ControlEngine} (h : f s.ctl = g s.ctl) : s.updCtl f = s.updCtl g := by
  unfold State.updCtl; rw [h]

theorem State.updFarm_congr {f g : FarmPort → FarmPort} (h : f s.farm = g s.farm) : s.updFarm f = s.updFarm g := by
  unfold State.updFarm; rw [h]

/-! ### The reassembler does not count frames as sent -/

theorem bump_framesSent (s : State) {c : GroupCtr} (h : c ≠ .framesSent) : (s.bump c).counter .framesSent = s.counter .framesSent :=
  State.bump_counter_ne s c _ h.symm

theorem touchGroup_framesSent (i : Fin 19) (s : State) : (touchGroup i s).counter .framesSent = s.counter .framesSent :=
  (onlyReported_touch (.group .active i) s).counters _ (by decide)

theorem controlArrive_framesSent (o : Origin) (b : List Byte) (s : State) :
    (controlArrive o b s).counter .framesSent = s.counter .framesSent := by
  unfold controlArrive
  split
  · rfl
  · exact bump_framesSent s (by decide)

theorem deliver_framesSent (b : List Byte) (n : Nat) (s : State) : (deliver b n s).counter .framesSent = s.counter .framesSent := by
  unfold deliver
  dsimp only
  have met : (if longEnough b && frameType b == controlType then touchGroup 0x0F (touchGroup 0x0E s) else s).counter .framesSent
      = s.counter .framesSent := by
    split
    · exact (touchGroup_framesSent _ _).trans (touchGroup_framesSent _ _)
    · rfl
  generalize (if longEnough b && frameType b == controlType then touchGroup 0x0F (touchGroup 0x0E s) else s) = x at met ⊢
  split
  · exact (bump_framesSent _ (by decide)).trans ((controlArrive_framesSent _ _ _).trans met)
  · exact (bump_framesSent _ (by decide)).trans met

theorem takeComplete_framesSent (g : Gsn) (es : List Entry) (s : State) :
    (takeComplete g es s).counter .framesSent = s.counter .framesSent := by
  unfold takeComplete
  dsimp only
  split
  · exact bump_framesSent _ (by decide)
  · split
    · exact bump_framesSent _ (by decide)
    · exact deliver_framesSent _ _ _

theorem headStep_framesSent (h : headStep s = some t) : t.counter .framesSent = s.counter .framesSent := by
  unfold headStep at h
  split at h
  · split at h
    · cases h
    · split at h
      · split at h <;> cases h <;> rfl
      · split at h
        · cases h; exact bump_framesSent _ (by decide)
        · split at h
          · cases h; exact bump_framesSent _ (by decide)
          · cases h; exact takeComplete_framesSent _ _ s
          · split at h <;> cases h
            exact bump_framesSent _ (by decide)
  · cases h

theorem headLoop_framesSent (n : Nat) (s : State) : (headLoop n s).counter .framesSent = s.counter .framesSent := by
  induction n generalizing s with
  | zero => rfl
  | succ n ih =>
    unfold headLoop
    split
    · rfl
    · next h => exact (ih _).trans (headStep_framesSent h)

theorem declareGap_framesSent (cause : GapCause) (s : State) : (declareGap cause s).counter .framesSent = s.counter .framesSent := by
  have caused : cause.counter ≠ .framesSent := by cases cause <;> decide
  unfold declareGap processHead
  split
  · rfl
  · refine (headLoop_framesSent _ _).trans ((bump_framesSent _ caused).trans ?_)
    split
    · rfl
    · exact bump_framesSent _ (by decide)

theorem setHold_framesSent (s : State) : (setHold s).counter .framesSent = s.counter .framesSent := by
  unfold setHold
  split
  · split
    · rfl
    · exact touchGroup_framesSent 0x03 s
  · rfl

theorem testsN_framesSent (n : Nat) (s : State) : (testsN n s).counter .framesSent = s.counter .framesSent := by
  induction n generalizing s with
  | zero => rfl
  | succ n ih =>
    unfold testsN
    split
    · exact (ih _).trans (declareGap_framesSent _ s)
    · dsimp only
      split
      · exact (ih _).trans ((declareGap_framesSent _ _).trans (setHold_framesSent s))
      · exact setHold_framesSent s

theorem headProcess_framesSent (s : State) : (headProcess s).counter .framesSent = s.counter .framesSent := by
  unfold headProcess
  dsimp only
  split
  · exact (testsN_framesSent _ _).trans (headLoop_framesSent _ s)
  · exact headLoop_framesSent _ s

/-! ### What may begin -/

theorem paused_eq_false : s.paused = false ↔ ∀ e, s.farm.pauseEnd = some e → e ≤ s.now := by
  unfold State.paused
  cases s.farm.pauseEnd <;> simp

theorem pauseOver_of {e : Nat} (pause : s.farm.pauseEnd = some e) (past : e ≤ s.now) : s.pauseOver = true := by
  unfold State.pauseOver
  rw [pause]
  exact decide_eq_true past

theorem nextTx_response {r : RespSlot} {rest : List FarmSlot} (order : s.ctl.farmOrder = .response :: rest)
    (slot : s.ctl.respSlot = some r) : s.nextTx = some (.response (wireFrame r.bytes)) := by
  unfold State.nextTx; rw [order, slot]; rfl

theorem nextTx_notice {n : NoticeSlot} {rest : List FarmSlot} (order : s.ctl.farmOrder = .notice :: rest)
    (slot : s.ctl.noticeSlot = some n) : s.nextTx = some (.notice (wireFrame n.bytes)) := by
  unfold State.nextTx; rw [order, slot]; rfl

theorem nextTx_queued {f : OutFrame} {rest : List OutFrame} (order : s.ctl.farmOrder = [])
    (queue : s.farm.outQueue = f :: rest) : s.nextTx = some (.queued (wireFrame f.bytes)) := by
  unfold State.nextTx; rw [order, queue]; rfl

/-- A transmission is begun where none is under way, no pause runs and a frame waits (R59). -/
theorem canTransmit_free (free : s.farm.tx = none) (running : ∀ e, s.farm.pauseEnd = some e → e ≤ s.now) :
    s.canTransmit = s.nextTx := by
  unfold State.canTransmit
  rw [free, paused_eq_false.mpr running]
  rfl

theorem canTransmit_none (h : s.farm.tx ≠ none ∨ (∃ e, s.farm.pauseEnd = some e ∧ s.now < e)
    ∨ (s.ctl.farmOrder = [] ∧ s.farm.outQueue = [])) : s.canTransmit = none := by
  unfold State.canTransmit
  obtain busy | ⟨e, pause, later⟩ | ⟨order, queue⟩ := h
  · rw [if_pos (by simp [Option.isSome_iff_ne_none.mpr busy])]
  · rw [if_pos]
    simp [State.paused, pause, later]
  · have nothing : s.nextTx = none := by unfold State.nextTx; rw [order, queue]; rfl
    rw [nothing, ite_self]

/-! ### The commands -/

theorem exec_farmTransmitStart_some {tm : Nat} {x : FarmTx} (h : (s.atTime tm).canTransmit = some x) :
    exec (.farmTransmitStart tm) s = .next (finish (beginTx x (s.atTime tm))) := by
  change execFarmTransmitStart tm s = _
  unfold execFarmTransmitStart
  dsimp only
  rw [h]

theorem exec_farmTransmitStart_none {tm : Nat} (h : (s.atTime tm).canTransmit = none) :
    exec (.farmTransmitStart tm) s = .next (finish (s.atTime tm)) := by
  change execFarmTransmitStart tm s = _
  unfold execFarmTransmitStart
  dsimp only
  rw [h]

theorem exec_farmTransmitEnd_some {tm : Nat} {x : FarmTx} (h : s.farm.tx = some x) :
    exec (.farmTransmitEnd tm) s = .next (finish (endTx x (s.atTime tm))) := by
  change execFarmTransmitEnd tm s = _
  unfold execFarmTransmitEnd
  dsimp only
  rw [State.atTime_farm, h]

theorem exec_pauseEnd_over {tm e : Nat} (pause : s.farm.pauseEnd = some e) (past : e ≤ max s.now tm) :
    exec (.pauseEnd tm) s = .next (finish ((s.atTime tm).updFarm fun f => { f with pauseEnd := none })) := by
  change execPauseEnd tm s = _
  unfold execPauseEnd
  exact if_pos (pauseOver_of (s := s.atTime tm) pause past)

theorem beginTx_response (w : List Byte) {rest : List FarmSlot} (order : s.ctl.farmOrder = .response :: rest) :
    beginTx (.response w) s
      = (s.updFarm fun f => { f with tx := some (.response w) }).updCtl fun c => { c with farmOrder := rest } := by
  unfold beginTx
  refine State.updCtl_congr ?_
  simp only [State.updFarm_ctl, order, List.tail_cons]

theorem beginTx_notice (w : List Byte) {n : NoticeSlot} {rest : List FarmSlot} (order : s.ctl.farmOrder = .notice :: rest)
    (slot : s.ctl.noticeSlot = some n) :
    beginTx (.notice w) s = (s.updFarm fun f => { f with tx := some (.notice w) }).updCtl fun c =>
      { c with farmOrder := rest, noticeSlot := some { n with sending := true } } := by
  unfold beginTx
  refine State.updCtl_congr ?_
  simp only [State.updFarm_ctl, order, slot, List.tail_cons, Option.map_some]

theorem endTx_response (w : List Byte) {r : RespSlot} (slot : s.ctl.respSlot = some r) :
    endTx (.response w) s = (recordSent w s).updCtl fun c =>
      { c with respSlot := none
               restarts := c.restarts.map fun y => if y.awaits = some r.resp then { y with awaits := none } else y } := by
  have held : (recordSent w s).ctl.respSlot = some r := slot
  unfold endTx
  dsimp only
  rw [held]
  rfl

theorem endTx_notice (w : List Byte) {n : NoticeSlot} (slot : s.ctl.noticeSlot = some n) :
    endTx (.notice w) s = (recordSent w s).updCtl fun c => { c with noticeSlot := if n.sending then none else some n } := by
  unfold endTx
  refine State.updCtl_congr ?_
  have held : (recordSent w s).ctl.noticeSlot = some n := slot
  rw [held]
  rfl

/-- The end of a transmission frees the farm port, records the bytes and counts them; a response has left its slot (R59, R146). -/
theorem endTx_spec (h : s.tables.Sound) (x : FarmTx) :
    (endTx x s).tables = s.tables ∧ (endTx x s).farm.tx = none ∧ (endTx x s).farm.sent = s.farm.sent ++ [x.wire]
      ∧ (endTx x s).counter .framesSent = satInc32 (s.counter .framesSent)
      ∧ (∀ w, x = .response w → (endTx x s).ctl.respSlot = none) := by
  have counted : ∀ w, (recordSent w s).counter .framesSent = satInc32 (s.counter .framesSent) :=
    fun w => State.bump_counter_same _ _
  cases x with
  | queued w =>
    have work := reasWork_headProcess ((recordSent w s).updFarm fun f => { f with outQueue := f.outQueue.tail })
    exact ⟨(work.sound h).1, congrArg FarmPort.tx work.farm, congrArg FarmPort.sent work.farm,
      (headProcess_framesSent _).trans (counted w), fun w' e => FarmTx.noConfusion e⟩
  | response w =>
    unfold endTx
    dsimp only
    split <;> exact ⟨rfl, rfl, rfl, counted w, fun _ _ => rfl⟩
  | notice w => exact ⟨rfl, rfl, rfl, counted w, fun w' e => FarmTx.noConfusion e⟩

/-- Settles O37: every command of the farm port's transmission is one change followed by the distributor's work. -/
theorem farmTransmission : Obligations.FarmTransmission := by
  intro s tm wire h wired
  subst wired
  have timed : (s.atTime tm).tables.Sound := h
  refine ⟨fun e pause past => ?_, fun free running => ⟨fun r rest order slot => ?_, fun n rest order slot => ?_,
    fun f rest order queue => ?_⟩, fun none => ?_, fun x sent under isSent => ?_⟩
  · exact ⟨_, exec_pauseEnd_over pause past, onlyPlaced_finish (by exact h)⟩
  · have begins := (canTransmit_free (s := s.atTime tm) free running).trans (nextTx_response order slot)
    refine ⟨_, exec_farmTransmitStart_some begins, ?_⟩
    rw [beginTx_response (s := s.atTime tm) _ order]
    exact onlyPlaced_finish (by exact h)
  · have begins := (canTransmit_free (s := s.atTime tm) free running).trans (nextTx_notice order slot)
    refine ⟨_, exec_farmTransmitStart_some begins, ?_⟩
    rw [beginTx_notice (s := s.atTime tm) _ order slot]
    exact onlyPlaced_finish (by exact h)
  · have begins := (canTransmit_free (s := s.atTime tm) free running).trans (nextTx_queued order queue)
    exact ⟨_, exec_farmTransmitStart_some begins, onlyPlaced_finish (by exact h)⟩
  · exact ⟨_, exec_farmTransmitStart_none (canTransmit_none (s := s.atTime tm) none), onlyPlaced_finish timed⟩
  · obtain ⟨tables, freed, recorded, counted, left⟩ := endTx_spec timed x
    have placed := onlyPlaced_finish (s := endTx x (s.atTime tm)) (tables.symm ▸ timed)
    obtain ⟨rs, ctl⟩ := placed.frame.ctl
    subst isSent
    refine ⟨_, exec_farmTransmitEnd_some under, fun w isQueued => ?_, fun w r isResponse slot => ?_, fun w n isNotice slot => ?_, ?_, ?_, ?_,
      fun w isResponse => ?_⟩
    · subst isQueued
      exact placed
    · subst isResponse
      rw [endTx_response (s := s.atTime tm) _ slot] at placed ⊢
      exact placed
    · subst isNotice
      rw [endTx_notice (s := s.atTime tm) _ slot] at placed ⊢
      exact placed
    · rw [placed.frame.farm, freed]
    · rw [placed.frame.farm, recorded]
      rfl
    · rw [placed.frame.counters _ (by decide), counted]
      rfl
    · rw [ctl]
      exact left w isResponse

end Sys2Proof.Machine
end

section
/-! PROOFS of the family 04, seventh layer: a frame that fails as it arrives, and the end of a farm frame, on sound table memory (R56..R58,
R64, R69, R71..R73, R143). Settles O36. -/

namespace Sys2Proof.Machine

variable {s t u : State}

/-! ### The frame still arriving -/

section arriving

variable {before : List QFrame} {a : QFrame} (sound : ∀ q ∈ before, q.ended = true) (arriving : a.ended = false)
include sound arriving

theorem find_arriving : ((before ++ [a]).find? fun f => !f.ended) = some a := by
  rw [List.find?_append, List.find?_eq_none.mpr (by simpa using sound)]
  simp [arriving]

theorem arrivingUncut_append : arrivingUncut (before ++ [a]) = a.uncut := by
  unfold arrivingUncut; rw [find_arriving sound arriving]

theorem arrivingStored_append : arrivingStored (before ++ [a]) = a.stored := by
  unfold arrivingStored; rw [find_arriving sound arriving]

theorem withoutArriving_append : withoutArriving (before ++ [a]) = before := by
  simp [withoutArriving, List.filter_append, List.filter_eq_self.mpr sound, arriving]

theorem mapArriving_append (f : QFrame → QFrame) : mapArriving f (before ++ [a]) = before ++ [f a] := by
  induction before with
  | nil => simp [mapArriving, arriving]
  | cons q before ih =>
    have ended := sound q List.mem_cons_self
    simp only [List.cons_append, mapArriving, ended, if_true]
    rw [ih fun x hx => sound x (List.mem_cons_of_mem _ hx)]

end arriving

/-- The arriving frame is the distributor's only where no other frame stands before it and none of its final cut or failure is due. -/
theorem arrivingTaken_none {c : ClassIx} {before : List QFrame} {a : QFrame} (sound : ∀ q ∈ before, q.ended = true)
    (queue : s.queue c = before ++ [a])
    (free : before ≠ [] ∨ ∀ f, s.dist.fip = some f → f.cls = c → f.finalCut = true ∨ f.voidTail ≠ none) :
    s.arrivingTaken c = none := by
  unfold State.arrivingTaken
  rw [queue]
  cases held : s.dist.fip with
  | none => rfl
  | some f =>
    cases before with
    | cons q before => simp [sound q List.mem_cons_self]
    | nil =>
      have due := free.resolve_left (by simp) f held
      simp only [List.nil_append, List.head?_cons]
      refine if_neg fun ⟨cls, more, valid, _⟩ => ?_
      obtain final | failed := due cls
      · simp [final] at more
      · exact failed (by simpa using valid)

theorem arrivingTaken_some {c : ClassIx} {f : Fip} (h : s.arrivingTaken c = some f) :
    f.cls = c ∧ f.finalCut = false ∧ f.voidTail = none := by
  unfold State.arrivingTaken at h
  split at h
  · split at h
    · next taken =>
      cases h
      obtain ⟨cls, more, valid, -⟩ := taken
      exact ⟨cls, by simpa using more, by simpa using valid⟩
    · cases h
  · cases h

/-! ### A frame that fails as it arrives (R69) -/

/-- What the failure of the arriving frame of class `c` makes of its queue and of the distributor, before the attempt a freed slot
brings. -/
def failedArrival (c : ClassIx) (tail : List Byte) (s : State) : State :=
  match s.arrivingTaken c with
  | none => s.setQueue c (withoutArriving (s.queue c))
  | some f =>
    if f.placedAny then
      (s.setQueue c (mapArriving (fun q => { q with ended := true, failed := true }) (s.queue c))).updDist fun d =>
        { d with fip := some { f with voidTail := some (tail.take f.size) } }
    else (s.setQueue c (withoutArriving (s.queue c))).updDist fun d => { d with fip := none }

/-- One queue and the frame in progress are all it touches. -/
theorem failedArrival_shape (c : ClassIx) (tail : List Byte) (s : State) :
    ∃ q f, failedArrival c tail s = (s.setQueue c q).updDist fun d => { d with fip := f } := by
  unfold failedArrival
  split
  · exact ⟨_, s.dist.fip, rfl⟩
  · split <;> exact ⟨_, _, rfl⟩

theorem failedArrival_sound (c : ClassIx) (tail : List Byte) (h : s.tables.Sound) : (failedArrival c tail s).tables.Sound := by
  obtain ⟨q, f, shape⟩ := failedArrival_shape c tail s
  rw [shape]; exact h

theorem onlyPlaced_failArriving (c : ClassIx) (tail : List Byte) (h : s.tables.Sound) :
    OnlyPlaced (failedArrival c tail s) (failArriving c tail s) := by
  unfold failedArrival failArriving
  cases s.arrivingTaken c with
  | none => exact .refl
  | some f =>
    dsimp only
    have dropped : ((s.setQueue c (withoutArriving (s.queue c))).updDist fun d => { d with fip := none }).tables.Sound := h
    rw [epochTest_sound dropped]
    cases f.placedAny with
    | true => exact .refl
    | false =>
      rw [if_neg Bool.false_ne_true, if_neg Bool.false_ne_true]
      cases f.pendingFrag.isSome with
      | true => exact onlyPlaced_attempt dropped
      | false => exact .refl

/-- A failure leaves table memory, the farm port and the counters of reception alone. -/
theorem failArriving_frame (c : ClassIx) (tail : List Byte) (h : s.tables.Sound) :
    (failArriving c tail s).tables = s.tables ∧ (failArriving c tail s).farm = s.farm
      ∧ ∀ k, k ∉ workCounters → (failArriving c tail s).counter k = s.counter k := by
  obtain ⟨q, f, shape⟩ := failedArrival_shape c tail s
  have frame := (onlyPlaced_failArriving c tail h).frame
  rw [shape] at frame
  exact ⟨frame.tables, frame.farm, frame.counters⟩

/-- The failure is one of the three the rules allow. -/
theorem arrivingFailed_failedArrival {c : ClassIx} {before : List QFrame} {a : QFrame} (tail : List Byte)
    (queue : s.queue c = before ++ [a]) (sound : ∀ q ∈ before, q.ended = true) (arriving : a.ended = false) :
    ArrivingFailed s c tail (failedArrival c tail s) := by
  unfold failedArrival
  split
  · next none =>
    rw [queue, withoutArriving_append sound arriving]
    refine .waiting before a queue sound arriving ?_
    by_contra! free
    obtain ⟨rfl, f, held, cls, more, valid⟩ := free
    have taken : s.arrivingTaken c = some f := by
      unfold State.arrivingTaken
      rw [queue, held]
      simp [cls, more, valid, arriving]
    simp [taken] at none
  · next f taken =>
    obtain ⟨cls, more, valid⟩ := arrivingTaken_some taken
    have alone : before = [] := by
      by_contra others
      simp [arrivingTaken_none sound queue (.inl others)] at taken
    subst alone
    have held := arrivingTaken_fip taken
    split
    · next placed =>
      rw [queue, mapArriving_append sound arriving]
      exact .void f a queue arriving held cls more valid placed
    · next unplaced =>
      rw [queue, withoutArriving_append sound arriving]
      exact .dropped f a queue arriving held cls more valid (by simpa using unplaced)

/-- A failure, and the distributor's work after it. -/
theorem exists_arrivingFailed {c : ClassIx} {before : List QFrame} {a : QFrame} (tail : List Byte) (h : s.tables.Sound)
    (queue : s.queue c = before ++ [a]) (sound : ∀ q ∈ before, q.ended = true) (arriving : a.ended = false) :
    ∃ u, ArrivingFailed s c tail u ∧ OnlyPlaced u (finish (failArriving c tail s)) := by
  have failed := onlyPlaced_failArriving c tail h
  exact ⟨_, arrivingFailed_failedArrival tail queue sound arriving,
    failed.trans (onlyPlaced_finish (failed.sound (failedArrival_sound c tail h)))⟩

/-! ### The verdict -/

theorem RxFrame.verdict_runt {r : RxFrame} (short : r.count < 64) : r.verdict = .runt := if_pos short

theorem RxFrame.verdict_good {r : RxFrame} (long : 64 ≤ r.count) (fcs : r.check = (wordBytes (crc32Out r.crc)).reverse) :
    r.verdict = .good := (if_neg (Nat.not_lt.mpr long)).trans (if_pos fcs)

theorem RxFrame.verdict_fcsError {r : RxFrame} (long : 64 ≤ r.count) (fcs : r.check ≠ (wordBytes (crc32Out r.crc)).reverse) :
    r.verdict = .fcsError := (if_neg (Nat.not_lt.mpr long)).trans (if_neg fcs)

theorem RxFrame.verdict_bad {r : RxFrame} (h : r.count < 64 ∨ r.check ≠ (wordBytes (crc32Out r.crc)).reverse) : r.verdict ≠ .good := by
  by_cases short : r.count < 64
  · rw [verdict_runt short]; decide
  · rw [verdict_fcsError (Nat.not_lt.mp short) (h.resolve_left short)]; decide

/-! ### The end of a frame, by kind and verdict -/

/-- The frame being received gone. -/
def rxCleared (s : State) : State := s.updFarm fun f => { f with rx := none }

section kinds

variable {r : RxFrame} (s)

/-- A frame judged bad that is in no class queue is counted by what failed. -/
theorem frameEnd_failed (kind : r.kind ∈ [RxKind.head, .link, .control, .dropped .table]) (bad : r.verdict ≠ .good) :
    frameEnd r s = countFailure r.verdict (rxCleared s) := by
  simp only [List.mem_cons, List.not_mem_nil, or_false] at kind
  unfold frameEnd
  obtain kind | kind | kind | kind := kind <;>
  · rw [kind]
    cases verdict : r.verdict with
    | good => exact absurd verdict bad
    | runt => rfl
    | fcsError => rfl

theorem frameEnd_good (kind : r.kind ∈ [RxKind.head, .dropped .table, .dropped .lack]) (good : r.verdict = .good) :
    frameEnd r s = (rxCleared s).bump .framesReceived := by
  simp only [List.mem_cons, List.not_mem_nil, or_false] at kind
  unfold frameEnd
  obtain kind | kind | kind := kind <;> rw [kind, good] <;> rfl

theorem frameEnd_lack (kind : r.kind = .dropped .lack) (bad : r.verdict ≠ .good) : frameEnd r s = rxCleared s := by
  unfold frameEnd
  rw [kind]
  cases verdict : r.verdict with
  | good => exact absurd verdict bad
  | runt => rfl
  | fcsError => rfl

theorem frameEnd_ignored (kind : r.kind ∈ [RxKind.dropped .silent, .abandoned]) : frameEnd r s = rxCleared s := by
  simp only [List.mem_cons, List.not_mem_nil, or_false] at kind
  unfold frameEnd
  obtain kind | kind := kind <;> rw [kind] <;> rfl

theorem frameEnd_link (kind : r.kind = .link) (good : r.verdict = .good) :
    frameEnd r s = takeLink r ((rxCleared s).bump .framesReceived) := by
  unfold frameEnd; rw [kind, good]; rfl

theorem frameEnd_control (kind : r.kind = .control) (good : r.verdict = .good) :
    frameEnd r s = controlArrive .farm r.held (((rxCleared s).bump .framesReceived).bump .controlFrames) := by
  unfold frameEnd; rw [kind, good]; rfl

theorem frameEnd_upstream {c : ClassIx} (kind : r.kind = .upstream c) (good : r.verdict = .good) :
    frameEnd r s = endGood c ((rxCleared s).bump .framesReceived) := by
  unfold frameEnd; rw [kind, good]; rfl

theorem frameEnd_upstream_failed {c : ClassIx} (kind : r.kind = .upstream c) (bad : r.verdict ≠ .good) :
    frameEnd r s = failArriving c (arrivingUncut (s.queue c)) (countFailure r.verdict (rxCleared s)) := by
  unfold frameEnd
  rw [kind]
  cases verdict : r.verdict with
  | good => exact absurd verdict bad
  | runt => rfl
  | fcsError => rfl

end kinds

theorem countFailure_frame (v : Verdict) (s : State) :
    (countFailure v s).tables = s.tables ∧ (countFailure v s).farm = s.farm := by
  cases v <;> exact ⟨rfl, rfl⟩

theorem controlArrive_frame (o : Origin) (b : List Byte) (s : State) :
    (controlArrive o b s).tables = s.tables ∧ (controlArrive o b s).farm = s.farm := by
  unfold controlArrive; split <;> exact ⟨rfl, rfl⟩

theorem takeLink_frame (r : RxFrame) (s : State) : (takeLink r s).tables = s.tables ∧ (takeLink r s).farm.rx = s.farm.rx := by
  unfold takeLink; dsimp only; split <;> exact ⟨rfl, rfl⟩

theorem failArriving_cleared (c : ClassIx) (tail : List Byte) (v : Verdict) (h : s.tables.Sound) :
    (failArriving c tail (countFailure v (rxCleared s))).tables = s.tables
      ∧ (failArriving c tail (countFailure v (rxCleared s))).farm.rx = none := by
  obtain ⟨counted, same⟩ := countFailure_frame v (rxCleared s)
  obtain ⟨tables, farm, -⟩ := failArriving_frame c tail (counted.symm ▸ h : (countFailure v (rxCleared s)).tables.Sound)
  exact ⟨tables.trans counted, congrArg FarmPort.rx (farm.trans same)⟩

/-- At its end the frame being received is gone, whatever it was. -/
theorem frameEnd_frame (r : RxFrame) (h : s.tables.Sound) : (frameEnd r s).tables = s.tables ∧ (frameEnd r s).farm.rx = none := by
  have counted : ∀ v, (countFailure v (rxCleared s)).tables = s.tables ∧ (countFailure v (rxCleared s)).farm.rx = none := fun v => by
    obtain ⟨tables, farm⟩ := countFailure_frame v (rxCleared s)
    exact ⟨tables, congrArg FarmPort.rx farm⟩
  unfold frameEnd
  dsimp only
  split
  case h_9 => exact takeLink_frame r _
  case h_6 | h_8 | h_10 | h_12 => exact counted _
  case h_11 =>
    obtain ⟨tables, farm⟩ := controlArrive_frame .farm r.held (((rxCleared s).bump .framesReceived).bump .controlFrames)
    exact ⟨tables, congrArg FarmPort.rx farm⟩
  case h_14 => exact failArriving_cleared _ _ _ h
  all_goals exact ⟨rfl, rfl⟩

/-- A frame of fewer than 64 bytes, dropped frames apart, is a runt and no more (R56, R69). -/
theorem frameEnd_runt {r : RxFrame} (h : s.tables.Sound)
    (kind : r.kind = .head ∨ r.kind = .link ∨ r.kind = .control ∨ ∃ c, r.kind = .upstream c) (short : r.count < 64) :
    (frameEnd r s).counter .runts = satInc32 (s.counter .runts)
      ∧ (frameEnd r s).counter .framesReceived = s.counter .framesReceived := by
  have runt := RxFrame.verdict_runt short
  have bad : r.verdict ≠ .good := by rw [runt]; decide
  have counts : (countFailure r.verdict (rxCleared s)).counter .runts = satInc32 (s.counter .runts)
      ∧ (countFailure r.verdict (rxCleared s)).counter .framesReceived = s.counter .framesReceived := by
    rw [runt]
    exact ⟨State.bump_counter_same _ _, State.bump_counter_ne _ _ _ (by decide)⟩
  obtain kind | kind | kind | ⟨c, kind⟩ := kind
  · rw [frameEnd_failed s (by simp [kind]) bad]; exact counts
  · rw [frameEnd_failed s (by simp [kind]) bad]; exact counts
  · rw [frameEnd_failed s (by simp [kind]) bad]; exact counts
  · rw [frameEnd_upstream_failed s kind bad]
    have kept := (failArriving_frame (s := countFailure r.verdict (rxCleared s)) c (arrivingUncut (s.queue c))
      ((countFailure_frame _ _).1.symm ▸ h)).2.2
    exact ⟨(kept _ (by decide)).trans counts.1, (kept _ (by decide)).trans counts.2⟩

/-- FARM_FRAME_END of a frame being received. -/
theorem exec_farmFrameEnd {tm : Nat} {r : RxFrame} (rx : s.farm.rx = some r) :
    exec (.farmFrameEnd tm) s = .next (finish (frameEnd r (s.atTime tm))) := by
  change execFarmFrameEnd tm s = _
  unfold execFarmFrameEnd
  dsimp only
  rw [State.atTime_farm, rx]

theorem admitted_not_work (c : ClassIx) : GroupCtr.admitted c ∉ workCounters := by simp [workCounters]

/-- Settles O36: the end of a frame by its kind and its verdict, then the distributor's work, which counts nothing of reception. -/
theorem farmFrameEnds : Obligations.FarmFrameEnds := by
  intro s tm r ended h rx isEnded
  have isCleared : ended = rxCleared (s.atTime tm) := isEnded
  subst isCleared
  have timed : (s.atTime tm).tables.Sound := h
  obtain ⟨tables, cleared⟩ := frameEnd_frame r timed
  have placed : OnlyPlaced (frameEnd r (s.atTime tm)) (finish (frameEnd r (s.atTime tm))) := onlyPlaced_finish (tables.symm ▸ timed)
  have counters := placed.frame.counters
  obtain ⟨rs, ctl⟩ := placed.frame.ctl
  refine ⟨_, exec_farmFrameEnd rx, (congrArg FarmPort.rx placed.frame.farm).trans cleared, fun c kind good => ?_,
    fun c before a kind fcs queue sound arriving => ?_, fun kind good room => ?_, fun kind good full => ?_, fun kind good pause => ?_,
    fun kind short => ?_, fun kind => ⟨fun short => ?_, fun long fcs => ?_⟩, fun kind long fcs => ?_, fun kind bad => ?_, fun kind => ?_⟩
  · rw [frameEnd_upstream (s.atTime tm) kind good] at placed counters ⊢
    refine ⟨(counters _ (by decide)).trans ?_, (counters _ (admitted_not_work c)).trans ?_, fun before a queue sound arriving => ?_⟩
    · exact (State.bump_counter_ne _ _ _ (by simp)).trans (State.bump_counter_same _ _)
    · exact (State.bump_counter_same _ _).trans (congrArg satInc32 (State.bump_counter_ne (rxCleared (s.atTime tm)) _ _ (by simp)))
    · have queued : ((rxCleared (s.atTime tm)).bump .framesReceived).queue c = before ++ [a] := queue
      unfold endGood at placed ⊢
      rw [queued, mapArriving_append sound arriving] at placed ⊢
      exact placed
  · have bad : r.verdict ≠ .good := by rw [fcs]; decide
    rw [frameEnd_upstream_failed _ kind bad, fcs, show (s.atTime tm).queue c = before ++ [a] from queue,
      arrivingUncut_append sound arriving]
    exact exists_arrivingFailed (s := (rxCleared (s.atTime tm)).bump .fcsErrors) _ h queue sound arriving
  · rw [ctl, frameEnd_control _ kind good]
    unfold controlArrive
    rw [if_pos (by exact room)]
    rfl
  · refine ⟨?_, (counters _ (by decide)).trans ?_⟩
    · rw [ctl, frameEnd_control _ kind good]
      unfold controlArrive
      rw [if_neg (by exact Nat.not_lt.mpr full)]
      rfl
    · rw [frameEnd_control _ kind good]
      unfold controlArrive
      rw [if_neg (by exact Nat.not_lt.mpr full), State.bump_counter_same, State.bump_counter_ne _ _ _ (by decide),
        State.bump_counter_ne _ _ _ (by decide)]
      rfl
  · refine ⟨?_, (counters _ (by decide)).trans ?_⟩
    · rw [placed.frame.farm, frameEnd_link _ kind good]
      unfold takeLink
      dsimp only
      rw [if_pos pause]
      rfl
    · rw [frameEnd_link _ kind good]
      unfold takeLink
      dsimp only
      rw [if_pos pause]
      exact (State.bump_counter_same ((rxCleared (s.atTime tm)).bump .framesReceived) .pauseRequests).trans
        (congrArg satInc32 (State.bump_counter_ne (rxCleared (s.atTime tm)) _ _ (by decide)))
  · obtain ⟨runts, received⟩ := frameEnd_runt timed kind short
    exact ⟨(counters _ (by decide)).trans runts, (counters _ (by decide)).trans received⟩
  · have runt := RxFrame.verdict_runt short
    rw [frameEnd_failed _ kind (by rw [runt]; decide), runt] at placed ⊢
    exact placed
  · have error := RxFrame.verdict_fcsError long fcs
    rw [frameEnd_failed _ kind (by rw [error]; decide), error] at placed ⊢
    exact placed
  · rw [frameEnd_good _ kind (RxFrame.verdict_good long fcs)] at placed ⊢
    exact placed
  · rw [frameEnd_lack _ kind (RxFrame.verdict_bad bad)] at placed ⊢
    exact placed
  · rw [frameEnd_ignored _ kind] at placed ⊢
    exact placed

end Sys2Proof.Machine
end

section
/-! PROOFS of the family 04, eighth layer: the bytes of a farm frame on sound table memory: the judgement at byte 18, the class lookup,
storing and giants (R55..R58, R60, R61, R63, R69, R72). Settles O35. -/

namespace Sys2Proof.Machine

variable {s t u : State}

/-! ### The class lookup (R61) -/

/-- A valid matching entry, as the lookup tests its two words. -/
theorem entryMatches_iff (bs : List Byte) (i : Fin 64) :
    s.entryMatches bs i ↔ (bitAt (s.tables.get (.cls .active i 0)).val 31
      && clsMatches (s.tables.get (.cls .active i 0)).val (s.tables.get (.cls .active i 1)).val bs) = true := by
  unfold State.entryMatches
  generalize (s.tables.get (.cls .active i 0)).val = w0
  generalize (s.tables.get (.cls .active i 1)).val = w1
  have value : fieldAt w0 0 16 * 4294967296 + w1.toNat = clsValue w0 w1 := by
    unfold clsValue addressOf; rfl
  have below : fieldAt w0 24 2 < 4 := Nat.mod_lt _ (by decide)
  rw [Bool.and_eq_true]
  refine and_congr_right fun _ => ?_
  rw [value]
  unfold clsMatches matchAny matchPriority matchType
  generalize fieldAt w0 24 2 = m at below ⊢
  match m, below with
  | 0, _ => simp
  | 1, _ =>
    simp only [Nat.one_ne_zero, if_true, if_false, Bool.and_eq_true, decide_eq_true_eq, tagged, beq_iff_eq]
    rw [vlanPriority]
  | 2, _ => simp [frameType, tagged]
  | 3, _ =>
    simp only [OfNat.ofNat_ne_zero, OfNat.ofNat_ne_one, Nat.reduceEqDiff, if_false, decide_eq_true_eq]
    rw [destOf, addressOf]

theorem lookupIn_cons (h : s.tables.Sound) (bs : List Byte) (i : Fin 64) (rest : List (Fin 64)) :
    lookupIn bs (i :: rest) s
      = if bitAt (s.tables.get (.cls .active i 0)).val 31
            && clsMatches (s.tables.get (.cls .active i 0)).val (s.tables.get (.cls .active i 1)).val bs then
          (s, if bitAt (s.tables.get (.cls .active i 0)).val 20 then .discard
            else .forward (finOf 4 (fieldAt (s.tables.get (.cls .active i 0)).val 16 2)))
        else lookupIn bs rest s := by
  rw [lookupIn, h.cls i, touch_sound h, touch_sound h]
  simp [h.cls i]

/-- No entry of the list matches: the default class. -/
theorem lookupIn_none (h : s.tables.Sound) {bs : List Byte} {is : List (Fin 64)} (none : ∀ i ∈ is, ¬s.entryMatches bs i) :
    lookupIn bs is s = (s, .forward s.defaultClass) := by
  induction is with
  | nil => rw [lookupIn, touchGroup_sound h]
  | cons i is ih =>
    rw [lookupIn_cons h, if_neg fun m => none i List.mem_cons_self ((entryMatches_iff bs i).mpr m)]
    exact ih fun j hj => none j (List.mem_cons_of_mem _ hj)

/-- The first matching entry of a list in index order decides. -/
theorem lookupIn_first (h : s.tables.Sound) {bs : List Byte} {is : List (Fin 64)} {i : Fin 64} (sorted : is.Pairwise (· < ·))
    (mem : i ∈ is) (decides : s.entryDecides bs i) :
    lookupIn bs is s = (s, if bitAt (s.tables.get (.cls .active i 0)).val 20 then .discard
      else .forward (finOf 4 (fieldAt (s.tables.get (.cls .active i 0)).val 16 2))) := by
  induction is with
  | nil => cases mem
  | cons k is ih =>
    rw [lookupIn_cons h]
    obtain ⟨least, sorted⟩ := List.pairwise_cons.mp sorted
    obtain rfl | later := List.mem_cons.mp mem
    · rw [if_pos ((entryMatches_iff bs i).mp decides.1)]
    · rw [if_neg fun m => decides.2 k (least i later) ((entryMatches_iff bs k).mpr m)]
      exact ih sorted later

theorem allEntries_sorted : allEntries.Pairwise (· < ·) := by decide

theorem mem_allEntries (i : Fin 64) : i ∈ allEntries := by revert i; decide

/-- The lookup's result where an entry of DISCARD decides (R61). -/
theorem lookupIn_discard (h : s.tables.Sound) {bs : List Byte} {i : Fin 64} (decides : s.entryDecides bs i)
    (discard : bitAt (s.tables.get (.cls .active i 0)).val 20 = true) : lookupIn bs allEntries s = (s, .discard) := by
  rw [lookupIn_first h allEntries_sorted (mem_allEntries i) decides, if_pos discard]

theorem finOf_of_val {c : ClassIx} {n : Nat} (h : c.val = n) : finOf 4 n = c := by
  subst h
  exact Fin.ofNat_val_eq_self c

/-- The lookup's result where an entry of FORWARD decides, or none matches (R61). -/
theorem lookupIn_forward (h : s.tables.Sound) {bs : List Byte} {c : ClassIx}
    (found : (∃ i : Fin 64, s.entryDecides bs i ∧ bitAt (s.tables.get (.cls .active i 0)).val 20 = false
        ∧ c.val = fieldAt (s.tables.get (.cls .active i 0)).val 16 2) ∨ ((∀ i, ¬s.entryMatches bs i) ∧ c = s.defaultClass)) :
    lookupIn bs allEntries s = (s, .forward c) := by
  obtain ⟨i, decides, forward, cls⟩ | ⟨none, rfl⟩ := found
  · rw [lookupIn_first h allEntries_sorted (mem_allEntries i) decides, forward, if_neg Bool.false_ne_true, finOf_of_val cls]
  · exact lookupIn_none h fun i _ => none i

/-! ### The frame being received -/

/-- The state with `r` the frame being received. -/
def State.received (s : State) (r : RxFrame) : State := s.updFarm fun f => { f with rx := some r }

theorem setRxKind_of_rx {r : RxFrame} (k : RxKind) (rx : s.farm.rx = some r) :
    setRxKind k s = s.received { r with kind := k, held := [] } := by
  refine State.updFarm_congr ?_
  rw [rx]
  rfl

theorem State.setQueue_twice (c : ClassIx) (q q' : List QFrame) : (s.setQueue c q).setQueue c q' = s.setQueue c q' := by
  unfold State.setQueue
  simp

theorem State.setQueue_queue_same (c : ClassIx) (q : List QFrame) : (s.setQueue c q).queue c = q :=
  (s.setQueue_queue c c q).trans (if_pos rfl)

theorem State.setQueue_self (c : ClassIx) : s.setQueue c (s.queue c) = s := by
  unfold State.setQueue State.queue
  simp

theorem RxFrame.push_frame (r : RxFrame) (b : Byte) : (r.push b).1.count = r.count + 1 ∧ (r.push b).1.kind = r.kind := by
  unfold RxFrame.push
  cases check : r.check with
  | nil => exact ⟨rfl, rfl⟩
  | cons x rest =>
    rw [List.cons_append]
    dsimp only
    split <;> exact ⟨rfl, rfl⟩

/-! ### Storing (R63) -/

/-- Bytes stored behind those of a frame. -/
def QFrame.push (q : QFrame) (bs : List Byte) : QFrame := { q with uncut := q.uncut ++ bs }

theorem QFrame.push_nil (q : QFrame) : q.push [] = q := by unfold push; rw [List.append_nil]

theorem QFrame.push_push (q : QFrame) (bs cs : List Byte) : (q.push bs).push cs = q.push (bs ++ cs) := by
  unfold push; rw [List.append_assoc]

theorem QFrame.stored_push (q : QFrame) (bs : List Byte) : (q.push bs).stored = q.stored + bs.length := by
  unfold QFrame.stored QFrame.push
  rw [List.length_append, Nat.add_assoc]

section store

variable {c : ClassIx} {check : List Byte} {r : RxFrame} {before : List QFrame} {a : QFrame}

theorem roomForByte_iff (c : ClassIx) (n : Nat) :
    roomForByte s c n = true ↔ n % 128 ≠ 0 ∨ (s.classBytes c + 128 ≤ s.byteLimit c ∧ 0 < s.freeQueueBlocks) := by
  unfold roomForByte Config.blockBytes
  rw [Bool.or_eq_true, Bool.and_eq_true, decide_eq_true_iff, decide_eq_true_iff, decide_eq_true_iff]

/-- A byte of a frame in no class queue is not stored. -/
theorem storeByte_of_kind (kind : r.kind ≠ .upstream c) (b : Byte) : storeByte c check (s.received r) b = s.received r := by
  unfold storeByte
  exact if_neg kind

theorem foldl_storeByte_of_kind (kind : r.kind ≠ .upstream c) (bs : List Byte) :
    bs.foldl (storeByte c check) (s.received r) = s.received r := by
  induction bs with
  | nil => rfl
  | cons b bs ih => rw [List.foldl_cons, storeByte_of_kind kind, ih]

/-- A byte stored: the class word is read where a block is needed, which changes nothing. -/
theorem storeByte_upstream (h : s.tables.Sound) (kind : r.kind = .upstream c) (b : Byte) :
    storeByte c check (s.received r) b
      = if roomForByte s c (arrivingStored (s.queue c)) then
          (s.setQueue c (mapArriving (fun f => { f with uncut := f.uncut ++ [b] }) (s.queue c))).received r
        else failArriving c (arrivingUncut (s.queue c) ++ [b] ++ check)
          ((s.received { r with kind := .dropped .lack, held := [] }).bump (.queueFull c)) := by
  have read : touchGroup (classWord c) (s.received r) = s.received r := touchGroup_sound h
  unfold storeByte
  change (if r.kind = .upstream c then _ else _) = _
  rw [if_pos kind]
  dsimp only
  rw [read, ite_self]
  rfl

theorem storeByte_room (h : s.tables.Sound) (kind : r.kind = .upstream c) (queue : s.queue c = before ++ [a])
    (sound : ∀ q ∈ before, q.ended = true) (arriving : a.ended = false)
    (room : a.stored % 128 ≠ 0 ∨ (s.classBytes c + 128 ≤ s.byteLimit c ∧ 0 < s.freeQueueBlocks)) (b : Byte) :
    storeByte c check (s.received r) b = (s.setQueue c (before ++ [a.push [b]])).received r := by
  rw [storeByte_upstream h kind, queue, arrivingStored_append sound arriving, if_pos ((roomForByte_iff c _).mpr room),
    mapArriving_append sound arriving]
  rfl

theorem storeByte_lack (h : s.tables.Sound) (kind : r.kind = .upstream c) (queue : s.queue c = before ++ [a])
    (sound : ∀ q ∈ before, q.ended = true) (arriving : a.ended = false)
    (full : ¬(a.stored % 128 ≠ 0 ∨ (s.classBytes c + 128 ≤ s.byteLimit c ∧ 0 < s.freeQueueBlocks))) (b : Byte) :
    storeByte c check (s.received r) b = failArriving c (a.uncut ++ [b] ++ check)
      ((s.received { r with kind := .dropped .lack, held := [] }).bump (.queueFull c)) := by
  rw [storeByte_upstream h kind, queue, arrivingStored_append sound arriving, if_neg fun m => full ((roomForByte_iff c _).mp m),
    arrivingUncut_append sound arriving]

/-- Bytes that the last block of the arriving frame has room for are stored one after another. -/
theorem foldl_storeByte_room (h : s.tables.Sound) (kind : r.kind = .upstream c) (queue : s.queue c = before ++ [a])
    (sound : ∀ q ∈ before, q.ended = true) (arriving : a.ended = false) (bs : List Byte) (begun : 0 < a.stored)
    (fits : a.stored + bs.length ≤ 128) :
    bs.foldl (storeByte c check) (s.received r)
      = (s.setQueue c (before ++ [a.push bs])).received r := by
  induction bs generalizing s a with
  | nil => rw [QFrame.push_nil, ← queue, State.setQueue_self]; rfl
  | cons b bs ih =>
    simp only [List.length_cons] at fits
    have stored := a.stored_push [b]
    simp only [List.length_singleton] at stored
    rw [List.foldl_cons, storeByte_room h kind queue sound arriving (.inl (by omega)),
      ih (s := s.setQueue c (before ++ [a.push [b]])) h (State.setQueue_queue_same c _) arriving (by omega) (by omega),
      State.setQueue_twice, QFrame.push_push, List.singleton_append]

end store

/-! ### A frame enters its class queue -/

/-- A frame of which nothing is stored yet. -/
def freshFrame : QFrame := { cut := 0, uncut := [], ended := false, resp := none }

theorem freshFrame_blocks : freshFrame.blocks = 0 := rfl

theorem classBlocks_fresh (c d : ClassIx) : (s.setQueue c (s.queue c ++ [freshFrame])).classBlocks d = s.classBlocks d := by
  unfold State.classBlocks
  rw [State.setQueue_queue]
  split
  · next e => subst e; simp [freshFrame_blocks]
  · rfl

/-- A fresh frame takes no block. -/
theorem room_fresh (c : ClassIx) :
    (s.setQueue c (s.queue c ++ [freshFrame])).classBytes c = s.classBytes c
      ∧ (s.setQueue c (s.queue c ++ [freshFrame])).freeQueueBlocks = s.freeQueueBlocks
      ∧ (s.setQueue c (s.queue c ++ [freshFrame])).byteLimit c = s.byteLimit c := by
  refine ⟨?_, ?_, rfl⟩
  · unfold State.classBytes; rw [classBlocks_fresh]
  · unfold State.freeQueueBlocks; simp only [classBlocks_fresh]

section enter

variable {c : ClassIx} {check : List Byte} {r : RxFrame} (h : s.tables.Sound) (kind : r.kind = .upstream c)
  (sound : ∀ q ∈ s.queue c, q.ended = true)
include h kind sound

/-- The held bytes stored, at most one block of them, the first taking it (R63). -/
theorem foldl_storeByte_enter {held : List Byte} (nonempty : held ≠ []) (block : held.length ≤ 128)
    (room : s.classBytes c + 128 ≤ s.byteLimit c ∧ 0 < s.freeQueueBlocks) :
    held.foldl (storeByte c check) ((s.setQueue c (s.queue c ++ [freshFrame])).received r)
      = (s.setQueue c (s.queue c ++ [freshFrame.push held])).received r := by
  obtain ⟨bytes, free, limit⟩ := room_fresh (s := s) c
  cases held with
  | nil => exact absurd rfl nonempty
  | cons b rest =>
    have begun : (freshFrame.push [b]).stored = 1 := rfl
    simp only [List.length_cons] at block
    rw [List.foldl_cons, storeByte_room (s := s.setQueue c (s.queue c ++ [freshFrame])) h kind (State.setQueue_queue_same c _) sound rfl
        (.inr (by rwa [bytes, free, limit])),
      foldl_storeByte_room (s := (s.setQueue c (s.queue c ++ [freshFrame])).setQueue c (s.queue c ++ [freshFrame.push [b]])) h kind
        (State.setQueue_queue_same c _) sound rfl rest (by omega) (by omega),
      State.setQueue_twice, State.setQueue_twice, QFrame.push_push, List.singleton_append]

/-- No block for its first byte: the frame is dropped and leaves the queue as it was (R63). -/
theorem foldl_storeByte_lack {held : List Byte} (nonempty : held ≠ [])
    (full : ¬(s.classBytes c + 128 ≤ s.byteLimit c ∧ 0 < s.freeQueueBlocks))
    (free : s.queue c ≠ [] ∨ ∀ f, s.dist.fip = some f → f.cls = c → f.finalCut = true ∨ f.voidTail ≠ none) :
    held.foldl (storeByte c check) ((s.setQueue c (s.queue c ++ [freshFrame])).received r)
      = (s.received { r with kind := .dropped .lack, held := [] }).bump (.queueFull c) := by
  obtain ⟨bytes, blocks, limit⟩ := room_fresh (s := s) c
  cases held with
  | nil => exact absurd rfl nonempty
  | cons b rest =>
    have queue : (s.setQueue c (s.queue c ++ [freshFrame])).queue c = s.queue c ++ [freshFrame] :=
      State.setQueue_queue_same c _
    have dropped : ∀ tail, failArriving c tail
        (((s.setQueue c (s.queue c ++ [freshFrame])).received { r with kind := .dropped .lack, held := [] }).bump (.queueFull c))
        = (s.bump (.queueFull c)).received { r with kind := .dropped .lack, held := [] } := by
      intro tail
      have none := arrivingTaken_none (c := c)
        (s := ((s.setQueue c (s.queue c ++ [freshFrame])).received { r with kind := .dropped .lack, held := [] }).bump (.queueFull c))
        sound queue free
      unfold failArriving
      rw [none]
      dsimp only
      rw [show (((s.setQueue c (s.queue c ++ [freshFrame])).received { r with kind := .dropped .lack, held := [] }).bump
        (.queueFull c)).queue c = _ from queue, withoutArriving_append sound rfl]
      change (((s.setQueue c (s.queue c ++ [freshFrame])).setQueue c (s.queue c)).bump (.queueFull c)).received _ = _
      rw [State.setQueue_twice, State.setQueue_self]
    rw [List.foldl_cons, storeByte_lack (s := s.setQueue c (s.queue c ++ [freshFrame])) (a := freshFrame) h kind queue sound rfl
        (by rw [bytes, blocks, limit]; exact fun m => m.elim (fun e => absurd rfl e) full), dropped,
      foldl_storeByte_of_kind (by exact fun e => RxKind.noConfusion e)]
    rfl

end enter

/-! ### The judgement at byte 18 -/

section judge

variable {r : RxFrame}

theorem judgeFrame_link (type : be16 (r.held ++ r.check) 12 = 0x8808) :
    judgeFrame r (s.received r) = s.received { r with kind := .link } := by
  unfold judgeFrame
  exact if_pos type

/-- A frame that is no link-control frame: its address is read where its type is that of control frames, which changes nothing. -/
theorem judgeFrame_else (h : s.tables.Sound) (type : be16 (r.held ++ r.check) 12 ≠ 0x8808) :
    judgeFrame r (s.received r) = if isControlFrame s.station (r.held ++ r.check) then s.received { r with kind := .control }
      else classifyFrame (r.held ++ r.check) r.held r.check (s.received r) := by
  have low : touchGroup 0x0E (s.received r) = s.received r := touchGroup_sound h
  have high : touchGroup 0x0F (s.received r) = s.received r := touchGroup_sound h
  unfold judgeFrame
  dsimp only
  rw [if_neg (by exact type), low, high, ite_self]
  rfl

theorem classifyFrame_down (bs held check : List Byte) (down : s.groupUp = false) :
    classifyFrame bs held check (s.received r)
      = (s.received { r with kind := .dropped .lack, held := [] }).bump .groupDownDrops := by
  unfold classifyFrame
  rw [show (s.received r).groupUp = false from down]
  rfl

theorem classifyFrame_discard (h : s.tables.Sound) {bs : List Byte} (held check : List Byte) (up : s.groupUp = true) {i : Fin 64}
    (decides : s.entryDecides bs i) (discard : bitAt (s.tables.get (.cls .active i 0)).val 20 = true) :
    classifyFrame bs held check (s.received r)
      = (s.received { r with kind := .dropped .table, held := [] }).bump .tableDiscards := by
  have look := lookupIn_discard (s := s.received r) h decides discard
  unfold classifyFrame
  rw [show (s.received r).groupUp = true from up, look]
  rfl

theorem classifyFrame_forward (h : s.tables.Sound) {bs : List Byte} (held check : List Byte) {c : ClassIx} (up : s.groupUp = true)
    (found : (∃ i : Fin 64, s.entryDecides bs i ∧ bitAt (s.tables.get (.cls .active i 0)).val 20 = false
        ∧ c.val = fieldAt (s.tables.get (.cls .active i 0)).val 16 2) ∨ ((∀ i, ¬s.entryMatches bs i) ∧ c = s.defaultClass)) :
    classifyFrame bs held check (s.received r)
      = held.foldl (storeByte c check)
          ((s.setQueue c (s.queue c ++ [freshFrame])).received { r with kind := .upstream c, held := [] }) := by
  have look := lookupIn_forward (s := s.received r) h found
  unfold classifyFrame
  rw [show (s.received r).groupUp = true from up, look]
  rfl

end judge

/-! ### A byte taken -/

section take

variable {r : RxFrame} (rx : s.farm.rx = some r)
include rx

theorem farmByte_take (short : r.count < 2004) (b : Byte) : farmByte b s = takeByte r b s := by
  unfold farmByte
  rw [rx]
  exact if_pos (show r.count + 1 < 2005 by omega)

theorem farmByte_giant (long : r.count = 2004) (b : Byte) : farmByte b s = becomeGiant r (s.received { r with count := 2005 }) := by
  unfold farmByte
  rw [rx]
  change (if r.count + 1 < 2005 then _ else if r.count + 1 = 2005 then becomeGiant r (s.received { r with count := r.count + 1 }) else _)
    = _
  rw [long]
  rfl

theorem farmByte_past (long : 2004 < r.count) (b : Byte) : farmByte b s = s.received { r with count := r.count + 1 } := by
  unfold farmByte
  rw [rx]
  change (if r.count + 1 < 2005 then _ else if r.count + 1 = 2005 then _ else s.received { r with count := r.count + 1 }) = _
  rw [if_neg (by omega), if_neg (by omega)]

/-- A later byte of a frame in a class queue is stored. -/
theorem farmByte_store {c : ClassIx} {x y z w : Byte} (kind : r.kind = .upstream c) (short : r.count < 2004)
    (check : r.check = [x, y, z, w]) (b : Byte) :
    farmByte b s = storeByte c [y, z, w, b]
      (s.received { r with count := r.count + 1, check := [y, z, w, b], crc := crc32Byte r.crc x }) x := by
  obtain ⟨n, k, held, buffer, crc⟩ := r
  dsimp only at kind short check
  subst kind check
  rw [farmByte_take rx short]
  rfl

omit rx in
theorem becomeGiant_upstream {c : ClassIx} (kind : r.kind = .upstream c) (x : RxFrame) :
    becomeGiant r (s.received x)
      = failArriving c (arrivingUncut (s.queue c)) ((s.received { x with kind := .dropped .silent, held := [] }).bump .giants) := by
  unfold becomeGiant
  rw [kind]
  rfl

end take

/-! ### The 18th byte -/

/-- The frame being received as the 18th byte leaves it, `x` pushed out of the check buffer (R55). -/
def RxFrame.eighteen (r : RxFrame) (x y z w b : Byte) (k : RxKind) (held : List Byte) : RxFrame :=
  { count := 18, kind := k, held := held, check := [y, z, w, b], crc := crc32Byte r.crc x }

section eighteenth

variable {r : RxFrame} {x y z w b : Byte} {bs held : List Byte} (h : s.tables.Sound) (rx : s.farm.rx = some r) (kind : r.kind = .head)
  (count : r.count = 17) (check : r.check = [x, y, z, w]) (isBs : bs = r.held ++ [x, y, z, w, b]) (isHeld : held = r.held ++ [x])
include rx kind count check isHeld

/-- The 18th byte brings the judgement. -/
theorem farmByte_judge : farmByte b s = judgeFrame (r.eighteen x y z w b .head held) (s.received (r.eighteen x y z w b .head held)) := by
  obtain ⟨n, k, kept, buffer, crc⟩ := r
  dsimp only at kind count check isHeld
  subst kind count check isHeld
  rw [farmByte_take rx (by dsimp only; omega)]
  rfl

include isBs

omit rx kind count check in
theorem eighteen_bytes : (r.eighteen x y z w b .head held).held ++ (r.eighteen x y z w b .head held).check = bs := by
  rw [isBs]
  change held ++ [y, z, w, b] = _
  rw [isHeld, List.append_assoc]
  rfl

theorem farmByte_link (type : be16 bs 12 = 0x8808) : farmByte b s = s.received (r.eighteen x y z w b .link held) := by
  rw [farmByte_judge rx kind count check isHeld, judgeFrame_link (by rw [eighteen_bytes isBs isHeld]; exact type)]
  rfl

include h

theorem farmByte_control (type : be16 bs 12 ≠ 0x8808) (control : isControlFrame s.station bs = true) :
    farmByte b s = s.received (r.eighteen x y z w b .control held) := by
  rw [farmByte_judge rx kind count check isHeld, judgeFrame_else h (by rw [eighteen_bytes isBs isHeld]; exact type),
    eighteen_bytes isBs isHeld, if_pos control]
  rfl

theorem farmByte_classify (type : be16 bs 12 ≠ 0x8808) (other : isControlFrame s.station bs = false) :
    farmByte b s = classifyFrame bs held [y, z, w, b] (s.received (r.eighteen x y z w b .head held)) := by
  rw [farmByte_judge rx kind count check isHeld, judgeFrame_else h (by rw [eighteen_bytes isBs isHeld]; exact type),
    eighteen_bytes isBs isHeld, other, if_neg Bool.false_ne_true]
  rfl

end eighteenth

/-! ### Every byte is counted -/

/-- Sound table memory and a frame being received of which `n` bytes have arrived. -/
def State.Receiving (s : State) (n : Nat) : Prop := s.tables.Sound ∧ ∃ r, s.farm.rx = some r ∧ r.count = n

section counted

variable {n : Nat} (h : s.Receiving n)
include h

theorem receiving_setRxKind (k : RxKind) : (setRxKind k s).Receiving n := by
  obtain ⟨sound, r, rx, count⟩ := h
  rw [setRxKind_of_rx k rx]
  exact ⟨sound, _, rfl, count⟩

theorem receiving_failArriving (c : ClassIx) (tail : List Byte) : (failArriving c tail s).Receiving n := by
  obtain ⟨tables, farm, -⟩ := failArriving_frame c tail h.1
  unfold State.Receiving
  rw [tables, farm]
  exact h

theorem receiving_bump (k : GroupCtr) : (s.bump k).Receiving n := h

theorem receiving_storeByte (c : ClassIx) (check : List Byte) (b : Byte) : (storeByte c check s b).Receiving n := by
  have read : touchGroup (classWord c) s = s := touchGroup_sound h.1
  unfold storeByte
  split
  · split
    · dsimp only
      rw [read, ite_self]
      split
      · exact h
      · exact receiving_failArriving (receiving_setRxKind (receiving_bump h _) _) c _
    · exact h
  · exact h

theorem receiving_foldl_storeByte (c : ClassIx) (check bs : List Byte) : (bs.foldl (storeByte c check) s).Receiving n := by
  induction bs generalizing s with
  | nil => exact h
  | cons b bs ih => exact ih (receiving_storeByte h c check b)

theorem receiving_lookupIn (bs : List Byte) (is : List (Fin 64)) : (lookupIn bs is s).1.Receiving n := by
  induction is with
  | nil => rw [lookupIn, touchGroup_sound h.1]; exact h
  | cons i is ih =>
    rw [lookupIn_cons h.1]
    split
    · exact h
    · exact ih

theorem receiving_classifyFrame (bs held check : List Byte) : (classifyFrame bs held check s).Receiving n := by
  have look := receiving_lookupIn h bs allEntries
  unfold classifyFrame
  split
  · exact receiving_setRxKind (receiving_bump h _) _
  · generalize lookupIn bs allEntries s = l at look ⊢
    obtain ⟨x, _ | c⟩ := l
    · exact receiving_setRxKind (receiving_bump look _) _
    · exact receiving_foldl_storeByte (receiving_setRxKind (show (x.setQueue c _).Receiving n from look) _) _ _ _

theorem receiving_becomeGiant (r : RxFrame) : (becomeGiant r s).Receiving n := by
  have counted := receiving_setRxKind (receiving_bump h .giants) (.dropped .silent)
  unfold becomeGiant
  split
  · exact h
  · exact h
  · exact receiving_setRxKind h _
  · exact receiving_failArriving counted _ _
  · exact counted

end counted

theorem receiving_judgeFrame (h : s.tables.Sound) (r : RxFrame) : (judgeFrame r (s.received r)).Receiving r.count := by
  have now : (s.received r).Receiving r.count := ⟨h, r, rfl, rfl⟩
  by_cases type : be16 (r.held ++ r.check) 12 = 0x8808
  · rw [judgeFrame_link type]
    exact ⟨h, _, rfl, rfl⟩
  · rw [judgeFrame_else h type]
    split
    · exact ⟨h, _, rfl, rfl⟩
    · exact receiving_classifyFrame now _ _ _

theorem receiving_takeByte (h : s.tables.Sound) {r : RxFrame} (kind : r.kind ≠ .abandoned) (b : Byte) :
    (takeByte r b s).Receiving (r.count + 1) := by
  obtain ⟨count, same⟩ := r.push_frame b
  have now : ∀ x : RxFrame, x.count = r.count + 1 → (s.received x).Receiving (r.count + 1) := fun x hx => ⟨h, x, rfl, hx⟩
  unfold takeByte
  dsimp only
  split
  · next abandoned => exact absurd (same.symm.trans abandoned) kind
  · exact now _ count
  · split
    · exact receiving_storeByte (now _ count) _ _ _
    · exact now _ count
  · split
    · exact count ▸ receiving_judgeFrame h { (r.push b).1 with held := (r.push b).1.held ++ (r.push b).2.toList }
    · exact now _ count
  · exact now _ count

/-- Every byte of a frame not abandoned is counted (R55, R56). -/
theorem receiving_farmByte (h : s.tables.Sound) {r : RxFrame} (rx : s.farm.rx = some r) (kind : r.kind ≠ .abandoned) (b : Byte) :
    (farmByte b s).Receiving (r.count + 1) := by
  obtain short | giant | past := Nat.lt_trichotomy r.count 2004
  · rw [farmByte_take rx short]
    exact receiving_takeByte h kind b
  · rw [farmByte_giant rx giant, giant]
    exact receiving_becomeGiant (s := s.received { r with count := 2005 }) ⟨h, _, rfl, rfl⟩ r
  · rw [farmByte_past rx past]
    exact ⟨h, _, rfl, rfl⟩

/-! ### The statement -/

theorem exec_farmByteArrival (tm : Nat) (b : Byte) :
    exec (.farmByteArrival tm b) s = .next (finish (farmByte b (s.atTime tm))) := rfl

/-- A byte whose work on sound table memory makes `x`, the distributor's work apart. -/
theorem exists_onlyPlaced {tm : Nat} {b : Byte} {x : State} (eq : farmByte b (s.atTime tm) = x) (sound : x.tables.Sound) :
    ∃ t, exec (.farmByteArrival tm b) s = .next t ∧ OnlyPlaced x t :=
  ⟨_, by rw [exec_farmByteArrival, eq], onlyPlaced_finish sound⟩

/-- Settles O35: every byte is one change of the frame being received, judged, stored or failed as its place in the frame has it. -/
theorem farmBytesCounted : Obligations.FarmBytesCounted := by
  intro s tm b h
  have timed : (s.atTime tm).tables.Sound := h
  refine ⟨fun none => ?_, fun r rx kind => ?_, fun r x y z w bs held judged rx kind count length check isBs isHeld isJudged => ?_,
    fun r c x y z w before a rx kind short check queue sound arriving => ⟨fun room => ?_, fun full => ?_⟩,
    fun r giant rx count isGiant => ⟨fun c before a kind queue sound arriving => ?_, fun kind => ?_, fun kind => ?_⟩⟩
  · have first : farmByte b (s.atTime tm)
        = (s.atTime tm).received { count := 1, kind := .head, held := [], check := [b], crc := crc32Init } := by
      unfold farmByte
      rw [State.atTime_farm, none]
      rfl
    obtain ⟨t, run, placed⟩ := exists_onlyPlaced first h
    exact ⟨t, _, run, congrArg FarmPort.rx placed.frame.farm, rfl, rfl, rfl⟩
  · obtain ⟨sound, r', now, counted⟩ := receiving_farmByte timed rx kind b
    have placed := onlyPlaced_finish sound
    exact ⟨_, r', exec_farmByteArrival tm b, (congrArg FarmPort.rx placed.frame.farm).trans now, counted⟩
  · subst isJudged
    have nonempty : held ≠ [] := by rw [isHeld]; simp
    have block : held.length ≤ 128 := by
      rw [isHeld, List.length_append, length]
      exact (by decide : 13 + 1 ≤ 128)
    refine ⟨fun type => ?_, fun type control => ?_, fun type other => ?_⟩
    · exact exists_onlyPlaced (farmByte_link (s := s.atTime tm) rx kind count check isBs isHeld type) h
    · exact exists_onlyPlaced (farmByte_control timed rx kind count check isBs isHeld type control) h
    have classify := farmByte_classify timed rx kind count check isBs isHeld type other
    refine ⟨fun down => ?_, fun up => ⟨fun i decides discard => ?_, fun c found sound => ?_⟩⟩
    · exact exists_onlyPlaced (classify.trans (classifyFrame_down bs held _ down)) h
    · exact exists_onlyPlaced (classify.trans (classifyFrame_discard timed held _ up decides discard)) h
    · have forward := classify.trans (classifyFrame_forward timed held _ up found)
      exact ⟨fun room => exists_onlyPlaced (forward.trans (foldl_storeByte_enter timed rfl sound nonempty block room)) h,
        fun full free => exists_onlyPlaced (forward.trans (foldl_storeByte_lack timed rfl sound nonempty full free)) h⟩
  · have stored := (farmByte_store (s := s.atTime tm) rx kind short check b).trans
      (storeByte_room (r := { r with count := r.count + 1, check := [y, z, w, b], crc := crc32Byte r.crc x }) timed kind queue
        sound arriving room x)
    exact exists_onlyPlaced stored h
  · have dropped := (farmByte_store (s := s.atTime tm) rx kind short check b).trans
      (storeByte_lack (r := { r with count := r.count + 1, check := [y, z, w, b], crc := crc32Byte r.crc x }) timed kind queue
        sound arriving full x)
    rw [exec_farmByteArrival, dropped, List.append_assoc]
    obtain ⟨u, failed, placed⟩ := exists_arrivingFailed (a.uncut ++ [x, y, z, w, b])
      (s := ((s.atTime tm).received { count := r.count + 1, kind := .dropped .lack, held := [], check := [y, z, w, b]
                                      crc := crc32Byte r.crc x }).bump (.queueFull c)) h queue sound arriving
    exact ⟨_, u, rfl, failed, placed⟩
  · subst isGiant
    rw [exec_farmByteArrival, farmByte_giant (s := s.atTime tm) rx count, becomeGiant_upstream kind _,
      show (s.atTime tm).queue c = before ++ [a] from queue, arrivingUncut_append sound arriving]
    obtain ⟨u, failed, placed⟩ := exists_arrivingFailed a.uncut
      (s := ((s.atTime tm).received { r with count := 2005, kind := .dropped .silent, held := [] }).bump .giants) h queue sound arriving
    exact ⟨_, u, rfl, failed, placed⟩
  · subst isGiant
    refine exists_onlyPlaced ((farmByte_giant (s := s.atTime tm) rx count b).trans ?_) h
    simp only [List.mem_cons, List.not_mem_nil, or_false] at kind
    unfold becomeGiant
    obtain kind | kind | kind | kind := kind <;> rw [kind] <;> rfl
  · subst isGiant
    refine exists_onlyPlaced ((farmByte_giant (s := s.atTime tm) rx count b).trans ?_) h
    unfold becomeGiant
    rw [kind]
    rfl

end Sys2Proof.Machine
end

section
/-! PROOFS of the family 05 (placing fragments on pairs): which pairs are eligible, what the distributor's work takes from the reroute
list, and the discard of a head past its age limit (R80, R83..R85, R155). Settles O13 and O39. -/

namespace Sys2Proof.Machine

variable {s t u : State}

/-! ### Eligible pairs (R85) -/

theorem eligible_iff (s : State) (p : PairIx) :
    eligible s p = true ↔ (s.pair p).state = .active ∧ (s.pair p).txq.length < 8
      ∧ (s.pair p).txq.length + (s.pair p).store.length < 32 := by
  unfold eligible PairPort.held
  simp only [Bool.and_eq_true, decide_eq_true_eq, and_assoc]

/-- Settles O13: the test is the conjunction R85 states, and its first part is the state ACTIVE. -/
theorem eligiblePairs : Obligations.EligiblePairs := fun s p =>
  ⟨eligible_iff s p, fun inactive => Bool.eq_false_iff.mpr fun ok => inactive (eligible_active ok)⟩

/-! ### The head taken out of the list -/

theorem discardHead_eq {f : Frag} {rest : List Frag} (head : s.dist.reroute = f :: rest) :
    discardHead f s = (fragmentGone f (s.updDist fun d => { d with reroute := rest })).bump .ageDiscards := by
  simp only [discardHead, State.updDist, head, List.tail_cons]

/-- The discard of the head takes it out of the list and touches no pair (R83). -/
theorem discardHead_frame {f : Frag} {rest : List Frag} (head : s.dist.reroute = f :: rest) :
    (discardHead f s).now = s.now ∧ (discardHead f s).pairs = s.pairs ∧ (discardHead f s).dist.reroute = rest := by
  rw [discardHead_eq head]
  obtain ⟨_, _, gone⟩ := tallied_fragmentGone f (s.updDist fun d => { d with reroute := rest })
  rw [gone]
  exact ⟨rfl, rfl, rfl⟩

/-! ### What the distributor's work takes from the reroute list -/

/-- A fragment as it is placed at `now`: for the first time, or out of a reroute list with RRT (R80, R84). -/
def Frag.PlacedOutOf (now : Nat) (list : List Frag) (x : Frag) : Prop :=
  x.firstPlaced = some now ∨ ∃ y ∈ list, x = { y with rrt := true }

/-- The reroute list of `t` is the rest of the one of `s`, and what joined the transmit queues is first placed or comes out of
that list. -/
structure ListServed (s t : State) : Prop where
  now : t.now = s.now
  list : ∃ k, t.dist.reroute = s.dist.reroute.drop k
  placed : ∀ p, ∃ fs, t.pair p = { s.pair p with txq := (s.pair p).txq ++ fs }
    ∧ ∀ x ∈ fs, x.PlacedOutOf s.now s.dist.reroute

theorem listServed_of_eq (now : t.now = s.now) (list : ∃ k, t.dist.reroute = s.dist.reroute.drop k) (pairs : ∀ p, t.pair p = s.pair p) :
    ListServed s t := ⟨now, list, fun p => ⟨[], by simp [pairs p], by simp⟩⟩

theorem ListServed.trans (h : ListServed s t) (k : ListServed t u) : ListServed s u where
  now := k.now.trans h.now
  list := by
    obtain ⟨m, hm⟩ := h.list
    obtain ⟨n, hn⟩ := k.list
    exact ⟨m + n, by rw [hn, hm, List.drop_drop]⟩
  placed p := by
    obtain ⟨m, hm⟩ := h.list
    obtain ⟨fs, port, each⟩ := h.placed p
    obtain ⟨gs, port', each'⟩ := k.placed p
    refine ⟨fs ++ gs, by rw [port', port]; simp, fun x hx => ?_⟩
    obtain hx | hx := List.mem_append.mp hx
    · exact each x hx
    · exact (each' x hx).imp (fun first => h.now ▸ first) fun ⟨y, hy, e⟩ => ⟨y, List.mem_of_mem_drop (hm ▸ hy), e⟩

/-- One fragment placed on pair `p`, the reroute list left as it is or without its head. -/
theorem listServed_append {p : PairIx} {x : Frag} (now : t.now = s.now) (list : ∃ k, t.dist.reroute = s.dist.reroute.drop k)
    (pairs : t.pairs = (s.updPair p fun pp => { pp with txq := pp.txq ++ [x] }).pairs) (out : x.PlacedOutOf s.now s.dist.reroute) :
    ListServed s t := by
  refine ⟨now, list, fun q => ?_⟩
  rw [State.pair_congr pairs]
  by_cases e : q = p
  · subst e
    exact ⟨[x], State.updPair_pair_same .., by simpa using out⟩
  · exact ⟨[], by simp [State.updPair_pair_ne s p q _ e], by simp⟩

theorem DistCut.reroute (h : DistCut s t) : t.dist.reroute = s.dist.reroute := by cases h <;> rfl

theorem recordHold_reroute (w : WaitReason) (s : State) : (recordHold w s).dist.reroute = s.dist.reroute := by
  unfold recordHold
  dsimp only
  split <;> rfl

theorem DistPlace.listServed (up : s.groupUp = true) (h : DistPlace s t) : ListServed s t := by
  have now := (h.frame up).now
  cases h with
  | discard f rest head _ =>
    obtain ⟨-, pairs, left⟩ := discardHead_frame head
    rw [← discardHead_eq head] at now ⊢
    exact listServed_of_eq now ⟨1, by rw [left, head]; rfl⟩ (State.pair_congr pairs)
  | again f rest p head _ _ =>
    exact listServed_append now ⟨1, by rw [head]; rfl⟩ rfl (.inr ⟨f, by simp [head], rfl⟩)
  | new f x p _ _ _ _ _ => exact listServed_append now ⟨0, rfl⟩ rfl (.inl rfl)

/-- What the distributor's work places, move by move (R80, R84). -/
theorem OnlyPlaced.listServed (h : OnlyPlaced s t) : ListServed s t := by
  induction h with
  | refl => exact listServed_of_eq rfl ⟨0, rfl⟩ fun _ => rfl
  | cut _ up move ih => exact ih.trans (listServed_of_eq (move.frame up).now ⟨0, move.reroute⟩ move.pair)
  | place _ up move ih => exact ih.trans (move.listServed up)
  | hold w _ up _ ih =>
    exact ih.trans (listServed_of_eq (workFrame_recordHold up w).now ⟨0, recordHold_reroute w _⟩ (recordHold_pair w _))
  | rest _ _ ih => exact ih.trans (listServed_of_eq rfl ⟨0, rfl⟩ fun _ => rfl)

/-! ### The next cut leaves the reroute list alone -/

/-- The transmit queues, the reroute list and the reroute age discards counter stand as they stood. -/
structure ListKept (s t : State) : Prop where
  pairs : t.pairs = s.pairs
  reroute : t.dist.reroute = s.dist.reroute
  discards : t.counter .ageDiscards = s.counter .ageDiscards

theorem ListKept.trans (h : ListKept s t) (k : ListKept t u) : ListKept s u :=
  ⟨k.pairs.trans h.pairs, k.reroute.trans h.reroute, k.discards.trans h.discards⟩

theorem listKept_takeFrame (h : s.tables.Sound) (up : s.groupUp = true) : ListKept s (takeFrame s) := by
  obtain ⟨e, -⟩ | ⟨f, e⟩ := takeFrame_cases h up <;> rw [e] <;> exact ⟨rfl, rfl, rfl⟩

/-- A cut raises no counter but that of void final fragments (R69). -/
theorem listKept_makeCut (f : Fip) (c : Cut) (s : State) : ListKept s (makeCut f c s) := by
  unfold makeCut
  dsimp only
  split
  · exact ⟨rfl, rfl, State.bump_counter_ne _ _ _ (by decide)⟩
  · exact ⟨rfl, rfl, rfl⟩

theorem listKept_cutNext (h : s.tables.Sound) (up : s.groupUp = true) : ListKept s (cutNext s).1 := by
  have taken := listKept_takeFrame h up
  unfold cutNext
  dsimp only
  split
  · split
    · exact taken.trans (listKept_makeCut _ _ _)
    · exact taken
  · exact taken

/-! ### The head discarded for age (R83) -/

/-- Where the list's head is past the age limit, the one placement there is discards it: no other fragment goes before it (R80, R83). -/
theorem DistPlace.eq_discardHead {f : Frag} {rest : List Frag} (h : DistPlace s t) (head : s.dist.reroute = f :: rest)
    (aged : s.rerouteAge < ageOf s f) : t = discardHead f s := by
  cases h with
  | discard g more head' _ =>
    obtain ⟨rfl, rfl⟩ := List.cons.inj (head.symm.trans head')
    exact (discardHead_eq head).symm
  | again g more p head' fresh _ =>
    obtain ⟨rfl, rfl⟩ := List.cons.inj (head.symm.trans head')
    exact absurd aged (not_lt.mpr fresh)
  | new g x p empty _ _ _ _ => simp [head] at empty

theorem WorkFrame.rerouteAge (h : WorkFrame s t) : t.rerouteAge = s.rerouteAge := by
  unfold State.rerouteAge
  rw [State.groupWord_congr h.tables h.digit]

theorem WorkFrame.ageOf (h : WorkFrame s t) (f : Frag) : ageOf t f = ageOf s f := by
  unfold Machine.ageOf
  rw [h.now]

/-- With its head past the age limit an attempt cuts first, discards that head next, and goes on from there (R76, R80, R83). -/
theorem onlyPlaced_attempt_discard {f : Frag} {rest : List Frag} (h : s.tables.Sound) (up : s.groupUp = true)
    (head : s.dist.reroute = f :: rest) (aged : s.rerouteAge < ageOf s f) :
    OnlyPlaced (discardHead f (cutNext s).1) (attempt s) := by
  have work := onlyPlaced_cutNext h
  have head' := (listKept_cutNext h up).reroute.trans head
  have aged' : (cutNext s).1.rerouteAge < ageOf (cutNext s).1 f := by rwa [work.frame.rerouteAge, work.frame.ageOf]
  have run : attempt s = attemptN 400 s := by
    rw [attempt_sound h]
    exact if_pos up
  cases turn_attemptN h up with
  | holds w _ fresh _ => exact absurd aged' (not_lt.mpr (fresh f rest head'))
  | goesOn t move goesOn =>
    have moved := OnlyPlaced.place work (work.frame.groupUp.trans up) move
    rw [run, goesOn 399, ← move.eq_discardHead head' aged']
    exact onlyPlaced_attemptN 399 t (moved.sound h) (moved.frame.groupUp.trans up)

/-! ### The command -/

theorem exec_rerouteAgeLimit (s : State) (tm : Nat) : exec (.rerouteAgeLimit tm) s = execRerouteAgeLimit tm s := rfl

theorem State.headAged_of {f : Frag} {rest : List Frag} (head : s.dist.reroute = f :: rest)
    (waits : s.dist.wait ∈ [WaitReason.noPair, .skew]) (aged : s.rerouteAge < ageOf s f) : s.headAged = true := by
  have reason : s.dist.wait = .noPair ∨ s.dist.wait = .skew := by simpa using waits
  unfold State.headAged
  rw [head]
  simp [reason, aged]

/-- Aged or not, the command comes to an attempt or to nothing, and the end of a command: all of it the distributor's own moves (R83). -/
theorem onlyPlaced_rerouteAgeLimit (h : s.tables.Sound) (tm : Nat) :
    ∃ t, exec (.rerouteAgeLimit tm) s = .next t ∧ OnlyPlaced (s.atTime tm) t := by
  rw [exec_rerouteAgeLimit]
  unfold execRerouteAgeLimit
  dsimp only
  split
  · exact ⟨_, rfl, onlyPlaced_attempt_finish (sound_atTime h tm)⟩
  · exact ⟨_, rfl, onlyPlaced_finish (sound_atTime h tm)⟩

/-- Settles O39: the attempt that the command brings cuts, discards the head, and then does the distributor's work on the rest of the
list. The second clause needs none of its premises: the moves of `OnlyPlaced` cover both branches of the command. -/
theorem rerouteHeadDiscarded : Obligations.RerouteHeadDiscarded := by
  refine fun s tm h => ⟨fun f rest placed up head waits first past => ?_, fun _ => onlyPlaced_rerouteAgeLimit h tm⟩
  have timed := sound_atTime h tm
  have aged : (s.atTime tm).rerouteAge < ageOf (s.atTime tm) f := by
    unfold ageOf
    rw [first]
    exact Nat.lt_sub_of_add_lt (Nat.add_comm placed _ ▸ past)
  have run : exec (.rerouteAgeLimit tm) s = .next (finish (attempt (s.atTime tm))) := by
    rw [exec_rerouteAgeLimit]
    exact if_pos (State.headAged_of (s := s.atTime tm) head waits aged)
  have cut := onlyPlaced_cutNext timed
  have kept := listKept_cutNext timed up
  have list := kept.reroute.trans head
  have after := (onlyPlaced_attempt_discard timed up head aged).trans (onlyPlaced_finish ((onlyPlaced_attempt timed).sound timed))
  obtain ⟨now, pairs, left⟩ := discardHead_frame list
  have served := after.listServed
  refine ⟨_, _, run, cut, list, kept.pairs, kept.discards, discardHead_eq list ▸ after, left ▸ served.list, fun p => ?_⟩
  have onto := served.placed p
  rw [State.pair_congr (pairs.trans kept.pairs), now, cut.frame.now, left] at onto
  exact onto

end Sys2Proof.Machine
end

section
/-! PROOFS of the family 06 (reassembly), first layer: what the window holds under a head. Distances between GSNs (R1), the awaited GSN
(R101), the run at a head and how it ends (R105), and what is left of the window when the head moves on. -/

namespace Sys2Proof.Machine

variable {r : Reassembler} {g h : Gsn}

/-! ### Distances between sequence numbers -/

theorem gsn_dist_add (h : Gsn) {k : Nat} (hk : k < 16384) : (h + BitVec.ofNat 14 k - h).toNat = k := by
  rw [add_sub_cancel_left, BitVec.toNat_ofNat]
  exact Nat.mod_eq_of_lt hk

theorem gsn_add_dist (g h : Gsn) : h + BitVec.ofNat 14 (g - h).toNat = g := by
  rw [BitVec.ofNat_toNat, BitVec.setWidth_eq, BitVec.add_comm, BitVec.sub_add_cancel]

theorem gsn_sub_dist (g h : Gsn) : g - BitVec.ofNat 14 (g - h).toNat = h := by
  rw [BitVec.ofNat_toNat, BitVec.setWidth_eq, sub_sub_cancel]

theorem gsn_dist_past {k : Nat} (hk : k ≤ (g - h).toNat) : (g - (h + BitVec.ofNat 14 k)).toNat = (g - h).toNat - k := by
  have := (g - h).isLt
  rw [sub_add_eq_sub_sub, BitVec.toNat_sub_of_le, BitVec.toNat_ofNat, Nat.mod_eq_of_lt (by omega)]
  rw [BitVec.le_def, BitVec.toNat_ofNat, Nat.mod_eq_of_lt (by omega)]
  exact hk

theorem gsn_add_add (h : Gsn) (j k : Nat) : h + BitVec.ofNat 14 j + BitVec.ofNat 14 k = h + BitVec.ofNat 14 (j + k) := by
  rw [BitVec.add_assoc, BitVec.ofNat_add]

theorem gsn_add_zero (h : Gsn) : h + BitVec.ofNat 14 0 = h := BitVec.add_zero h

/-! ### Entries -/

theorem entry_eq_none : r.entry g = none ↔ ∀ e ∈ r.window, e.gsn ≠ g := by
  simp [Reassembler.entry, List.find?_eq_none]

theorem gsn_mem_of_entry (present : r.entry g ≠ none) : g ∈ r.window.map Entry.gsn := by
  obtain ⟨e, he⟩ := Option.ne_none_iff_exists'.mp present
  obtain ⟨mem, rfl⟩ := entry_spec he
  exact List.mem_map_of_mem mem

/-- The entries of as many consecutive GSNs are as many entries. -/
theorem length_le_of_present {k : Nat} (hk : k ≤ 16384) (present : ∀ i < k, r.entry (h + BitVec.ofNat 14 i) ≠ none) :
    k ≤ r.window.length := by
  have nodup : ((List.range k).map fun i => h + BitVec.ofNat 14 i).Nodup := by
    refine List.nodup_range.map_on fun i hi j hj same => ?_
    have value := congrArg BitVec.toNat (add_left_cancel same)
    simp only [BitVec.toNat_ofNat, List.mem_range] at value hi hj
    omega
  have sub : ((List.range k).map fun i => h + BitVec.ofNat 14 i) ⊆ r.window.map Entry.gsn := by
    intro x hx
    obtain ⟨i, hi, rfl⟩ := List.mem_map.mp hx
    exact gsn_mem_of_entry (present i (List.mem_range.mp hi))
  simpa using (nodup.subperm sub).length_le

/-! ### The awaited GSN (R101) -/

/-- A missing GSN after present ones lies less than once around the sequence ahead. -/
theorem missing_lt {k : Nat} (present : ∀ i < k, r.entry (h + BitVec.ofNat 14 i) ≠ none)
    (missing : r.entry (h + BitVec.ofNat 14 k) = none) : k < 16384 := by
  by_contra far
  refine present (k % 16384) (by omega) ?_
  rwa [show BitVec.ofNat 14 (k % 16384) = BitVec.ofNat 14 k from BitVec.eq_of_toNat_eq (by simp)]

theorem firstMissing_eq {n k : Nat} (fuel : k ≤ n) (present : ∀ i < k, r.entry (h + BitVec.ofNat 14 i) ≠ none)
    (missing : r.entry (h + BitVec.ofNat 14 k) = none) : r.firstMissing n h = h + BitVec.ofNat 14 k := by
  induction n generalizing h k with
  | zero => obtain rfl : k = 0 := by omega
            exact (gsn_add_zero h).symm
  | succ n ih =>
    unfold Reassembler.firstMissing
    cases k with
    | zero =>
      rw [gsn_add_zero] at missing ⊢
      rw [missing]; rfl
    | succ k =>
      have here := present 0 (Nat.succ_pos k)
      rw [gsn_add_zero] at here
      have shift : ∀ i, h + 1 + BitVec.ofNat 14 i = h + BitVec.ofNat 14 (i + 1) := fun i => by
        rw [Nat.add_comm]; exact gsn_add_add h 1 i
      rw [if_pos (Option.isSome_iff_ne_none.mpr here), ih (k := k) (by omega), shift]
      · exact fun i hi => by rw [shift]; exact present (i + 1) (by omega)
      · rwa [shift]

/-- N is the first GSN from the head on without an entry. -/
theorem awaited_eq {k : Nat} (head : r.head = some h) (present : ∀ i < k, r.entry (h + BitVec.ofNat 14 i) ≠ none)
    (missing : r.entry (h + BitVec.ofNat 14 k) = none) : r.awaited = some (h + BitVec.ofNat 14 k) := by
  have fuel := length_le_of_present (missing_lt present missing).le present
  unfold Reassembler.awaited
  rw [head, Option.map_some, firstMissing_eq (by omega) present missing]

/-! ### The window under a head -/

/-- Every entry lies 0 to `B` - 1 ahead of `h`. -/
def Reassembler.Spans (r : Reassembler) (h : Gsn) (B : Nat) : Prop := ∀ e ∈ r.window, (e.gsn - h).toNat < B

theorem Reassembler.Spans.mono {B C : Nat} (span : r.Spans h B) (le : B ≤ C) : r.Spans h C := fun e he => (span e he).trans_le le

/-- Of a window whose entries lie `k` or more ahead, what a head moved on by `k` spans. -/
theorem Reassembler.Spans.past {r' : Reassembler} {B k : Nat} (span : r.Spans h B) (sub : r'.window ⊆ r.window)
    (past : ∀ e ∈ r'.window, k ≤ (e.gsn - h).toNat) : r'.Spans (h + BitVec.ofNat 14 k) (B - k) := fun e he => by
  have near := span e (sub he)
  have far := past e he
  rw [gsn_dist_past far]
  omega

/-- With every entry near the head some GSN is missing, and the first is N. -/
theorem exists_awaited {B : Nat} (head : r.head = some h) (span : r.Spans h B) (small : B < 16384) :
    ∃ k, k ≤ B ∧ r.awaited = some (h + BitVec.ofNat 14 k) ∧ r.entry (h + BitVec.ofNat 14 k) = none := by
  have beyond : r.entry (h + BitVec.ofNat 14 B) = none := by
    refine entry_eq_none.mpr fun e he same => ?_
    have near := span e he
    rw [same, gsn_dist_add h small] at near
    exact lt_irrefl B near
  have some_missing : ∃ k, r.entry (h + BitVec.ofNat 14 k) = none := ⟨B, beyond⟩
  exact ⟨Nat.find some_missing, Nat.find_min' _ beyond,
    awaited_eq head (fun _ => Nat.find_min some_missing) (Nat.find_spec some_missing), Nat.find_spec some_missing⟩

/-! ### Entries taken at the head -/

/-- `es` are the window's entries at `h`, `h` + 1, …, not empty. -/
structure Reassembler.IsSpan (r : Reassembler) (h : Gsn) (es : List Entry) : Prop where
  nonempty : es ≠ []
  entries : ∀ i (hi : i < es.length), r.entry (h + BitVec.ofNat 14 i) = some es[i]

theorem Reassembler.IsRun.isSpan {es : List Entry} (run : r.IsRun h es) : r.IsSpan h es := ⟨run.nonempty, run.entries⟩

theorem isSpan_singleton {e : Entry} (entry : r.entry h = some e) : r.IsSpan h [e] where
  nonempty := List.cons_ne_nil _ _
  entries i hi := by
    obtain rfl : i = 0 := by simpa using hi
    simpa using entry

/-- Entries removed by GSN, as the statements say it. -/
theorem remove_eq (r : Reassembler) (es : List Entry) :
    r.remove (es.map Entry.gsn) = { r with window := r.window.filter fun e => ∀ x ∈ es, e.gsn ≠ x.gsn } := by
  unfold Reassembler.remove
  congr 1
  refine List.filter_congr fun e _ => ?_
  rw [Bool.eq_iff_iff]
  simp only [Bool.not_eq_true', List.contains_eq_mem, decide_eq_false_iff_not, decide_eq_true_eq, List.mem_map, not_exists, not_and]
  exact forall₂_congr fun x _ => ne_comm

theorem take_eq_after (r : Reassembler) (h : Gsn) (es : List Entry) : r.take h es = r.after h es := by
  unfold Reassembler.take Reassembler.after
  rw [remove_eq]

theorem after_window_sublist (r : Reassembler) (h : Gsn) (es : List Entry) : (r.after h es).window.Sublist r.window :=
  List.filter_sublist

theorem Reassembler.IsSpan.length_le {es : List Entry} {B : Nat} (taken : r.IsSpan h es) (span : r.Spans h B) (small : B < 16384) :
    es.length ≤ B := by
  by_contra long
  obtain ⟨mem, gsn⟩ := entry_spec (taken.entries B (by omega))
  have near := span _ mem
  rw [gsn, gsn_dist_add h small] at near
  exact lt_irrefl B near

/-- What is left after the entries at a head are taken lies past them. -/
theorem Reassembler.IsSpan.spans_after {es : List Entry} {B : Nat} (taken : r.IsSpan h es) (span : r.Spans h B) :
    (r.after h es).Spans (h + BitVec.ofNat 14 es.length) (B - es.length) := by
  refine span.past (r' := r.after h es) (after_window_sublist r h es).subset fun e he => ?_
  obtain ⟨-, other⟩ := List.mem_filter.mp he
  by_contra near
  have gsn := (entry_spec (taken.entries _ (Nat.lt_of_not_le near))).2
  rw [gsn_add_dist] at gsn
  exact of_decide_eq_true other _ (List.getElem_mem _) gsn.symm

theorem Reassembler.IsSpan.length_after {es : List Entry} (taken : r.IsSpan h es) :
    (r.after h es).window.length < r.window.length := by
  have first := List.length_pos_iff.mpr taken.nonempty
  obtain ⟨mem, -⟩ := entry_spec (taken.entries 0 first)
  refine List.length_filter_lt_length_iff_exists.mpr ⟨_, mem, fun other => ?_⟩
  exact of_decide_eq_true other _ (List.getElem_mem first) rfl

/-! ### Runs (R105) -/

theorem Reassembler.IsRun.length_le_window {es : List Entry} (run : r.IsRun h es) : es.length ≤ r.window.length :=
  length_le_of_present run.length_le fun i hi => by rw [run.entries i hi]; exact Option.some_ne_none _

/-- A scan passes the entries of a run that have no E. -/
theorem Reassembler.IsRun.scan_eq {es : List Entry} (run : r.IsRun h es) {n k : Nat} (fuel : k ≤ n) (hk : k ≤ es.length)
    (open_ : ∀ i (hi : i < es.length), i < k → es[i].e = false) :
    r.scan n h [] = r.scan (n - k) (h + BitVec.ofNat 14 k) (es.take k) := by
  induction k with
  | zero => rw [gsn_add_zero]; rfl
  | succ k ih =>
    obtain ⟨m, hm⟩ : ∃ m, n - k = m + 1 := ⟨n - (k + 1), by omega⟩
    have joins : (es[k].b && !(es.take k).isEmpty) = false := by
      cases k with
      | zero => simp
      | succ k => simp [run.later (k + 1) (by omega) (by omega)]
    rw [ih (by omega) (by omega) fun i hi hik => open_ i hi (by omega), hm, Reassembler.scan, run.entries k hk]
    simp only [joins, open_ k hk (by omega), Bool.false_eq_true, if_false]
    rw [show n - (k + 1) = m by omega, show h + BitVec.ofNat 14 k + 1 = h + BitVec.ofNat 14 (k + 1) from gsn_add_add h k 1,
      List.take_append_getElem]

theorem Reassembler.IsRun.runFrom_open {es : List Entry} (run : r.IsRun h es) (open_ : ∀ e ∈ es, e.e = false) :
    ∃ n, r.runFrom h = r.scan (n + 1) (h + BitVec.ofNat 14 es.length) es := by
  have short := run.length_le_window
  refine ⟨r.window.length - es.length, ?_⟩
  have passed := run.scan_eq (n := r.window.length + 1) (k := es.length) (by omega) le_rfl fun i hi _ => open_ _ (List.getElem_mem hi)
  rw [List.take_length, show r.window.length + 1 - es.length = r.window.length - es.length + 1 by omega] at passed
  exact passed

theorem Reassembler.IsRun.runFrom_broken {es : List Entry} {x : Entry} (run : r.IsRun h es) (open_ : ∀ e ∈ es, e.e = false)
    (next : r.entry (h + BitVec.ofNat 14 es.length) = some x) (begins : x.b = true) : r.runFrom h = .broken es := by
  obtain ⟨n, hn⟩ := run.runFrom_open open_
  have some_entry : es.isEmpty = false := by simpa using run.nonempty
  rw [hn, Reassembler.scan, next]
  simp [begins, some_entry]

theorem Reassembler.IsRun.runFrom_inProgress {es : List Entry} (run : r.IsRun h es) (open_ : ∀ e ∈ es, e.e = false)
    (missing : r.entry (h + BitVec.ofNat 14 es.length) = none) : r.runFrom h = .inProgress es := by
  obtain ⟨n, hn⟩ := run.runFrom_open open_
  rw [hn, Reassembler.scan, missing]

theorem Reassembler.IsRun.runFrom_complete {es : List Entry} {x : Entry} (run : r.IsRun h es) (last : es.getLast? = some x)
    (ends : x.e = true) : r.runFrom h = .complete es := by
  have short := run.length_le_window
  have pos := List.length_pos_iff.mpr run.nonempty
  have final : es[es.length - 1] = x := by
    rw [List.getLast?_eq_getElem?, List.getElem?_eq_getElem (by omega)] at last
    exact Option.some.inj last
  have joins : (x.b && !(es.take (es.length - 1)).isEmpty) = false := by
    by_cases one : es.length = 1
    · simp [one]
    · rw [← final, run.later (es.length - 1) (by omega) (by omega)]; rfl
  have whole : es.take (es.length - 1) ++ [x] = es := by
    rw [← final, List.take_append_getElem, Nat.sub_add_cancel pos, List.take_length]
  unfold Reassembler.runFrom
  rw [run.scan_eq (k := es.length - 1) (by omega) (by omega) fun i hi hlt => run.inner i hi (by omega),
    show r.window.length + 1 - (es.length - 1) = r.window.length - (es.length - 1) + 1 by omega, Reassembler.scan,
    run.entries (es.length - 1) (by omega), final]
  simp only [joins, ends, Bool.false_eq_true, if_false, if_true, whole]

/-- How the run `es` at `h` ends: by another B, by an E, or by a missing GSN. -/
inductive Reassembler.RunEnds (r : Reassembler) (h : Gsn) (es : List Entry) : Prop where
  | broken (eq : r.runFrom h = .broken es)
  | complete (eq : r.runFrom h = .complete es)
  | inProgress (eq : r.runFrom h = .inProgress es) (open_ : ∀ e ∈ es, e.e = false)
      (missing : r.entry (h + BitVec.ofNat 14 es.length) = none)

/-- The entries of the run from a head. -/
def HeadRun.entries : HeadRun → List Entry
  | .broken es => es
  | .complete es => es
  | .inProgress es => es

/-- A run without E goes on to its end. -/
theorem Reassembler.IsRun.exists_end {es : List Entry} (run : r.IsRun h es) (open_ : ∀ e ∈ es, e.e = false) :
    ∃ es, r.IsRun h es ∧ r.RunEnds h es := by
  induction hn : r.window.length + 1 - es.length generalizing es with
  | zero =>
    have short := run.length_le_window
    omega
  | succ n ih =>
    cases next : r.entry (h + BitVec.ofNat 14 es.length) with
    | none => exact ⟨es, run, .inProgress (run.runFrom_inProgress open_ next) open_ next⟩
    | some x =>
      cases begins : x.b with
      | true => exact ⟨es, run, .broken (run.runFrom_broken open_ next begins)⟩
      | false =>
        have longer := run.snoc open_ next begins
        cases ends : x.e with
        | true => exact ⟨_, longer, .complete (longer.runFrom_complete List.getLast?_concat ends)⟩
        | false =>
          refine ih longer (fun y hy => ?_) (by rw [List.length_append, List.length_singleton]; omega)
          obtain hy | hy := List.mem_append.mp hy
          · exact open_ y hy
          · rw [List.mem_singleton.mp hy]; exact ends

/-- An entry with B at `h` begins a run. -/
theorem exists_run {e : Entry} (entry : r.entry h = some e) (begins : e.b = true) : ∃ es, r.IsRun h es ∧ r.RunEnds h es := by
  have run := isRun_singleton entry begins
  cases ends : e.e with
  | true => exact ⟨_, run, .complete (run.runFrom_complete rfl ends)⟩
  | false => exact run.exists_end fun x hx => by rw [List.mem_singleton.mp hx]; exact ends

/-- What is found from an entry with B on is a run, and is called as it ends. -/
theorem isRun_runFrom {e : Entry} (entry : r.entry h = some e) (begins : e.b = true) :
    r.IsRun h (r.runFrom h).entries ∧ r.RunEnds h (r.runFrom h).entries := by
  obtain ⟨es, run, ends⟩ := exists_run entry begins
  have found : (r.runFrom h).entries = es := by cases ends <;> rename r.runFrom h = _ => eq <;> rw [eq] <;> rfl
  rw [found]
  exact ⟨run, ends⟩

end Sys2Proof.Machine
end

section
/-! PROOFS of the family 06, second layer: what a step of head processing makes of the reassembler (R104..R108), that head processing
comes to an end, and what it, gaps and force-advances leave alone (R101, R103, R110). -/

namespace Sys2Proof.Machine

variable {s t u : State} {r r' : Reassembler} {h : Gsn}

/-! ### Values of table memory -/

/-- Every word of table memory keeps the value last stored. -/
def SameValues (s t : State) : Prop := ∀ q, (t.tables.get q).val = (s.tables.get q).val

theorem SameValues.refl (s : State) : SameValues s s := fun _ => rfl

theorem SameValues.trans (h : SameValues s t) (k : SameValues t u) : SameValues s u := fun q => (k q).trans (h q)

theorem SameValues.of_eq (ht : t.tables = s.tables) : SameValues s t := fun q => by rw [ht]

theorem sameValues_correct (s : State) (q : TRef) : SameValues s (s.updTables fun t => t.correct q) := fun x => by
  have stored : (s.tables.correct q).get x = (s.tables.store q (s.tables.get q).val).get x := by
    rcases x with ⟨_ | _, i⟩ | ⟨_ | _, p, j⟩ | ⟨_ | _, i, j⟩ | _ <;> rfl
  rw [State.updTables_tables, stored, TableStore.get_store]
  split
  · next same => rw [same]
  · rfl

theorem sameValues_mark (s : State) (q : TRef) (n : Nat) :
    SameValues s (s.updTables fun t => (t.countUncorrectable n).mark q) := fun x => by
  rcases q with ⟨_ | _, i⟩ | ⟨_ | _, p, j⟩ | ⟨_ | _, i, j⟩ | _ <;>
    rcases x with ⟨_ | _, i⟩ | ⟨_ | _, p, j⟩ | ⟨_ | _, i, j⟩ | _ <;> rfl

theorem sameValues_count (s : State) (n : Nat) : SameValues s (s.updTables fun t => t.countUncorrectable n) := fun x => by
  rcases x with ⟨_ | _, i⟩ | ⟨_ | _, p, j⟩ | ⟨_ | _, i, j⟩ | _ <;> rfl

section look

variable {look : TRef → State → State} (hl : ∀ q s, SameValues s (look q s))
include hl

theorem sameValues_admit (b : List Byte) (n : Option Nat) (s : State) : SameValues s (admitInternalWith look b n s).1 := by
  unfold admitInternalWith
  split
  · dsimp only
    split <;> exact (hl _ s).trans (.of_eq rfl)
  · exact .of_eq rfl

theorem sameValues_sendSides (b : List Byte) (n : Nat) (s : State) : SameValues s (sendSides look b n s) := by
  unfold sendSides
  dsimp only
  have put : SameValues s (if n.testBit 1 then s.updCtl fun c => c.putNotice b else s) := by split <;> exact .of_eq rfl
  split
  · exact put.trans (sameValues_admit hl _ _ _)
  · exact put

theorem sameValues_sendNoticeWith (s : State) : SameValues s (sendNoticeWith look s) := by
  have noted : ∀ x, SameValues x (touchNotice look x) := fun _ => ((hl _ _).trans (hl _ _)).trans ((hl _ _).trans (hl _ _))
  have stamped : SameValues s (stampNotice s) := .of_eq rfl
  exact stamped.trans ((noted _).trans (sameValues_sendSides hl _ _ _))

theorem sameValues_newPendingWith (s : State) : SameValues s (newPendingWith look s) := by
  unfold newPendingWith
  dsimp only
  split
  · exact hl _ s
  · split
    · exact (hl _ s).trans (sameValues_sendNoticeWith hl _)
    · exact (hl _ s).trans (.of_eq rfl)

end look

theorem sameValues_touchWith {re : EventKind → Detail → State → State} (hr : ∀ k d s, SameValues s (re k d s)) (q : TRef) (s : State) :
    SameValues s (touchWith re q s) := by
  unfold touchWith
  split
  · exact .refl s
  · exact (sameValues_correct s q).trans (hr _ _ _)
  · split
    · exact sameValues_count s _
    · exact (sameValues_mark s q _).trans (hr _ _ _)

theorem sameValues_raiseN (n : Nat) : ∀ k d s, SameValues s (raiseN n k d s) := by
  induction n with
  | zero =>
    intro k d s
    unfold raiseN
    dsimp only
    split
    · exact sameValues_newPendingWith (fun _ s => .refl s) (s.setEvent k ((s.event k).occur d))
    · exact .of_eq rfl
  | succ n ih =>
    intro k d s
    unfold raiseN
    dsimp only
    split
    · exact sameValues_newPendingWith (sameValues_touchWith ih) (s.setEvent k ((s.event k).occur d))
    · exact .of_eq rfl

theorem sameValues_raiseEvent (k : EventKind) (d : Detail) (s : State) : SameValues s (raiseEvent k d s) := sameValues_raiseN 8 k d s

/-- A read stores nothing but a corrected word's own value (R135..R137). -/
theorem sameValues_touch (q : TRef) (s : State) : SameValues s (touch q s) := sameValues_touchWith sameValues_raiseEvent q s

/-! ### Work beside the window -/

/-- The counters that head processing may raise (R65, R105..R108, R143). -/
def headCounters : List GroupCtr :=
  offerCounters ++ [.orphans, .incomplete, .voidFrames, .tooLong, .queueOverflows, .toControl, .toFarm]

/-- Work that leaves the reassembler, the values of table memory, and all counters but those of head processing alone. -/
structure Aside (s t : State) : Prop where
  reas : t.reas = s.reas
  values : SameValues s t
  counters : ∀ c, c ∉ headCounters → t.counter c = s.counter c

theorem Aside.refl (s : State) : Aside s s := ⟨rfl, .refl s, fun _ _ => rfl⟩

theorem Aside.trans (h : Aside s t) (k : Aside t u) : Aside s u :=
  ⟨k.reas.trans h.reas, h.values.trans k.values, fun c hc => (k.counters c hc).trans (h.counters c hc)⟩

theorem aside_bump (s : State) {c : GroupCtr} (hc : c ∈ headCounters) : Aside s (s.bump c) :=
  ⟨rfl, .of_eq rfl, fun d hd => State.bump_counter_ne s c d fun e => hd (e ▸ hc)⟩

theorem aside_touchGroup (i : Fin 19) (s : State) : Aside s (touchGroup i s) :=
  have met := onlyReported_touch (.group .active i) s
  ⟨met.reas, sameValues_touch _ s, fun c hc => met.counters c fun offer => hc (List.mem_append_left _ offer)⟩

theorem aside_controlArrive (o : Origin) (b : List Byte) (s : State) : Aside s (controlArrive o b s) := by
  unfold controlArrive
  split
  · exact ⟨rfl, .of_eq rfl, fun _ _ => rfl⟩
  · exact aside_bump s (by decide)

/-- A frame delivered (R107, R108). -/
theorem aside_deliver (b : List Byte) (n : Nat) (s : State) : Aside s (deliver b n s) := by
  unfold deliver
  dsimp only
  have met : Aside s (if longEnough b && frameType b == controlType then touchGroup 0x0F (touchGroup 0x0E s) else s) := by
    split
    · exact (aside_touchGroup _ _).trans (aside_touchGroup _ _)
    · exact .refl s
  refine met.trans ?_
  generalize (if longEnough b && frameType b == controlType then touchGroup 0x0F (touchGroup 0x0E s) else s) = x
  split
  · exact (aside_controlArrive _ _ _).trans (aside_bump _ (by decide))
  · have queued : Aside x (x.updFarm fun f => { f with outQueue := f.outQueue ++ [{ bytes := b, blocks := n }] }) :=
      ⟨rfl, .of_eq rfl, fun _ _ => rfl⟩
    exact queued.trans (aside_bump _ (by decide))

/-! ### A step of head processing -/

/-- What a step of head processing makes of the reassembler: the discarding flag cleared, or the entries at the head taken (R104). -/
inductive HeadMoved (r : Reassembler) : Reassembler → Prop where
  | cleared (discarding : r.discarding = true) : HeadMoved r { r with discarding := false }
  | taken (h : Gsn) (es : List Entry) (d : Bool) (head : r.head = some h) (span : r.IsSpan h es) :
      HeadMoved r { r.after h es with discarding := d }

theorem aside_takeComplete (h : Gsn) (es : List Entry) (s : State) : Aside (s.updReas fun r => r.after h es) (takeComplete h es s) := by
  unfold takeComplete
  simp only [take_eq_after]
  split
  · exact aside_bump _ (by decide)
  · split
    · exact aside_bump _ (by decide)
    · exact aside_deliver _ _ _

/-- All that a step of head processing can do. -/
theorem headStep_moved (step : headStep s = some t) :
    s.reas.state = .reassemble ∧ ∃ r, HeadMoved s.reas r ∧ Aside (s.updReas fun _ => r) t := by
  unfold headStep at step
  split at step
  · next h state head =>
    refine ⟨state, ?_⟩
    split at step
    · cases step
    · next e entry =>
      simp only [take_eq_after] at step
      have one := isSpan_singleton entry
      split at step
      · next discarding =>
        split at step <;> cases step
        · exact ⟨_, .cleared discarding, .refl _⟩
        · exact ⟨_, .taken h [e] _ head one, .refl _⟩
      · split at step
        · cases step
          exact ⟨_, .taken h [e] _ head one, aside_bump (c := .orphans) _ (by decide)⟩
        · next begins =>
          have run := (isRun_runFrom entry (by simpa using begins)).1.isSpan
          split at step
          · next es found =>
            rw [found] at run
            cases step
            exact ⟨_, .taken h es _ head run, aside_bump (c := .incomplete) _ (by decide)⟩
          · next es found =>
            rw [found] at run
            cases step
            exact ⟨_, .taken h es _ head run, aside_takeComplete h es s⟩
          · next es found =>
            rw [found] at run
            split at step <;> cases step
            exact ⟨_, .taken h es true head run, aside_bump (c := .tooLong) _ (by decide)⟩
  · cases step

/-- Where a step of head processing leads the head, and what it leaves ahead of it. -/
theorem HeadMoved.spans {B : Nat} (moved : HeadMoved r r') (head : r.head = some h) (span : r.Spans h B) (small : B < 16384) :
    ∃ k, k ≤ B ∧ r'.head = some (h + BitVec.ofNat 14 k) ∧ r'.Spans (h + BitVec.ofNat 14 k) (B - k)
      ∧ (0 < k ∨ r.discarding = true ∧ r' = { r with discarding := false }) := by
  cases moved with
  | cleared discarding =>
    refine ⟨0, Nat.zero_le _, head.trans (congrArg some (gsn_add_zero h).symm), ?_, .inr ⟨discarding, rfl⟩⟩
    rw [gsn_add_zero]
    exact span
  | taken g es d at_ taken =>
    obtain rfl : g = h := Option.some.inj (at_.symm.trans head)
    exact ⟨es.length, taken.length_le span small, rfl, taken.spans_after span, .inl (List.length_pos_iff.mpr taken.nonempty)⟩

/-! ### Head processing comes to an end -/

/-- The steps of head processing that a window leaves room for. -/
def Reassembler.steps (r : Reassembler) : Nat := 2 * r.window.length + r.discarding.toNat

theorem HeadMoved.steps_lt (moved : HeadMoved r r') : r'.steps < r.steps := by
  cases moved with
  | cleared discarding => simp [Reassembler.steps, discarding]
  | taken h es d head span =>
    have shorter := span.length_after
    have flag := Bool.toNat_le d
    change 2 * (r.after h es).window.length + d.toNat < 2 * r.window.length + r.discarding.toNat
    omega

theorem headStep_steps (step : headStep s = some t) : t.reas.steps < s.reas.steps := by
  obtain ⟨-, r, moved, aside⟩ := headStep_moved step
  rw [aside.reas]
  exact moved.steps_lt

theorem headLoop_none {n : Nat} (stop : headStep s = none) : headLoop n s = s := by
  cases n with
  | zero => rfl
  | succ n => rw [headLoop, stop]

theorem headLoop_some {n : Nat} (step : headStep s = some t) : headLoop (n + 1) s = headLoop n t := by rw [headLoop, step]

/-- Any bound that leaves room for every step is never reached. -/
theorem headLoop_stops {n : Nat} (room : s.reas.steps ≤ n) : headStep (headLoop n s) = none := by
  induction n generalizing s with
  | zero =>
    cases step : headStep s with
    | none => exact step
    | some t => have := headStep_steps step; omega
  | succ n ih =>
    cases step : headStep s with
    | none => rw [headLoop_none step]; exact step
    | some t =>
      have := headStep_steps step
      rw [headLoop_some step]
      exact ih (by omega)

/-- Two such bounds come to the same. -/
theorem headLoop_eq {m n : Nat} (hm : s.reas.steps ≤ m) (hn : s.reas.steps ≤ n) : headLoop m s = headLoop n s := by
  induction m generalizing s n with
  | zero =>
    cases step : headStep s with
    | none => rw [headLoop_none step, headLoop_none step]
    | some t => have := headStep_steps step; omega
  | succ m ih =>
    cases step : headStep s with
    | none => rw [headLoop_none step, headLoop_none step]
    | some t =>
      have fewer := headStep_steps step
      obtain ⟨n, rfl⟩ : ∃ k, n = k + 1 := ⟨n - 1, by omega⟩
      rw [headLoop_some step, headLoop_some step]
      exact ih (by omega) (by omega)

theorem Reassembler.steps_le (r : Reassembler) : r.steps ≤ 2 * r.window.length + 1 := Nat.add_le_add_left (Bool.toNat_le _) _

/-- Nothing applies after head processing (R104). -/
theorem headStep_processHead (s : State) : headStep (processHead s) = none := headLoop_stops (s.reas.steps_le.trans (by omega))

theorem processHead_stopped (stop : headStep s = none) : processHead s = s := headLoop_none stop

theorem processHead_step (step : headStep s = some t) : processHead s = processHead t := by
  have fewer := headStep_steps step
  have room := s.reas.steps_le
  unfold processHead
  rw [headLoop_some step]
  exact headLoop_eq (by omega) (t.reas.steps_le.trans (by omega))

/-- Head processing step by step: what holds where it stops and is handed back over a step holds of every state. -/
theorem processHead_induction {P : State → Prop} (stop : ∀ s, headStep s = none → P s)
    (step : ∀ s t, headStep s = some t → P t → P s) (s : State) : P s := by
  induction hn : s.reas.steps using Nat.strong_induction_on generalizing s with
  | _ n ih =>
    cases hs : headStep s with
    | none => exact stop s hs
    | some t => exact step s t hs (ih _ (hn ▸ headStep_steps hs) t rfl)

/-! ### What head processing and gaps leave alone -/

/-- The reassembler goes on in its state: entries may leave the window, and the head may move. -/
structure Reassembler.Advanced (r r' : Reassembler) : Prop where
  state : r'.state = r.state
  size : r'.size = r.size
  first : r'.first = r.first
  resync : r'.resync = r.resync
  window : r'.window.Sublist r.window
  head : r.head ≠ none → r'.head ≠ none

theorem Reassembler.Advanced.refl (r : Reassembler) : r.Advanced r := ⟨rfl, rfl, rfl, rfl, .refl _, id⟩

theorem Reassembler.Advanced.trans {r'' : Reassembler} (h : r.Advanced r') (k : r'.Advanced r'') : r.Advanced r'' :=
  ⟨k.state.trans h.state, k.size.trans h.size, k.first.trans h.first, k.resync.trans h.resync, k.window.trans h.window,
    fun hd => k.head (h.head hd)⟩

theorem HeadMoved.advanced (moved : HeadMoved r r') : r.Advanced r' := by
  cases moved with
  | cleared => exact ⟨rfl, rfl, rfl, rfl, .refl _, id⟩
  | taken h es d => exact ⟨rfl, rfl, rfl, rfl, after_window_sublist r h es, fun _ => Option.some_ne_none _⟩

/-- Work on the head: the reassembler goes on, the values of table memory stay, and counters other than `cs` do too. -/
structure HeadWork (cs : List GroupCtr) (s t : State) : Prop where
  reas : s.reas.Advanced t.reas
  values : SameValues s t
  counters : ∀ c, c ∉ cs → t.counter c = s.counter c

variable {cs : List GroupCtr}

theorem HeadWork.refl (cs : List GroupCtr) (s : State) : HeadWork cs s s := ⟨.refl _, .refl s, fun _ _ => rfl⟩

theorem HeadWork.trans (h : HeadWork cs s t) (k : HeadWork cs t u) : HeadWork cs s u :=
  ⟨h.reas.trans k.reas, h.values.trans k.values, fun c hc => (k.counters c hc).trans (h.counters c hc)⟩

theorem HeadWork.mono {ds : List GroupCtr} (h : HeadWork cs s t) (sub : cs ⊆ ds) : HeadWork ds s t :=
  ⟨h.reas, h.values, fun c hc => h.counters c fun mem => hc (sub mem)⟩

theorem headWork_updReas {f : Reassembler → Reassembler} (h : s.reas.Advanced (f s.reas)) : HeadWork cs s (s.updReas f) :=
  ⟨h, .of_eq rfl, fun _ _ => rfl⟩

theorem headWork_bump (s : State) {c : GroupCtr} (hc : c ∈ cs) : HeadWork cs s (s.bump c) :=
  ⟨.refl _, .of_eq rfl, fun d hd => State.bump_counter_ne s c d fun e => hd (e ▸ hc)⟩

theorem Aside.headWork (h : Aside s t) : HeadWork headCounters s t := ⟨h.reas ▸ .refl _, h.values, h.counters⟩

theorem headWork_headStep (step : headStep s = some t) : HeadWork headCounters s t := by
  obtain ⟨-, r, moved, aside⟩ := headStep_moved step
  exact (headWork_updReas (f := fun _ => r) moved.advanced).trans aside.headWork

theorem headWork_processHead (s : State) : HeadWork headCounters s (processHead s) := by
  induction s using processHead_induction with
  | stop s stop => rw [processHead_stopped stop]; exact .refl _ s
  | step s t step ih => rw [processHead_step step]; exact (headWork_headStep step).trans ih

/-- The counters that head processing and gaps may raise (R109). -/
def gapCounters : List GroupCtr := headCounters ++ [.gapHold, .gapShortcut, .gapForced]

theorem GapCause.counter_mem (cause : GapCause) : cause.counter ∈ gapCounters := by cases cause <;> decide

/-- A gap, as R110 says it. -/
theorem declareGap_eq {n : Gsn} (cause : GapCause) (awaited : s.reas.awaited = some n) :
    declareGap cause s = processHead (((if s.reas.inProgress = [] then s else s.bump .incomplete).updReas fun r =>
      { r with window := r.window.filter (fun e => ∀ x ∈ s.reas.inProgress, e.gsn ≠ x.gsn), head := some (n + 1) }).bump
        cause.counter) := by
  unfold declareGap
  simp only [awaited, remove_eq]
  cases s.reas.inProgress <;> rfl

theorem headWork_declareGap (cause : GapCause) (s : State) : HeadWork gapCounters s (declareGap cause s) := by
  cases awaited : s.reas.awaited with
  | none => unfold declareGap; rw [awaited]; exact .refl _ s
  | some n =>
    rw [declareGap_eq cause awaited]
    have counted : HeadWork gapCounters s (if s.reas.inProgress = [] then s else s.bump .incomplete) := by
      split
      · exact .refl _ s
      · exact headWork_bump s (by decide)
    refine counted.trans (HeadWork.trans (headWork_updReas ?_) ((headWork_bump _ cause.counter_mem).trans
      ((headWork_processHead _).mono (List.subset_append_left _ _))))
    exact ⟨rfl, rfl, rfl, rfl, List.filter_sublist, fun _ => Option.some_ne_none _⟩

theorem headWork_setHold (s : State) : HeadWork gapCounters s (setHold s) := by
  unfold setHold
  split
  · split
    · exact headWork_updReas ⟨rfl, rfl, rfl, rfl, .refl _, id⟩
    · exact ((aside_touchGroup 0x03 s).headWork.mono (List.subset_append_left _ _)).trans
        (headWork_updReas ⟨rfl, rfl, rfl, rfl, .refl _, id⟩)
  · exact .refl _ s

theorem headWork_testsN (n : Nat) (s : State) : HeadWork gapCounters s (testsN n s) := by
  induction n generalizing s with
  | zero => exact .refl _ s
  | succ n ih =>
    unfold testsN
    split
    · exact (headWork_declareGap _ s).trans (ih _)
    · dsimp only
      split
      · exact (headWork_setHold s).trans ((headWork_declareGap _ _).trans (ih _))
      · exact headWork_setHold s

theorem headWork_headProcess (s : State) : HeadWork gapCounters s (headProcess s) := by
  have processed := (headWork_processHead s).mono (List.subset_append_left headCounters [.gapHold, .gapShortcut, .gapForced])
  unfold headProcess
  dsimp only
  split
  · exact processed.trans (headWork_testsN _ _)
  · exact processed

theorem headWork_advanceStep (s : State) : HeadWork gapCounters s (advanceStep s) := by
  have processed : ∀ x, HeadWork gapCounters x (processHead x) := fun x =>
    (headWork_processHead x).mono (List.subset_append_left _ _)
  unfold advanceStep
  split
  · exact .refl _ s
  · next h _ =>
    split
    · exact headWork_declareGap _ s
    · split
      · simp only [take_eq_after]
        exact HeadWork.trans (headWork_updReas ⟨rfl, rfl, rfl, rfl, after_window_sublist _ h _, fun _ => Option.some_ne_none _⟩)
          ((headWork_bump _ (by decide)).trans (processed _))
      · exact processed s

theorem headWork_advanceN (n : Nat) (T : Gsn) (s : State) : HeadWork gapCounters s (advanceN n T s) := by
  induction n generalizing s with
  | zero => exact .refl _ s
  | succ n ih =>
    unfold advanceN
    split
    · exact .refl _ s
    · split
      · exact (headWork_advanceStep s).trans (ih _)
      · exact .refl _ s

/-! ### The head's way through the window -/

/-- The head stands at `h`, and every entry lies 0 to `B` - 1 ahead of it. -/
structure State.HeadAt (s : State) (h : Gsn) (B : Nat) : Prop where
  head : s.reas.head = some h
  span : s.reas.Spans h B

theorem headAt_headStep {B : Nat} (at_ : s.HeadAt h B) (small : B < 16384) (step : headStep s = some t) :
    ∃ k, k ≤ B ∧ t.HeadAt (h + BitVec.ofNat 14 k) (B - k) ∧ (0 < k ∨ t.reas = { s.reas with discarding := false }) := by
  obtain ⟨-, r, moved, aside⟩ := headStep_moved step
  obtain ⟨k, le, head, span, progress⟩ := moved.spans at_.head at_.span small
  have reas : t.reas = r := aside.reas
  exact ⟨k, le, ⟨reas ▸ head, reas ▸ span⟩, progress.imp_right fun c => reas.trans c.2⟩

/-- Head processing moves the head on, or does nothing but to clear the discarding flag. -/
theorem headAt_processHead {B : Nat} (at_ : s.HeadAt h B) (small : B < 16384) :
    ∃ k, k ≤ B ∧ (processHead s).HeadAt (h + BitVec.ofNat 14 k) (B - k)
      ∧ (0 < k ∨ ∃ d, (processHead s).reas = { s.reas with discarding := d }) := by
  induction s using processHead_induction generalizing h B with
  | stop s stop =>
    rw [processHead_stopped stop]
    exact ⟨0, Nat.zero_le _, by rw [gsn_add_zero]; exact at_, .inr ⟨_, rfl⟩⟩
  | step s t step ih =>
    obtain ⟨j, hj, next, first⟩ := headAt_headStep at_ small step
    obtain ⟨k, hk, last, later⟩ := ih next (by omega)
    rw [gsn_add_add, Nat.sub_sub] at last
    rw [processHead_step step]
    refine ⟨j + k, by omega, last, ?_⟩
    obtain moved | same := first
    · exact .inl (by omega)
    · refine later.imp (fun _ => by omega) fun ⟨d, hd⟩ => ⟨d, hd.trans ?_⟩
      rw [same]

/-- A gap moves the head past N (R110). -/
theorem headAt_declareGap {B : Nat} (cause : GapCause) (at_ : s.HeadAt h B) (small : B < 16384) :
    ∃ k, 0 < k ∧ (declareGap cause s).HeadAt (h + BitVec.ofNat 14 k) (B - k) := by
  obtain ⟨k, le, awaited, missing⟩ := exists_awaited at_.head at_.span small
  rw [declareGap_eq cause awaited]
  generalize hx : State.bump _ cause.counter = x
  have moved : x.HeadAt (h + BitVec.ofNat 14 (k + 1)) (B - (k + 1)) := by
    have reas : x.reas = { s.reas with
        window := s.reas.window.filter (fun e => ∀ x ∈ s.reas.inProgress, e.gsn ≠ x.gsn), head := some (h + BitVec.ofNat 14 k + 1) } := by
      rw [← hx]
      split <;> rfl
    refine ⟨by rw [reas]; exact congrArg some (gsn_add_add h k 1), at_.span.past (by rw [reas]; exact List.filter_subset_self _) ?_⟩
    rw [reas]
    intro e he
    obtain ⟨mem, other⟩ := List.mem_filter.mp he
    have other := of_decide_eq_true other
    by_contra near
    have lt := (e.gsn - h).isLt
    by_cases here : (e.gsn - h).toNat = k
    · exact entry_eq_none.mp missing e mem (by rw [← here, gsn_add_dist])
    · refine other e ?_ rfl
      unfold Reassembler.inProgress
      rw [at_.head, awaited]
      refine List.mem_filter.mpr ⟨mem, decide_eq_true ?_⟩
      rw [gsn_dist_add h (by omega)]
      omega
  obtain ⟨j, -, last, -⟩ := headAt_processHead moved (by omega)
  rw [gsn_add_add, Nat.sub_sub] at last
  exact ⟨k + 1 + j, by omega, last⟩

/-! ### A force-advance (R103) -/

theorem awaited_missing (head : r.head = some h) (missing : r.entry h = none) : r.awaited = some h := by
  have awaited := awaited_eq (k := 0) head (fun i hi => absurd hi (Nat.not_lt_zero i)) (by rwa [gsn_add_zero])
  rwa [gsn_add_zero] at awaited

/-- A FORCED gap at a missing head. -/
theorem advanceStep_missing (head : s.reas.head = some h) (missing : s.reas.entry h = none) :
    advanceStep s = processHead ((s.updReas fun r => { r with head := some (h + 1) }).bump .gapForced) := by
  have awaited := awaited_missing head missing
  have none_before : s.reas.inProgress = [] := by
    unfold Reassembler.inProgress
    rw [head, awaited]
    exact List.filter_eq_nil_iff.mpr fun e _ => by simp
  unfold advanceStep
  simp only [head, missing]
  rw [declareGap_eq .forced awaited, none_before, if_pos rfl]
  congr 2
  simp [State.updReas]

/-- The frame in progress at the head discarded whole. -/
theorem advanceStep_frame {es : List Entry} (state : s.reas.state = .reassemble) (head : s.reas.head = some h) (run : s.reas.IsRun h es)
    (open_ : ∀ e ∈ es, e.e = false) (missing : s.reas.entry (h + BitVec.ofNat 14 es.length) = none) :
    advanceStep s = (s.updReas fun r => r.after h es).bump .incomplete := by
  have first := run.entries 0 (List.length_pos_iff.mpr run.nonempty)
  rw [gsn_add_zero] at first
  have stopped : headStep ((s.updReas fun r => r.after h es).bump .incomplete) = none := by
    have left : (s.reas.after h es).entry (h + BitVec.ofNat 14 es.length) = none :=
      entry_eq_none.mpr fun e he => entry_eq_none.mp missing e ((after_window_sublist _ _ _).subset he)
    unfold headStep
    rw [State.bump_reas, State.updReas_reas, show (s.reas.after h es).state = .reassemble from state]
    change (match (s.reas.after h es).entry (h + BitVec.ofNat 14 es.length) with | none => none | some e => _) = none
    rw [left]
  unfold advanceStep
  simp only [head, first, run.first, run.runFrom_inProgress open_ missing, take_eq_after]
  exact processHead_stopped stopped

/-- A frame is in progress at `h`: a run without E up to a missing GSN (R101). -/
def Reassembler.FrameOpen (r : Reassembler) (h : Gsn) : Prop :=
  ∃ es, r.IsRun h es ∧ (∀ x ∈ es, x.e = false) ∧ r.entry (h + BitVec.ofNat 14 es.length) = none

theorem Reassembler.FrameOpen.congr (open_ : r.FrameOpen h) (same : r'.window = r.window) : r'.FrameOpen h := by
  have entry : r'.entry = r.entry := by funext g; unfold Reassembler.entry; rw [same]
  obtain ⟨es, run, noE, missing⟩ := open_
  exact ⟨es, ⟨run.nonempty, entry ▸ run.entries, run.first, run.later, run.inner⟩, noE, entry ▸ missing⟩

/-- An entry at the head without B, or one whose run is whole or broken. -/
theorem advanceStep_other {e : Entry} (head : s.reas.head = some h) (entry : s.reas.entry h = some e)
    (other : e.b = true → ∀ es, s.reas.runFrom h ≠ .inProgress es) : advanceStep s = processHead s := by
  unfold advanceStep
  simp only [head, entry]
  split
  · next es begins found => exact absurd found (other begins es)
  · rfl

/-- The three shapes of a step of a force-advance. -/
theorem advanceStep_cases (state : s.reas.state = .reassemble) (head : s.reas.head = some h) :
    (s.reas.entry h = none ∧ advanceStep s = processHead ((s.updReas fun r => { r with head := some (h + 1) }).bump .gapForced))
    ∨ (∃ es, s.reas.IsRun h es ∧ (∀ e ∈ es, e.e = false) ∧ s.reas.entry (h + BitVec.ofNat 14 es.length) = none
        ∧ advanceStep s = (s.updReas fun r => r.after h es).bump .incomplete)
    ∨ (∃ e, s.reas.entry h = some e ∧ ¬s.reas.FrameOpen h ∧ advanceStep s = processHead s) := by
  cases entry : s.reas.entry h with
  | none => exact .inl ⟨rfl, advanceStep_missing head entry⟩
  | some e =>
    have other : (e.b = true → ∀ es, s.reas.runFrom h ≠ .inProgress es) →
        ∃ x, some e = some x ∧ ¬s.reas.FrameOpen h ∧ advanceStep s = processHead s := by
      refine fun ne => ⟨e, rfl, ?_, advanceStep_other head entry ne⟩
      rintro ⟨es, run, open_, missing⟩
      have first := run.entries 0 (List.length_pos_iff.mpr run.nonempty)
      rw [gsn_add_zero, entry] at first
      exact ne (Option.some.inj first ▸ run.first _) es (run.runFrom_inProgress open_ missing)
    cases begins : e.b with
    | false => exact .inr (.inr (other fun hb => absurd hb (by simp [begins])))
    | true =>
      obtain ⟨run, ends⟩ := isRun_runFrom entry begins
      cases ends with
      | broken found => exact .inr (.inr (other fun _ es eq => HeadRun.noConfusion (found.symm.trans eq)))
      | complete found => exact .inr (.inr (other fun _ es eq => HeadRun.noConfusion (found.symm.trans eq)))
      | inProgress _ open_ missing =>
        exact .inr (.inl ⟨_, run, open_, missing, advanceStep_frame state head run open_ missing⟩)

/-- Where head processing stops at a present head, a frame is in progress there. -/
theorem stopped_frameOpen {e : Entry} (state : s.reas.state = .reassemble) (head : s.reas.head = some h) (entry : s.reas.entry h = some e)
    (stop : headStep s = none) : s.reas.FrameOpen h := by
  unfold headStep at stop
  simp only [state, head, entry] at stop
  split at stop
  · split at stop <;> cases stop
  · split at stop
    · cases stop
    · next begins =>
      obtain ⟨run, ends⟩ := isRun_runFrom entry (by simpa using begins)
      cases ends with
      | broken found => rw [found] at stop; cases stop
      | complete found => rw [found] at stop; cases stop
      | inProgress _ open_ missing => exact ⟨_, run, open_, missing⟩

/-- Each step of a force-advance moves the head on. -/
theorem headAt_advanceStep {B : Nat} (state : s.reas.state = .reassemble) (at_ : s.HeadAt h B) (small : B < 16384) (pos : 0 < B) :
    ∃ k, 0 < k ∧ k ≤ B ∧ (advanceStep s).HeadAt (h + BitVec.ofNat 14 k) (B - k) := by
  obtain ⟨missing, eq⟩ | ⟨es, run, -, -, eq⟩ | ⟨e, entry, other, eq⟩ := advanceStep_cases state at_.head
  · rw [eq]
    have moved : ((s.updReas fun r => { r with head := some (h + 1) }).bump .gapForced).HeadAt (h + BitVec.ofNat 14 1) (B - 1) := by
      refine ⟨rfl, at_.span.past (List.Subset.refl _) fun e he => ?_⟩
      by_contra here
      refine entry_eq_none.mp missing e he ?_
      rw [← gsn_add_dist e.gsn h, show (e.gsn - h).toNat = 0 by omega, gsn_add_zero]
    obtain ⟨k, le, next, -⟩ := headAt_processHead moved (by omega)
    rw [gsn_add_add, Nat.sub_sub] at next
    exact ⟨1 + k, by omega, by omega, next⟩
  · rw [eq]
    exact ⟨es.length, List.length_pos_iff.mpr run.nonempty, run.isSpan.length_le at_.span small, rfl, run.isSpan.spans_after at_.span⟩
  · rw [eq]
    obtain ⟨k, le, next, pos | ⟨d, same⟩⟩ := headAt_processHead at_ small
    · exact ⟨k, pos, le, next⟩
    · have reassembling : (processHead s).reas.state = .reassemble := by rw [same]; exact state
      have open_ := stopped_frameOpen (e := e) reassembling (by rw [same]; exact at_.head) (by rw [same]; exact entry)
        (headStep_processHead s)
      exact absurd (open_.congr (by rw [same])) other

/-- The statement's force-advance, one step back. -/
theorem Advances.of_step {T : Gsn} (state : s.reas.state = .reassemble) (head : s.reas.head = some h) (behind : gsnAhead T h = true)
    (rest : Advances T (advanceStep s) u) : Advances T s u := by
  obtain ⟨missing, eq⟩ | ⟨es, run, open_, missing, eq⟩ | ⟨e, entry, other, eq⟩ := advanceStep_cases state head
  · exact .gap h head behind missing (eq ▸ rest)
  · exact .frame h es head behind run open_ missing (eq ▸ rest)
  · exact .present h e head behind entry other (eq ▸ rest)

/-- The head lies behind the target exactly while the arrival `a` is W or more ahead of it. -/
theorem gsnAhead_target {a : Gsn} {W : Nat} (least : 1 ≤ W) (greatest : W ≤ 1024) (near : (a - h).toNat < 8192) :
    gsnAhead (a - BitVec.ofNat 14 (W - 1)) h = decide (W ≤ (a - h).toNat) := by
  have dist : (a - BitVec.ofNat 14 (W - 1) - h).toNat = (16384 - (W - 1) + (a - h).toNat) % 16384 := by
    rw [sub_right_comm, BitVec.toNat_sub, BitVec.toNat_ofNat, Nat.mod_eq_of_lt (a := W - 1) (by omega)]
  unfold gsnAhead
  rw [dist, Bool.eq_iff_iff]
  simp only [Bool.and_eq_true, decide_eq_true_eq]
  omega

/-- A force-advance to `W` - 1 behind the arrival `a`: its steps, and where it leaves the head and the window (R103). -/
theorem advances_advanceN {a : Gsn} {W : Nat} (least : 1 ≤ W) (greatest : W ≤ 1024) (n : Nat) (state : s.reas.state = .reassemble)
    (at_ : s.HeadAt h (a - h).toNat) (near : (a - h).toNat < 8192) (fuel : (a - h).toNat ≤ n) :
    ∃ h', Advances (a - BitVec.ofNat 14 (W - 1)) s (advanceN n (a - BitVec.ofNat 14 (W - 1)) s)
      ∧ (advanceN n (a - BitVec.ofNat 14 (W - 1)) s).HeadAt h' (a - h').toNat ∧ (a - h').toNat < W := by
  have target := gsnAhead_target least greatest near
  induction n generalizing s h with
  | zero =>
    rw [decide_eq_false (by omega)] at target
    exact ⟨h, .reached h at_.head target, at_, by omega⟩
  | succ n ih =>
    unfold advanceN
    simp only [at_.head]
    rw [target]
    by_cases far : W ≤ (a - h).toNat
    · rw [decide_eq_true far] at target ⊢
      obtain ⟨k, pos, le, next⟩ := headAt_advanceStep state at_ (by omega) (by omega)
      rw [← gsn_dist_past le] at next
      have closer := gsn_dist_past le
      obtain ⟨h', steps, last, reached⟩ := ih ((headWork_advanceStep s).reas.state.trans state) next (by omega) (by omega)
        (gsnAhead_target least greatest (by omega))
      exact ⟨h', .of_step state at_.head target steps, last, reached⟩
    · rw [decide_eq_false far] at target ⊢
      exact ⟨h, .reached h at_.head target, at_, by omega⟩

end Sys2Proof.Machine
end

section
/-! PROOFS of the family 06, third layer: the reassembler's deadlines, the tests that end head processing and the resync on sound table
memory (R100, R101, R104, R109..R113). Settles O14 and O40. -/

namespace Sys2Proof.Machine

variable {s t : State} {r : Reassembler} {h : Gsn}

/-! ### Arrivals in IDLE (R98) -/

/-- A suspension of the shortcut, whatever it reads. -/
theorem suspendShortcut_frame (s : State) :
    ∃ e, (suspendShortcut s).reas = { s.reas with suspension := some e } ∧ (suspendShortcut s).farm = s.farm := by
  have met := onlyReported_touch (.group .active 0x03) s
  refine ⟨max ((touchGroup 0x03 s).reas.suspension.getD 0) ((touchGroup 0x03 s).now + (touchGroup 0x03 s).holdTime), ?_, met.farm⟩
  unfold suspendShortcut
  rw [State.updReas_reas, show (touchGroup 0x03 s).reas = s.reas from met.reas]

/-- An arrival's suspension leaves everything else of the reassembler alone. -/
theorem arrivalSuspends_frame (a : Entry) (s : State) :
    ∃ e, (if a.rrt then suspendShortcut s else s).reas = { s.reas with suspension := e }
      ∧ (if a.rrt then suspendShortcut s else s).farm = s.farm := by
  split
  · obtain ⟨e, reas, farm⟩ := suspendShortcut_frame s
    exact ⟨some e, reas, farm⟩
  · exact ⟨s.reas.suspension, rfl, rfl⟩

/-- Settles O14: the state is IDLE with the suspension set too. -/
theorem idleArrivalsDiscarded : Obligations.IdleArrivalsDiscarded := by
  intro s a idle
  obtain ⟨e, reas, farm⟩ := arrivalSuspends_frame a s
  have taken : arrive a s = (if a.rrt then suspendShortcut s else s).bump .idleDiscards := by
    unfold arrive
    simp only [reas, idle]
  rw [taken]
  exact ⟨rfl, by rw [State.bump_reas, reas], farm⟩

/-! ### The shortcut's conditions (R112) -/

theorem running_iff (st : PairState) : st.running = true ↔ st ∈ [PairState.probation, .active, .draining] := by cases st <;> decide

theorem mem_receiving (p : PairIx) : p ∈ s.receiving ↔ (s.pair p).state ∈ [PairState.probation, .active, .draining] := by
  have all : p ∈ allPairs := by revert p; decide
  unfold State.receiving
  rw [List.mem_filter, running_iff]
  exact and_iff_right all

theorem past_iff (pp : PairPort) (n : Gsn) :
    pp.past n = true ↔ ∃ l, pp.ldg = some l ∧ 1 ≤ (l - n).toNat ∧ (l - n).toNat ≤ 8191 := by
  unfold PairPort.past
  cases pp.ldg <;> simp [gsnAhead]

theorem suspended_eq_false : s.suspended = false ↔ ∀ e, s.reas.suspension = some e → e ≤ s.now := by
  unfold State.suspended
  cases s.reas.suspension <;> simp

theorem shortcutHolds_iff :
    s.shortcutHolds = true ↔ s.reas.state = .reassemble ∧ ∃ n, s.reas.awaited = some n
      ∧ (∃ p, (s.pair p).state ∈ [PairState.probation, .active, .draining])
      ∧ (∀ p, (s.pair p).state ∈ [PairState.probation, .active, .draining] →
          (∃ l, (s.pair p).ldg = some l ∧ 1 ≤ (l - n).toNat ∧ (l - n).toNat ≤ 8191) ∧ (s.pair p).rx = .inStep)
      ∧ ∀ e, s.reas.suspension = some e → e ≤ s.now := by
  have inStep : ∀ x : RxState, x ≠ .retryAsk ↔ x = .inStep := fun x => by cases x <;> decide
  have some_pair : s.receiving.isEmpty = false ↔ ∃ p, p ∈ s.receiving := by
    rw [← Bool.not_eq_true, List.isEmpty_iff, List.eq_nil_iff_forall_not_mem]
    simp
  unfold State.shortcutHolds
  split
  · next n state awaited =>
    simp only [Bool.and_eq_true, Bool.not_eq_true', some_pair, List.all_eq_true, past_iff, decide_eq_true_eq, inStep,
      suspended_eq_false, mem_receiving, state, awaited, true_and, Option.some.injEq, exists_eq_left']
    constructor
    · rintro ⟨⟨⟨any, ldg⟩, rx⟩, ended⟩
      exact ⟨any, fun p hp => ⟨ldg p hp, rx p hp⟩, ended⟩
    · rintro ⟨any, each, ended⟩
      exact ⟨⟨⟨any, fun p hp => (each p hp).1⟩, fun p hp => (each p hp).2⟩, ended⟩
  · next other => 
    refine ⟨fun h => Bool.noConfusion h, ?_⟩
    rintro ⟨state, n, awaited, -⟩
    exact absurd awaited (other n state)

/-! ### The hold deadline (R111) -/

theorem earliest_eq_none {ts : List Nat} : earliest ts = none ↔ ts = [] := by
  cases ts with
  | nil => simp [earliest]
  | cons t ts => 
    unfold earliest
    split <;> simp

theorem earliest_spec {ts : List Nat} {t : Nat} (found : earliest ts = some t) : t ∈ ts ∧ ∀ x ∈ ts, t ≤ x := by
  induction ts generalizing t with
  | nil => cases found
  | cons x ts ih =>
    unfold earliest at found
    cases later : earliest ts with
    | none =>
      obtain rfl := earliest_eq_none.mp later
      rw [later] at found
      cases found
      simp
    | some u =>
      obtain ⟨mem, least⟩ := ih later
      rw [later] at found
      cases found
      refine ⟨?_, List.forall_mem_cons.mpr ⟨Nat.min_le_left _ _, fun y hy => (Nat.min_le_right _ _).trans (least y hy)⟩⟩
      rcases min_choice x u with eq | eq <;> rw [eq]
      · exact List.mem_cons_self
      · exact List.mem_cons_of_mem _ mem

theorem earliest_of_least {ts : List Nat} {t : Nat} (mem : t ∈ ts) (least : ∀ x ∈ ts, t ≤ x) : earliest ts = some t := by
  cases found : earliest ts with
  | none => rw [earliest_eq_none.mp found] at mem; cases mem
  | some u =>
    obtain ⟨among, before⟩ := earliest_spec found
    rw [le_antisymm (before t mem) (least u among)]

theorem mem_ahead {n : Gsn} {e : Entry} (awaited : r.awaited = some n) :
    e ∈ r.ahead ↔ e ∈ r.window ∧ 1 ≤ (e.gsn - n).toNat ∧ (e.gsn - n).toNat ≤ 8191 := by
  have apart : e.gsn ≠ n ↔ 1 ≤ (e.gsn - n).toNat := by
    rw [Nat.one_le_iff_ne_zero, ne_eq, ne_eq, ← sub_eq_zero, ← BitVec.toNat_inj]
    rfl
  unfold Reassembler.ahead
  rw [awaited]
  simp only [List.mem_filter, Bool.and_eq_true, decide_eq_true_eq, apart]

/-- The hold deadline worked out where an entry ahead of N is the earliest. -/
theorem setHold_earliest {n : Gsn} {e : Entry} (sound : s.tables.Sound) (state : s.reas.state = .reassemble)
    (awaited : s.reas.awaited = some n) (mem : e ∈ s.reas.window) (ahead : 1 ≤ (e.gsn - n).toNat) (near : (e.gsn - n).toNat ≤ 8191)
    (least : ∀ x ∈ s.reas.window, 1 ≤ (x.gsn - n).toNat → (x.gsn - n).toNat ≤ 8191 → e.time ≤ x.time) :
    setHold s = s.updReas fun r => { r with hold := some (e.time + s.holdTime) } := by
  have found : earliest (s.reas.ahead.map Entry.time) = some e.time := by
    refine earliest_of_least (List.mem_map_of_mem ((mem_ahead awaited).mpr ⟨mem, ahead, near⟩)) fun x hx => ?_
    obtain ⟨y, hy, rfl⟩ := List.mem_map.mp hx
    obtain ⟨among, far, close⟩ := (mem_ahead awaited).mp hy
    exact least y among far close
  unfold setHold
  simp only [state, found, touchGroup_sound sound]

/-- No hold deadline without an entry ahead of N. -/
theorem setHold_none (state : s.reas.state = .reassemble) (ahead : s.reas.ahead = []) :
    setHold s = s.updReas fun r => { r with hold := none } := by
  unfold setHold
  simp only [state, ahead, List.map_nil, earliest]

theorem ahead_eq_nil (none_ahead : ∀ n, r.awaited = some n → ∀ x ∈ r.window, (x.gsn - n).toNat = 0 ∨ 8191 < (x.gsn - n).toNat) :
    r.ahead = [] := by
  cases awaited : r.awaited with
  | none => unfold Reassembler.ahead; rw [awaited]
  | some n =>
    refine List.eq_nil_iff_forall_not_mem.mpr fun x hx => ?_
    obtain ⟨mem, far, near⟩ := (mem_ahead awaited).mp hx
    have := none_ahead n awaited x mem
    omega

theorem setHold_state (s : State) : (setHold s).reas.state = s.reas.state := (headWork_setHold s).reas.state

theorem setHold_now (s : State) : (setHold s).now = s.now := (reasWork_setHold s).now

theorem holdDue_iff (state : s.reas.state = .reassemble) : s.holdDue = true ↔ ∃ d, s.reas.hold = some d ∧ d ≤ s.now := by
  unfold State.holdDue
  rw [state]
  cases s.reas.hold <;> simp

/-! ### The tests that end head processing (R104, R110) -/

theorem headProcess_reassemble (state : s.reas.state = .reassemble) : headProcess s = testsN gapBound (processHead s) := by
  unfold headProcess
  exact if_pos ((headWork_processHead s).reas.state.trans state)

theorem testsN_shortcut (k : Nat) (holds : s.shortcutHolds = true) : testsN (k + 1) s = testsN k (declareGap .shortcut s) := by
  rw [testsN, if_pos holds]

theorem testsN_hold {d : Nat} (k : Nat) (state : s.reas.state = .reassemble) (fails : s.shortcutHolds = false)
    (hold : (setHold s).reas.hold = some d) (past : d ≤ s.now) : testsN (k + 1) s = testsN k (declareGap .hold (setHold s)) := by
  have due := (holdDue_iff ((setHold_state s).trans state)).mpr ⟨d, hold, (setHold_now s).symm ▸ past⟩
  rw [testsN, if_neg (Bool.eq_false_iff.mp fails)]
  exact if_pos due

theorem testsN_stop (k : Nat) (state : s.reas.state = .reassemble) (fails : s.shortcutHolds = false)
    (early : ∀ d, (setHold s).reas.hold = some d → s.now < d) : testsN (k + 1) s = setHold s := by
  have due : ¬(setHold s).holdDue = true := by
    rw [holdDue_iff ((setHold_state s).trans state), setHold_now]
    rintro ⟨d, hold, past⟩
    exact absurd past (Nat.not_le.mpr (early d hold))
  rw [testsN, if_neg (Bool.eq_false_iff.mp fails)]
  exact if_neg due

/-- A HOLD gap is counted once (R114). -/
theorem declareGap_gapHold (head : s.reas.head ≠ none) : (declareGap .hold s).counter .gapHold = satInc32 (s.counter .gapHold) := by
  obtain ⟨h, head⟩ := Option.ne_none_iff_exists'.mp head
  obtain ⟨n, awaited⟩ : ∃ n, s.reas.awaited = some n := ⟨_, by unfold Reassembler.awaited; rw [head]; rfl⟩
  rw [declareGap_eq .hold awaited, (headWork_processHead _).counters .gapHold (by decide)]
  refine (State.bump_counter_same _ .gapHold).trans (congrArg satInc32 ?_)
  split
  · rfl
  · exact State.bump_counter_ne s .incomplete _ (by decide)

/-! ### The resync (R100) -/

theorem foldl_max_le_iff (ds : List Nat) (m c : Nat) : ds.foldl max m ≤ c ↔ m ≤ c ∧ ∀ d ∈ ds, d ≤ c := by
  induction ds generalizing m with
  | nil => simp
  | cons d ds ih => rw [List.foldl_cons, ih, Nat.max_le, List.forall_mem_cons, and_assoc]

theorem foldl_max_eq {ds : List Nat} {m : Nat} (mem : m = 0 ∨ m ∈ ds) (greatest : ∀ d ∈ ds, d ≤ m) : ds.foldl max 0 = m := by
  obtain ⟨-, each⟩ := (foldl_max_le_iff ds 0 _).mp le_rfl
  refine le_antisymm ((foldl_max_le_iff ds 0 m).mpr ⟨Nat.zero_le _, greatest⟩) ?_
  obtain rfl | mem := mem
  · exact Nat.zero_le _
  · exact each m mem

/-- The base that the model works out is the one R100 says. -/
theorem resyncBase_eq {es : List Entry} {g h : Gsn} (base : IsBase es g h) : resyncBase g es = h := by
  have behind : ((es.map (behindFirst g)).filter fun d => decide (d ≤ 8191)).foldl max 0 = (g - h).toNat := by
    refine foldl_max_eq ?_ fun d hd => ?_
    · refine base.collected.imp (fun same => by rw [same, sub_self]; rfl) fun ⟨e, mem, same⟩ => ?_
      exact List.mem_filter.mpr ⟨List.mem_map.mpr ⟨e, mem, by rw [behindFirst, same]⟩, decide_eq_true base.behind⟩
    · obtain ⟨among, near⟩ := List.mem_filter.mp hd
      obtain ⟨e, mem, rfl⟩ := List.mem_map.mp among
      exact base.farthest e mem (of_decide_eq_true near)
  unfold resyncBase
  dsimp only
  rw [behind, gsn_sub_dist]

/-- The reassembler in REASSEMBLE after a resync to the head `h` with the window size `W` (R100). -/
def Reassembler.resynced (r : Reassembler) (W : Nat) (h : Gsn) : Reassembler :=
  { r with state := .reassemble, size := W, window := r.window.filter fun e => decide ((e.gsn - h).toNat < W)
           head := some h, first := none, resync := none }

/-- What a resync hands to head processing: the reassembler resynced and the discards counted (R100). -/
def State.resynced (s : State) (h : Gsn) : State :=
  (s.updReas fun r => r.resynced s.windowSize h).bumpBy .resyncDiscards
    (s.reas.window.filter fun e => decide (s.windowSize ≤ (e.gsn - h).toNat)).length

theorem resynced_frame (s : State) (h : Gsn) :
    (s.resynced h).reas = s.reas.resynced s.windowSize h ∧ (s.resynced h).tables = s.tables := by
  obtain ⟨c, rs, eq⟩ := tallied_bumpBy (s.updReas fun r => r.resynced s.windowSize h) .resyncDiscards
    (s.reas.window.filter fun e => decide (s.windowSize ≤ (e.gsn - h).toNat)).length
  unfold State.resynced
  rw [eq]
  exact ⟨rfl, rfl⟩

theorem resyncNow_eq (g : Gsn) (s : State) :
    resyncNow g s = headProcess ((touchGroup 0x01 s).resynced (resyncBase g s.reas.window)) := by
  have same : (touchGroup 0x01 s).reas = s.reas := (onlyReported_touch _ s).reas
  unfold resyncNow State.resynced Reassembler.resynced
  simp only [same, ← decide_not, Nat.not_lt]

theorem resyncDue_some {d : Nat} {g : Gsn} (state : s.reas.state = .resync) (deadline : s.reas.resync = some d)
    (first : s.reas.first = some g) : s.resyncDue = if d ≤ s.now then some g else none := by
  unfold State.resyncDue
  rw [state, deadline, first]

theorem resyncDue_none (off : s.reas.state ≠ .resync ∨ s.reas.resync = none ∨ s.reas.first = none) : s.resyncDue = none := by
  unfold State.resyncDue
  split
  · next d g state deadline first => exact absurd off (by simp [state, deadline, first])
  · rfl

/-! ### The commands -/

theorem exec_holdDeadline_due {tm : Nat} (due : (s.atTime tm).holdDue = true) :
    exec (.holdDeadline tm) s = .next (finish (testsN gapBound (declareGap .hold (s.atTime tm)))) := if_pos due

theorem exec_holdDeadline_early {tm : Nat} (early : (s.atTime tm).holdDue = false) :
    exec (.holdDeadline tm) s = .next (finish (s.atTime tm)) := if_neg (Bool.eq_false_iff.mp early)

theorem exec_resyncDeadline_some {tm : Nat} {g : Gsn} (due : (s.atTime tm).resyncDue = some g) :
    exec (.resyncDeadline tm) s = .next (finish (resyncNow g (s.atTime tm))) := by
  change execResyncDeadline tm s = _
  unfold execResyncDeadline
  simp only [due]

theorem exec_resyncDeadline_none {tm : Nat} (early : (s.atTime tm).resyncDue = none) :
    exec (.resyncDeadline tm) s = .next (finish (s.atTime tm)) := by
  change execResyncDeadline tm s = _
  unfold execResyncDeadline
  simp only [early]

theorem exec_suspensionEnd_due {tm : Nat} (due : (s.atTime tm).suspensionDue = true) :
    exec (.suspensionEnd tm) s = .next (finish (testShortcut ((s.atTime tm).updReas fun r => { r with suspension := none }))) :=
  if_pos due

theorem exec_suspensionEnd_early {tm : Nat} (early : (s.atTime tm).suspensionDue = false) :
    exec (.suspensionEnd tm) s = .next (finish (s.atTime tm)) := if_neg (Bool.eq_false_iff.mp early)

theorem holdDue_of {d : Nat} (state : s.reas.state = .reassemble) (hold : s.reas.hold = some d) : s.holdDue = decide (d ≤ s.now) := by
  unfold State.holdDue
  rw [state, hold]

theorem holdDue_off (off : s.reas.state ≠ .reassemble ∨ s.reas.hold = none) : s.holdDue = false := by
  unfold State.holdDue
  split
  · next d state hold => exact absurd off (by simp [state, hold])
  · rfl

theorem suspensionDue_of {e : Nat} (suspension : s.reas.suspension = some e) : s.suspensionDue = decide (e ≤ s.now) := by
  unfold State.suspensionDue
  rw [suspension]

/-- On sound table memory a command that answers the end of `x` adds the distributor's work alone to `x`. -/
theorem exists_finished {c : Instr} {x : State} (run : exec c s = .next (finish x)) (sound : x.tables.Sound) :
    ∃ t, exec c s = .next t ∧ OnlyPlaced x t := ⟨_, run, onlyPlaced_finish sound⟩

section deadlines

variable {tm : Nat} (sound : s.tables.Sound)
include sound

theorem holdDeadline_due {d : Nat} (state : s.reas.state = .reassemble) (hold : s.reas.hold = some d) (past : d ≤ max s.now tm) :
    ∃ t, exec (.holdDeadline tm) s = .next t ∧ OnlyPlaced (testsN gapBound (declareGap .hold (s.atTime tm))) t := by
  have work := (reasWork_declareGap .hold (s.atTime tm)).trans (reasWork_testsN gapBound _)
  refine exists_finished (exec_holdDeadline_due ?_) ((work.sound sound).1 ▸ sound)
  rw [holdDue_of (s := s.atTime tm) state hold]
  exact decide_eq_true past

theorem holdDeadline_early (early : (s.atTime tm).holdDue = false) :
    ∃ t, exec (.holdDeadline tm) s = .next t ∧ OnlyPlaced (s.atTime tm) t := exists_finished (exec_holdDeadline_early early) sound

/-- The resync taken by its deadline. -/
theorem exec_resyncDeadline_due {d : Nat} {g : Gsn} (state : s.reas.state = .resync) (deadline : s.reas.resync = some d)
    (first : s.reas.first = some g) (past : d ≤ max s.now tm) :
    exec (.resyncDeadline tm) s = .next (finish (headProcess ((s.atTime tm).resynced (resyncBase g s.reas.window)))) := by
  have due := resyncDue_some (s := s.atTime tm) state deadline first
  rw [if_pos (show d ≤ (s.atTime tm).now from past)] at due
  rw [exec_resyncDeadline_some due, resyncNow_eq, touchGroup_sound (s := s.atTime tm) sound]
  rfl

theorem onlyPlaced_resynced (h : Gsn) : OnlyPlaced (headProcess ((s.atTime tm).resynced h)) (finish (headProcess ((s.atTime tm).resynced h))) := by
  have tables := (resynced_frame (s.atTime tm) h).2
  have work := (reasWork_headProcess ((s.atTime tm).resynced h)).sound (tables ▸ sound)
  exact onlyPlaced_finish (by rw [work.1, tables]; exact sound)

theorem resyncDeadline_early (early : (s.atTime tm).resyncDue = none) :
    ∃ t, exec (.resyncDeadline tm) s = .next t ∧ OnlyPlaced (s.atTime tm) t :=
  exists_finished (exec_resyncDeadline_none early) sound

theorem suspensionEnd_due {e : Nat} (suspension : s.reas.suspension = some e) (past : e ≤ max s.now tm) :
    ∃ t, exec (.suspensionEnd tm) s = .next t ∧ t.reas.suspension = none
      ∧ OnlyPlaced (testShortcut ((s.atTime tm).updReas fun r => { r with suspension := none })) t := by
  have lifted := reasWork_testShortcut ((s.atTime tm).updReas fun r => { r with suspension := none })
  have placed := onlyPlaced_finish ((lifted.sound sound).1 ▸ sound)
  refine ⟨_, exec_suspensionEnd_due ?_, ?_, placed⟩
  · rw [suspensionDue_of (s := s.atTime tm) suspension]
    exact decide_eq_true past
  · rw [placed.frame.reas, lifted.suspension]
    rfl

theorem suspensionEnd_early (early : (s.atTime tm).suspensionDue = false) :
    ∃ t, exec (.suspensionEnd tm) s = .next t ∧ OnlyPlaced (s.atTime tm) t := exists_finished (exec_suspensionEnd_early early) sound

end deadlines

/-- Settles O40: the awaited GSN, the shortcut, the tests, and each deadline reached and not. -/
theorem reassemblerDeadlines : Obligations.ReassemblerDeadlines := by
  refine ⟨fun s h k head present missing => awaited_eq head present missing, fun s => shortcutHolds_iff, fun s sound state => ?_,
    fun s tm sound => ?_⟩
  · refine ⟨fun n e awaited mem ahead near least => setHold_earliest sound state awaited mem ahead near least,
      fun none_ahead => setHold_none state (ahead_eq_nil none_ahead), headProcess_reassemble state, fun k => testsN_shortcut k,
      fun k d fails hold past => testsN_hold k state fails hold past, fun k fails early => testsN_stop k state fails early,
      fun holds => if_pos holds, fun fails => if_neg (Bool.eq_false_iff.mp fails)⟩
  · refine ⟨fun d state hold => ⟨holdDeadline_due sound state hold, fun early => holdDeadline_early sound ?_⟩,
      fun off => holdDeadline_early sound (holdDue_off (s := s.atTime tm) off), declareGap_gapHold,
      fun d g state deadline first => ⟨fun past => ?_, fun past h base => ?_, fun early => resyncDeadline_early sound ?_⟩,
      fun off => resyncDeadline_early sound (resyncDue_none (s := s.atTime tm) off),
      fun e suspension => ⟨suspensionEnd_due sound suspension, fun early => suspensionEnd_early sound ?_⟩,
      fun off => suspensionEnd_early sound ?_⟩
    · rw [holdDue_of (s := s.atTime tm) state hold]
      exact decide_eq_false (Nat.not_le.mpr early)
    · have placed := onlyPlaced_resynced (tm := tm) sound (resyncBase g s.reas.window)
      have begun := (resynced_frame (s.atTime tm) (resyncBase g s.reas.window)).1
      have onward := (headWork_headProcess ((s.atTime tm).resynced (resyncBase g s.reas.window))).reas
      refine ⟨_, exec_resyncDeadline_due sound state deadline first past, ?_⟩
      rw [placed.frame.reas]
      exact ⟨by rw [onward.state, begun]; rfl, onward.head (by rw [begun]; exact Option.some_ne_none _),
        by rw [onward.first, begun]; rfl, by rw [onward.resync, begun]; rfl⟩
    · have run := exec_resyncDeadline_due (tm := tm) sound state deadline first past
      rw [resyncBase_eq base] at run
      exact ⟨_, run, onlyPlaced_resynced sound h⟩
    · rw [resyncDue_some (s := s.atTime tm) state deadline first]
      exact if_neg (Nat.not_le.mpr early)
    · rw [suspensionDue_of (s := s.atTime tm) suspension]
      exact decide_eq_false (Nat.not_le.mpr early)
    · unfold State.suspensionDue
      rw [State.atTime_reas, off]

end Sys2Proof.Machine
end

section
/-! PROOFS of the family 06, fourth layer: arrivals, the memory tests, force-advances and the steps of head processing on sound table
memory (R97, R99, R102..R108, R110, R113). Settles O41. -/

namespace Sys2Proof.Machine

variable {s t : State} {h : Gsn}

/-! ### The suspension that an arrival brings (R113) -/

/-- The shortcut suspended by an arrival with RRT, on sound table memory. -/
def State.heard (s : State) (a : Entry) : State :=
  if a.rrt then s.updReas fun r => { r with suspension := some (max (r.suspension.getD 0) (s.now + s.holdTime)) } else s

theorem heard_eq (s : State) (a : Entry) : ∃ e, s.heard a = s.updReas fun r => { r with suspension := e } := by
  unfold State.heard
  split
  · exact ⟨_, rfl⟩
  · exact ⟨s.reas.suspension, rfl⟩

theorem arrive_heard (sound : s.tables.Sound) (a : Entry) : (if a.rrt then suspendShortcut s else s) = s.heard a := by
  rw [suspendShortcut_sound sound]
  rfl

theorem arrive_resync (sound : s.tables.Sound) (a : Entry) (state : s.reas.state = .resync) :
    arrive a s = arriveResync a (s.heard a) := by
  obtain ⟨e, eq⟩ := heard_eq s a
  unfold arrive
  rw [arrive_heard sound, eq]
  simp only [State.updReas_reas, state]

theorem arrive_reassemble (sound : s.tables.Sound) (a : Entry) (state : s.reas.state = .reassemble) :
    arrive a s = arriveWindow a (s.heard a) := by
  obtain ⟨e, eq⟩ := heard_eq s a
  unfold arrive
  rw [arrive_heard sound, eq]
  simp only [State.updReas_reas, state]

/-! ### The memory tests (R97) -/

/-- An arrival that is stored joins the window, and one that is not leaves the reassembler alone. -/
theorem storeArrival_reas (a : Entry) (s : State) :
    (storeArrival a s).1.reas = if (storeArrival a s).2 then { s.reas with window := s.reas.window ++ [a] } else s.reas := by
  unfold storeArrival
  dsimp only
  split
  · exact (onlyReported_raiseEvent ..).reas
  · have met : (if a.cls = 0 then touchGroup 0x0D s else s).reas = s.reas := by
      split
      · exact (onlyReported_touch _ s).reas
      · rfl
    generalize (if a.cls = 0 then touchGroup 0x0D s else s) = x at met ⊢
    split
    · exact met
    · simp only [State.bump_reas, State.updReas_reas, met, if_true]

theorem storeArrival_exhausted {a : Entry} (lack : s.freeDownBlocks < a.blocks) :
    storeArrival a s = (raiseEvent .memoryExhausted
      { w1 := byteFields a.pair.val a.blocks (s.freeDownBlocks / 256) s.freeDownBlocks, w2 := asWord a.gsn.toNat, w3 := 0 }
      (s.bump .memoryDiscards), false) := if_pos lack

theorem storeArrival_reserve {a : Entry} (sound : s.tables.Sound) (room : a.blocks ≤ s.freeDownBlocks) (cls : a.cls = 0)
    (reserved : s.freeDownBlocks - a.blocks < s.reserve) : storeArrival a s = (s.bump .reserveDiscards, false) := by
  unfold storeArrival
  simp only [touchGroup_sound sound, ite_self]
  rw [if_neg (Nat.not_lt.mpr room), if_pos ⟨cls, reserved⟩]

theorem storeArrival_stored {a : Entry} (sound : s.tables.Sound) (room : a.blocks ≤ s.freeDownBlocks)
    (spared : a.cls = 0 → s.reserve ≤ s.freeDownBlocks - a.blocks) :
    storeArrival a s = ((s.updReas fun r => { r with window := r.window ++ [a] }).bump .stored, true) := by
  unfold storeArrival
  simp only [touchGroup_sound sound, ite_self]
  rw [if_neg (Nat.not_lt.mpr room), if_neg fun both => absurd both.2 (Nat.not_lt.mpr (spared both.1))]

/-! ### Arrivals in RESYNC (R99) -/

section resync

variable {a : Entry} (sound : s.tables.Sound) (state : s.reas.state = .resync)
include sound state

theorem arrive_resync_duplicate (present : (s.reas.entry a.gsn).isSome = true) : arrive a s = (s.heard a).bump .duplicates := by
  obtain ⟨e, eq⟩ := heard_eq s a
  rw [arrive_resync sound a state, eq]
  exact if_pos present

theorem arrive_resync_discarded (new : (s.reas.entry a.gsn).isSome = false) (lost : (storeArrival a (s.heard a)).2 = false) :
    arrive a s = (storeArrival a (s.heard a)).1 := by
  obtain ⟨e, eq⟩ := heard_eq s a
  rw [arrive_resync sound a state]
  unfold arriveResync
  rw [if_neg (by rw [eq]; exact Bool.eq_false_iff.mp new)]
  simp [lost]

theorem arrive_resync_stored (new : (s.reas.entry a.gsn).isSome = false) (stored : (storeArrival a (s.heard a)).2 = true) :
    arrive a s = if s.reas.first.isNone
      then (storeArrival a (s.heard a)).1.updReas fun r => { r with first := some a.gsn, resync := some (a.time + s.holdTime) }
      else (storeArrival a (s.heard a)).1 := by
  obtain ⟨e, eq⟩ := heard_eq s a
  have tables : (s.heard a).tables = s.tables ∧ (s.heard a).digit = s.digit := by rw [eq]; exact ⟨rfl, rfl⟩
  have frame := (settles_storeArrival a (s.heard a)).toBlockFrame
  have kept : (storeArrival a (s.heard a)).1.tables = s.tables := (frame.sound (tables.1 ▸ sound)).trans tables.1
  have hold : (storeArrival a (s.heard a)).1.holdTime = s.holdTime := State.holdTime_congr kept (frame.digit.trans tables.2)
  have first : (storeArrival a (s.heard a)).1.reas.first = s.reas.first := by rw [storeArrival_reas, stored, eq]; rfl
  rw [arrive_resync sound a state]
  unfold arriveResync
  rw [if_neg (by rw [eq]; exact Bool.eq_false_iff.mp new)]
  simp only [stored, Bool.true_and, first, touchGroup_sound (kept ▸ sound : (storeArrival a (s.heard a)).1.tables.Sound), hold]

end resync

/-! ### Arrivals in REASSEMBLE (R102, R103) -/

section reassemble

variable {a : Entry} (sound : s.tables.Sound) (state : s.reas.state = .reassemble) (head : s.reas.head = some h)
include sound state head

theorem arrive_late (late : 8192 ≤ (a.gsn - h).toNat) : arrive a s = (s.heard a).bump .late := by
  obtain ⟨e, eq⟩ := heard_eq s a
  rw [arrive_reassemble sound a state, eq]
  unfold arriveWindow
  simp only [State.updReas_reas, head]
  exact if_pos late

theorem arrive_duplicate (near : (a.gsn - h).toNat < 8192) (fits : (a.gsn - h).toNat < s.reas.size)
    (present : (s.reas.entry a.gsn).isSome = true) : arrive a s = (s.heard a).bump .duplicates := by
  obtain ⟨e, eq⟩ := heard_eq s a
  rw [arrive_reassemble sound a state, eq]
  unfold arriveWindow
  simp only [State.updReas_reas, head]
  rw [if_neg (Nat.not_le.mpr near), if_neg (Nat.not_le.mpr fits)]
  exact if_pos present

theorem arrive_new (near : (a.gsn - h).toNat < 8192) (fits : (a.gsn - h).toNat < s.reas.size)
    (new : (s.reas.entry a.gsn).isSome = false) :
    arrive a s = if (storeArrival a (s.heard a)).2 then headProcess (storeArrival a (s.heard a)).1
      else (storeArrival a (s.heard a)).1 := by
  obtain ⟨e, eq⟩ := heard_eq s a
  rw [arrive_reassemble sound a state, eq]
  unfold arriveWindow
  simp only [State.updReas_reas, head]
  rw [if_neg (Nat.not_le.mpr near), if_neg (Nat.not_le.mpr fits)]
  exact if_neg (Bool.eq_false_iff.mp new)

theorem arrive_forced (near : (a.gsn - h).toNat < 8192) (far : s.reas.size ≤ (a.gsn - h).toNat) :
    arrive a s = headProcess (storeArrival a
      (advanceN gapBound (a.gsn - BitVec.ofNat 14 (s.reas.size - 1)) ((s.heard a).bump .forcedArrivals))).1 := by
  obtain ⟨e, eq⟩ := heard_eq s a
  rw [arrive_reassemble sound a state, eq]
  unfold arriveWindow
  simp only [State.updReas_reas, head]
  rw [if_neg (Nat.not_le.mpr near)]
  exact if_pos far

/-- An arrival W or more ahead: the force-advance that R103 says, and where it leaves the head. -/
theorem arrive_forced_advances (near : (a.gsn - h).toNat < 8192) (far : s.reas.size ≤ (a.gsn - h).toNat) (least : 1 ≤ s.reas.size)
    (greatest : s.reas.size ≤ 1024) (span : ∀ e ∈ s.reas.window, (e.gsn - h).toNat < s.reas.size) :
    ∃ u h', Advances (a.gsn - BitVec.ofNat 14 (s.reas.size - 1)) ((s.heard a).bump .forcedArrivals) u
      ∧ arrive a s = headProcess (storeArrival a u).1 ∧ u.reas.head = some h'
      ∧ gsnAhead (a.gsn - BitVec.ofNat 14 (s.reas.size - 1)) h' = false
      ∧ u.counter .forcedArrivals = satInc32 (s.counter .forcedArrivals)
      ∧ (∀ e ∈ u.reas.window, e ∈ s.reas.window) := by
  obtain ⟨e, eq⟩ := heard_eq s a
  have forced := arrive_forced (a := a) sound state head near far
  generalize hx : (s.heard a).bump .forcedArrivals = x at forced ⊢
  have reas : x.reas = { s.reas with suspension := e } := by rw [← hx, eq]; rfl
  have counted : x.counter .forcedArrivals = satInc32 (s.counter .forcedArrivals) := by
    rw [← hx, eq]; exact State.bump_counter_same _ _
  have at_ : x.HeadAt h (a.gsn - h).toNat := ⟨by rw [reas]; exact head, fun y hy => by
    rw [reas] at hy; exact (span y hy).trans_le far⟩
  obtain ⟨h', steps, reached, close⟩ := advances_advanceN least greatest gapBound (by rw [reas]; exact state) at_ near
    (near.le.trans (by decide))
  have work := headWork_advanceN gapBound (a.gsn - BitVec.ofNat 14 (s.reas.size - 1)) x
  refine ⟨_, h', steps, forced, reached.head, ?_, (work.counters _ (by decide)).trans counted, fun y hy => ?_⟩
  · rw [gsnAhead_target least greatest (by omega)]
    exact decide_eq_false (Nat.not_le.mpr close)
  · have mem := work.reas.window.subset hy
    rw [reas] at mem
    exact mem

end reassemble

/-! ### The steps of head processing (R104..R108) -/

section steps

variable {e : Entry} {es : List Entry} (state : s.reas.state = .reassemble) (head : s.reas.head = some h)
include state head

theorem headStep_missing (missing : s.reas.entry h = none) : headStep s = none := by
  unfold headStep
  simp only [state, head, missing]

theorem headStep_discarding_begin (entry : s.reas.entry h = some e) (discarding : s.reas.discarding = true) (begins : e.b = true) :
    headStep s = some (s.updReas fun r => { r with discarding := false }) := by
  unfold headStep
  simp only [state, head, entry, discarding, begins, if_true]

theorem headStep_discarding_rest (entry : s.reas.entry h = some e) (discarding : s.reas.discarding = true) (goes_on : e.b = false) :
    headStep s = some (s.updReas fun r => { (r.after h [e]) with discarding := !e.e }) := by
  unfold headStep
  simp only [state, head, entry, discarding, goes_on, if_true, Bool.false_eq_true, if_false, take_eq_after]

theorem headStep_orphan (entry : s.reas.entry h = some e) (kept : s.reas.discarding = false) (goes_on : e.b = false) :
    headStep s = some ((s.updReas fun r => r.after h [e]).bump .orphans) := by
  unfold headStep
  simp only [state, head, entry, kept, goes_on, Bool.not_false, if_true, Bool.false_eq_true, if_false, take_eq_after]

section runs

variable (kept : s.reas.discarding = false) (run : s.reas.IsRun h es)
include kept run

theorem headStep_broken (found : s.reas.runFrom h = .broken es) :
    headStep s = some ((s.updReas fun r => r.after h es).bump .incomplete) := by
  have first := run.entries 0 (List.length_pos_iff.mpr run.nonempty)
  rw [gsn_add_zero] at first
  unfold headStep
  simp only [state, head, first, kept, run.first, found, Bool.not_true, Bool.false_eq_true, if_false, take_eq_after]

theorem headStep_complete (found : s.reas.runFrom h = .complete es) : headStep s = some (takeComplete h es s) := by
  have first := run.entries 0 (List.length_pos_iff.mpr run.nonempty)
  rw [gsn_add_zero] at first
  unfold headStep
  simp only [state, head, first, kept, run.first, found, Bool.not_true, Bool.false_eq_true, if_false]

theorem headStep_inProgress (found : s.reas.runFrom h = .inProgress es) :
    headStep s = if 2000 < (entriesBytes es).length
      then some ((s.updReas fun r => { (r.after h es) with discarding := true }).bump .tooLong) else none := by
  have first := run.entries 0 (List.length_pos_iff.mpr run.nonempty)
  rw [gsn_add_zero] at first
  unfold headStep
  simp only [state, head, first, kept, run.first, found, Bool.not_true, Bool.false_eq_true, if_false, take_eq_after]

end runs

end steps

/-! ### A complete frame (R105, R107, R108) -/

theorem deliver_farm {b : List Byte} (sound : s.tables.Sound) (other : isControlFrame s.station b = false) (n : Nat) :
    deliver b n s = (s.updFarm fun f => { f with outQueue := f.outQueue ++ [{ bytes := b, blocks := n }] }).bump .toFarm := by
  unfold deliver
  simp only [touchGroup_sound sound, ite_self]
  exact if_neg (Bool.eq_false_iff.mp other)

theorem deliver_control {b : List Byte} (sound : s.tables.Sound) (control : isControlFrame s.station b = true) (n : Nat) :
    deliver b n s = (controlArrive .line b s).bump .toControl := by
  unfold deliver
  simp only [touchGroup_sound sound, ite_self]
  exact if_pos control

theorem takeComplete_void {es : List Entry} (void : es.any Entry.void = true) :
    takeComplete h es s = (s.updReas fun r => r.after h es).bump .voidFrames := by
  unfold takeComplete
  simp only [void, if_true, take_eq_after]

theorem takeComplete_tooLong {es : List Entry} (whole : es.any Entry.void = false) (long : 2000 < (entriesBytes es).length) :
    takeComplete h es s = (s.updReas fun r => r.after h es).bump .tooLong := by
  unfold takeComplete
  simp only [whole, long, Bool.false_eq_true, if_false, if_true, take_eq_after]

theorem takeComplete_good {es : List Entry} (whole : es.any Entry.void = false) (short : (entriesBytes es).length ≤ 2000) :
    takeComplete h es s = deliver (entriesBytes es) (es.map Entry.blocks).sum (s.updReas fun r => r.after h es) := by
  unfold takeComplete
  simp only [whole, Nat.not_lt.mpr short, Bool.false_eq_true, if_false, take_eq_after]

/-! ### The statement -/

/-- Settles O41: each place an arrival can find, the memory tests, and each step of head processing. -/
theorem reassemblerArrivals : Obligations.ReassemblerArrivals := by
  intro s sound
  refine ⟨fun a v hv => ?_, fun a => ⟨fun lack => ?_, fun room cls low => storeArrival_reserve sound room cls low,
    fun room spared => storeArrival_stored sound room spared⟩, headStep_processHead s, fun u step => processHead_step step,
    fun stop => processHead_stopped stop, fun h state head => ⟨fun missing => headStep_missing state head missing, fun e entry =>
      ⟨headStep_discarding_begin state head entry, headStep_discarding_rest state head entry, headStep_orphan state head entry⟩,
      fun es kept run => ⟨fun x next begins open_ => ?_, fun x last ends => ?_, fun missing open_ => ?_⟩,
      fun n cause awaited => declareGap_eq cause awaited⟩⟩
  · obtain rfl : v = s.heard a := hv
    exact ⟨fun state => ⟨arrive_resync_duplicate sound state, arrive_resync_discarded sound state, arrive_resync_stored sound state⟩,
      fun h state head => ⟨arrive_late sound state head, arrive_duplicate sound state head, arrive_new sound state head,
        arrive_forced_advances sound state head⟩⟩
  · have reported := onlyReported_raiseEvent .memoryExhausted
      { w1 := byteFields a.pair.val a.blocks (s.freeDownBlocks / 256) s.freeDownBlocks, w2 := asWord a.gsn.toNat, w3 := 0 }
      (s.bump .memoryDiscards)
    rw [storeArrival_exhausted lack]
    refine ⟨rfl, reported.reas, (reported.counters _ (by decide)).trans (State.bump_counter_same s _), ?_⟩
    exact raiseEvent_event_sound .memoryExhausted .memoryExhausted _ (s := s.bump .memoryDiscards) sound
  · exact headStep_broken state head kept run (run.runFrom_broken open_ next begins)
  · rw [headStep_complete state head kept run (run.runFrom_complete last ends)]
    refine ⟨fun void => congrArg some (takeComplete_void void), fun whole long => congrArg some (takeComplete_tooLong whole long),
      fun whole short => ?_⟩
    rw [takeComplete_good whole short]
    have left : (s.updReas fun r => r.after h es).tables.Sound := sound
    exact ⟨fun other => congrArg some (deliver_farm left other _), fun control => congrArg some (deliver_control left control _)⟩
  · rw [headStep_inProgress state head kept run (run.runFrom_inProgress open_ missing)]
    exact ⟨fun long => if_pos long, fun short => if_neg (Nat.not_lt.mpr short)⟩

end Sys2Proof.Machine
end

section
/-! PROOFS of the family 06, fifth layer: the window's rule (R101) under the changes of the state that every block shares, the reports,
and the reassembler's own work. A lemma `kept_x` says of the operation `x` that the window's rule, where it held, holds after it. -/

namespace Sys2Proof.Machine

variable {s t : State}

/-! ### What the window's rule depends on -/

/-- A stored word of W within its range (R116). -/
def InWindowRange (v : Word) : Prop := 64 ≤ fieldAt v 0 11 ∧ fieldAt v 0 11 ≤ 1024

/-- Both stored words of W are within their range (R130). -/
def TableStore.WindowWords (x : TableStore) : Prop := ∀ c : Copy, InWindowRange (x.get (.group c 1)).val

/-- The rule holds of what keeps the reassembler's state, window, head and W, and the values of table memory. -/
theorem State.WindowKept.congr (h : s.WindowKept) (values : SameValues s t) (state : t.reas.state = s.reas.state)
    (size : t.reas.size = s.reas.size) (window : t.reas.window = s.reas.window) (head : t.reas.head = s.reas.head) : t.WindowKept where
  words c := by rw [values]; exact h.words c
  distinct := by rw [window]; exact h.distinct
  size hs := by rw [size]; exact h.size (state ▸ hs)
  span hs := by rw [head, window, size]; exact h.span (state ▸ hs)

theorem State.WindowKept.aside (h : s.WindowKept) (reas : t.reas = s.reas) (values : SameValues s t) : t.WindowKept :=
  h.congr values (by rw [reas]) (by rw [reas]) (by rw [reas]) (by rw [reas])

/-- Everything but the reassembler and table memory may change. -/
theorem State.WindowKept.same (h : s.WindowKept) (reas : t.reas = s.reas) (tables : t.tables = s.tables) : t.WindowKept :=
  h.aside reas (.of_eq tables)

/-- Table memory changed, both words of W in their range. -/
theorem kept_updTables (h : s.WindowKept) {f : TableStore → TableStore} (words : (f s.tables).WindowWords) : (s.updTables f).WindowKept :=
  ⟨words, h.distinct, h.size, h.span⟩

/-- Table memory changed but for the values of its words. -/
theorem kept_bookkeeping (h : s.WindowKept) {f : TableStore → TableStore} (values : ∀ q, (f s.tables).get q = s.tables.get q) :
    (s.updTables f).WindowKept := h.aside rfl fun q => congrArg TWord.val (values q)

theorem kept_atTime (h : s.WindowKept) (n : Nat) : (s.atTime n).WindowKept := h.same rfl rfl
theorem kept_bump (h : s.WindowKept) (c : GroupCtr) : (s.bump c).WindowKept := h.same rfl rfl
theorem kept_drawFree (h : s.WindowKept) : s.drawFree.WindowKept := h.same rfl rfl
theorem kept_setGroup (h : s.WindowKept) (up : Bool) : (s.setGroup up).WindowKept := h.same rfl rfl
theorem kept_setQueue (h : s.WindowKept) {c : ClassIx} {q : List QFrame} : (s.setQueue c q).WindowKept := h.same rfl rfl
theorem kept_updPair (h : s.WindowKept) {p : PairIx} {f : PairPort → PairPort} : (s.updPair p f).WindowKept := h.same rfl rfl
theorem kept_updFarm (h : s.WindowKept) {f : FarmPort → FarmPort} : (s.updFarm f).WindowKept := h.same rfl rfl
theorem kept_updDist (h : s.WindowKept) {f : Distributor → Distributor} : (s.updDist f).WindowKept := h.same rfl rfl
theorem kept_updCtl (h : s.WindowKept) {f : ControlEngine → ControlEngine} : (s.updCtl f).WindowKept := h.same rfl rfl
theorem kept_updEvents (h : s.WindowKept) {f : EventUnit → EventUnit} : (s.updEvents f).WindowKept := h.same rfl rfl

theorem kept_ite {b : Prop} [Decidable b] (hs : s.WindowKept) (ht : t.WindowKept) : (if b then s else t).WindowKept := by
  split
  · exact hs
  · exact ht

theorem kept_foldl {α : Type} {f : State → α → State} (hf : ∀ (s : State) a, s.WindowKept → (f s a).WindowKept) (l : List α)
    (h : s.WindowKept) : (l.foldl f s).WindowKept := by
  induction l generalizing s with
  | nil => exact h
  | cons a l ih => exact ih (hf s a h)

theorem Tallied.kept (k : Tallied s t) (h : s.WindowKept) : t.WindowKept := by
  obtain ⟨c, rs, rfl⟩ := k
  exact h.same rfl rfl

/-! ### Reports -/

theorem kept_raiseEvent (h : s.WindowKept) (k : EventKind) (d : Detail) : (raiseEvent k d s).WindowKept :=
  h.aside (onlyReported_raiseEvent k d s).reas (sameValues_raiseEvent k d s)

theorem kept_touch (h : s.WindowKept) (r : TRef) : (touch r s).WindowKept :=
  h.aside (onlyReported_touch r s).reas (sameValues_touch r s)

theorem kept_touchGroup (h : s.WindowKept) (i : Fin 19) : (touchGroup i s).WindowKept := kept_touch h _

theorem kept_touchAll (h : s.WindowKept) (rs : List TRef) : (touchAll rs s).WindowKept := kept_foldl (fun _ r hx => kept_touch hx r) rs h

theorem kept_epochTest (h : s.WindowKept) : (epochTest s).WindowKept := kept_ite (kept_touch h _) h

theorem kept_admitInternal (h : s.WindowKept) (b : List Byte) (n : Option Nat) : (admitInternal b n s).1.WindowKept :=
  h.aside (onlyReported_admitInternal b n s).reas (sameValues_admit sameValues_touch b n s)

theorem kept_sendNotice (h : s.WindowKept) : (sendNotice s).WindowKept :=
  h.aside (onlyReported_sendNotice s).reas (sameValues_sendNoticeWith sameValues_touch s)

theorem kept_newPending (h : s.WindowKept) : (newPending s).WindowKept :=
  h.aside (onlyReported_newPending s).reas (sameValues_newPendingWith sameValues_touch s)

theorem kept_suspendShortcut (h : s.WindowKept) : (suspendShortcut s).WindowKept := by
  unfold suspendShortcut
  exact (kept_touchGroup h 0x03).congr (.of_eq rfl) rfl rfl rfl rfl

/-! ### Head processing and gaps -/

/-- The head moved on within the bound that the window keeps. -/
theorem State.WindowKept.moved {cs : List GroupCtr} (h : s.WindowKept) (work : HeadWork cs s t)
    (onward : ∀ g, s.HeadAt g s.reas.size → s.reas.size < 16384 → ∃ k, t.HeadAt (g + BitVec.ofNat 14 k) (s.reas.size - k)) :
    t.WindowKept where
  words c := by rw [work.values]; exact h.words c
  distinct := h.distinct.sublist (work.reas.window.map Entry.gsn)
  size hs := by rw [work.reas.size]; exact h.size (work.reas.state ▸ hs)
  span hs := by
    have state : s.reas.state = .reassemble := work.reas.state ▸ hs
    obtain ⟨g, head, span⟩ := h.span state
    obtain ⟨k, at_⟩ := onward g ⟨head, span⟩ ((h.size state).2.trans_lt (by decide))
    exact ⟨_, at_.head, work.reas.size ▸ at_.span.mono (Nat.sub_le _ _)⟩

theorem kept_processHead (h : s.WindowKept) : (processHead s).WindowKept :=
  h.moved (headWork_processHead s) fun _ at_ small =>
    have ⟨k, _, next, _⟩ := headAt_processHead at_ small
    ⟨k, next⟩

theorem kept_declareGap (h : s.WindowKept) (cause : GapCause) : (declareGap cause s).WindowKept :=
  h.moved (headWork_declareGap cause s) fun _ at_ small =>
    have ⟨k, _, next⟩ := headAt_declareGap cause at_ small
    ⟨k, next⟩

theorem kept_setHold (h : s.WindowKept) : (setHold s).WindowKept := by
  unfold setHold
  split
  · split
    · exact h.congr (.of_eq rfl) rfl rfl rfl rfl
    · exact (kept_touchGroup h 0x03).congr (.of_eq rfl) rfl rfl rfl rfl
  · exact h

theorem kept_testsN (n : Nat) (h : s.WindowKept) : (testsN n s).WindowKept := by
  induction n generalizing s with
  | zero => exact h
  | succ n ih => exact kept_ite (ih (kept_declareGap h _)) (kept_ite (ih (kept_declareGap (kept_setHold h) _)) (kept_setHold h))

theorem kept_headProcess (h : s.WindowKept) : (headProcess s).WindowKept :=
  kept_ite (kept_testsN _ (kept_processHead h)) (kept_processHead h)

theorem kept_testShortcut (h : s.WindowKept) : (testShortcut s).WindowKept := kept_ite (kept_testsN _ h) h

/-! ### Arrivals -/

theorem sameValues_storeArrival (a : Entry) (s : State) : SameValues s (storeArrival a s).1 := by
  unfold storeArrival
  dsimp only
  split
  · exact sameValues_raiseEvent _ _ (s.bump .memoryDiscards)
  · have met : SameValues s (if a.cls = 0 then touchGroup 0x0D s else s) := by
      split
      · exact sameValues_touch _ s
      · exact .refl s
    generalize (if a.cls = 0 then touchGroup 0x0D s else s) = x at met ⊢
    split <;> exact met.trans (.of_eq rfl)

/-- An arrival that no entry shares its GSN with, and that fits (R101, R102). -/
theorem kept_storeArrival {a : Entry} (h : s.WindowKept) (new : ∀ e ∈ s.reas.window, e.gsn ≠ a.gsn)
    (fits : s.reas.state = .reassemble → ∀ g, s.reas.head = some g → (a.gsn - g).toNat < s.reas.size) :
    (storeArrival a s).1.WindowKept := by
  have reas := storeArrival_reas a s
  have values := sameValues_storeArrival a s
  cases stored : (storeArrival a s).2 with
  | false =>
    rw [stored] at reas
    exact h.aside reas values
  | true =>
    rw [stored, if_pos rfl] at reas
    refine ⟨fun c => by rw [values]; exact h.words c, ?_, fun hs => ?_, fun hs => ?_⟩ <;> rw [reas] at *
    · rw [List.map_append, List.map_singleton, List.nodup_append]
      refine ⟨h.distinct, List.nodup_singleton _, fun g hg g' hg' same => ?_⟩
      obtain ⟨e, mem, rfl⟩ := List.mem_map.mp hg
      exact new e mem (same.trans (List.mem_singleton.mp hg'))
    · exact h.size hs
    · obtain ⟨g, head, span⟩ := h.span hs
      refine ⟨g, head, fun e he => ?_⟩
      obtain he | he := List.mem_append.mp he
      · exact span e he
      · rw [List.mem_singleton.mp he]
        exact fits hs g head

theorem kept_arriveResync {a : Entry} (h : s.WindowKept) (state : s.reas.state = .resync) : (arriveResync a s).WindowKept := by
  unfold arriveResync
  split
  · exact kept_bump h _
  · next new =>
    have stored := kept_storeArrival (a := a) h (entry_eq_none.mp (by simpa using new)) fun other => by rw [state] at other; cases other
    exact kept_ite ((kept_touchGroup stored 0x03).congr (.of_eq rfl) rfl rfl rfl rfl) stored

/-- A force-advance leaves the window's rule in place, with room for the arrival (R103). -/
theorem kept_forced {a : Entry} {g : Gsn} (h : s.WindowKept) (state : s.reas.state = .reassemble) (head : s.reas.head = some g)
    (near : (a.gsn - g).toNat < 8192) (far : s.reas.size ≤ (a.gsn - g).toNat) :
    (storeArrival a (advanceN gapBound (a.gsn - BitVec.ofNat 14 (s.reas.size - 1)) s)).1.WindowKept := by
  obtain ⟨least, greatest⟩ := h.size state
  obtain ⟨g', head', span⟩ := h.span state
  obtain rfl : g' = g := Option.some.inj (head'.symm.trans head)
  obtain ⟨g', -, reached, close⟩ := advances_advanceN (a := a.gsn) (W := s.reas.size) (by omega) greatest gapBound state
    ⟨head, fun e he => (span e he).trans_le far⟩ near (near.le.trans (by decide))
  have work := headWork_advanceN gapBound (a.gsn - BitVec.ofNat 14 (s.reas.size - 1)) s
  generalize advanceN gapBound (a.gsn - BitVec.ofNat 14 (s.reas.size - 1)) s = u at reached work ⊢
  have advanced : u.WindowKept :=
    { words := fun c => by rw [work.values]; exact h.words c
      distinct := h.distinct.sublist (work.reas.window.map Entry.gsn)
      size := fun _ => by rw [work.reas.size]; exact ⟨least, greatest⟩
      span := fun _ => ⟨g', reached.head, work.reas.size ▸ reached.span.mono close.le⟩ }
  refine kept_storeArrival advanced (fun e mem same => ?_) fun _ x at_ => ?_
  · exact absurd (reached.span e mem) (by rw [same]; exact lt_irrefl _)
  · obtain rfl : x = g' := Option.some.inj (at_.symm.trans reached.head)
    rw [work.reas.size]
    exact close

theorem kept_arriveWindow {a : Entry} (h : s.WindowKept) (state : s.reas.state = .reassemble) : (arriveWindow a s).WindowKept := by
  unfold arriveWindow
  split
  · exact h
  · next g head =>
    dsimp only
    split
    · exact kept_bump h _
    · next near =>
      split
      · next far => exact kept_headProcess (kept_forced (kept_bump h .forcedArrivals) state head (by omega) far)
      · next fits =>
        split
        · exact kept_bump h _
        · next new =>
          have stored := kept_storeArrival (a := a) h (entry_eq_none.mp (by simpa using new)) fun _ x at_ => by
            obtain rfl : g = x := Option.some.inj (head.symm.trans at_)
            omega
          exact kept_ite (kept_headProcess stored) stored

theorem kept_arrive (a : Entry) (h : s.WindowKept) : (arrive a s).WindowKept := by
  have heard := kept_ite (b := a.rrt = true) (kept_suspendShortcut h) h
  unfold arrive
  dsimp only
  split
  · exact kept_bump heard _
  · next state => exact kept_arriveResync heard state
  · next state => exact kept_arriveWindow heard state

/-! ### The resync -/

/-- W as it reads is within its range, an uncorrectable word reading as its default (R116, R121). -/
theorem windowSize_range (h : s.WindowKept) : 64 ≤ s.windowSize ∧ s.windowSize ≤ 1024 := by
  unfold State.windowSize State.groupWord State.word? TableStore.word?
  split
  · exact (by decide : 64 ≤ fieldAt (pack [(0, 512)]) 0 11 ∧ fieldAt (pack [(0, 512)]) 0 11 ≤ 1024)
  · exact h.words .active

theorem kept_resynced (h : s.WindowKept) (g : Gsn) : (s.resynced g).WindowKept := by
  obtain ⟨reas, tables⟩ := resynced_frame s g
  refine ⟨fun c => by rw [tables]; exact h.words c, ?_, fun _ => ?_, fun _ => ⟨g, ?_, fun e he => ?_⟩⟩ <;> rw [reas] at *
  · exact h.distinct.sublist (List.filter_sublist.map Entry.gsn)
  · exact windowSize_range h
  · rfl
  · exact of_decide_eq_true (List.mem_filter.mp he).2

theorem kept_resyncNow (g : Gsn) (h : s.WindowKept) : (resyncNow g s).WindowKept := by
  rw [resyncNow_eq]
  exact kept_headProcess (kept_resynced (kept_touchGroup h 0x01) _)

end Sys2Proof.Machine
end

section
/-! PROOFS of the family 06, sixth layer: departures, the group's fall and rise, the distributor's work, and the pair ports under the
window's rule (R94, R101, R121..R123). -/

namespace Sys2Proof.Machine

variable {s t : State}

/-! ### Departures -/

theorem kept_giveUp (p : PairIx) (keep : Bool) (h : s.WindowKept) : (giveUp p keep s).WindowKept := by
  obtain ⟨l, -, tallied⟩ := giveUp_shape p keep s
  exact tallied.kept (kept_updDist (kept_updPair h))

theorem kept_depart (p : PairIx) (left target : PairState) (cause : Cause) (cmd : XcvrCmd) (keep : Bool) (h : s.WindowKept) :
    (depart p left target cause cmd keep s).WindowKept := by
  have raised := kept_raiseEvent (kept_updPair (kept_giveUp p keep h) (p := p) (f := fun pp => pp.departed target cause cmd))
    .pairDown (detail1 (byteFields p.val cause.code left.code 0))
  exact kept_ite (kept_suspendShortcut raised) raised

theorem kept_leaving (p : PairIx) (st : PairState) (h : s.WindowKept) : (leaving p st s).WindowKept :=
  kept_touchGroup (kept_updPair h) 0x02

theorem kept_toDown (p : PairIx) (cause : Cause) (h : s.WindowKept) : (toDown p cause s).WindowKept := by
  rw [toDown_eq]
  exact kept_depart _ _ _ _ _ _ (kept_leaving p _ h)

theorem kept_toOff (p : PairIx) (cause : Cause) (h : s.WindowKept) : (toOff p cause s).WindowKept :=
  kept_depart _ _ _ _ _ _ (kept_leaving p _ h)

theorem kept_drained (p : PairIx) (h : s.WindowKept) : (drained p s).WindowKept := kept_depart _ _ _ _ _ _ h

theorem kept_drainCheck (p : PairIx) (h : s.WindowKept) : (drainCheck p s).WindowKept := kept_ite (kept_drained p h) h

/-! ### The group's fall and rise -/

/-- Outside REASSEMBLE an emptied window keeps its rule (R94). -/
theorem kept_emptied (h : s.WindowKept) {f : Reassembler → Reassembler} (window : (f s.reas).window = [])
    (state : (f s.reas).state ≠ .reassemble) : (s.updReas f).WindowKept where
  words := h.words
  distinct := by rw [State.updReas_reas, window]; exact List.nodup_nil
  size hs := absurd hs state
  span hs := absurd hs state

theorem kept_toIdle (h : s.WindowKept) : (s.updReas Reassembler.toIdle).WindowKept := kept_emptied h rfl fun hs => by cases hs

theorem kept_clearDistributor (h : s.WindowKept) : (clearDistributor s).WindowKept := by
  have cleared : (s.updDist Distributor.cleared).WindowKept := kept_updDist h
  have lost := (tallied_foldl tallied_discardFrag s.dist.reroute _).kept
    (kept_ite (b := s.dist.fip.isSome = true) (kept_epochTest cleared) cleared)
  unfold clearDistributor
  dsimp only
  split
  · exact (tallied_discardFrag _ _).kept lost
  · exact lost

theorem kept_flushQueue (s : State) (c : ClassIx) (h : s.WindowKept) : (flushQueue s c).WindowKept :=
  (tallied_flushQueue c s).kept (kept_setQueue h)

theorem kept_flushClassifier (h : s.WindowKept) : (flushClassifier s).WindowKept := by
  unfold flushClassifier
  exact kept_updFarm (kept_foldl kept_flushQueue [0, 1, 2, 3] h)

theorem kept_fallBlocks (h : s.WindowKept) : (fallBlocks s).WindowKept := by
  have given := kept_foldl (f := fun s p => giveUp p false s) (fun _ p hx => kept_giveUp p false hx) allPairs h
  unfold fallBlocks
  exact kept_foldl (f := fun s p => drainCheck p s) (fun _ p hx => kept_drainCheck p hx) allPairs
    (kept_toIdle (kept_flushClassifier (kept_clearDistributor given)))

theorem kept_groupFall (h : s.WindowKept) : (groupFall s).WindowKept := by
  unfold groupFall
  exact kept_fallBlocks (kept_raiseEvent (kept_setGroup h false) _ _)

theorem kept_groupRise (h : s.WindowKept) : (groupRise s).WindowKept := by
  unfold groupRise
  exact kept_emptied (kept_raiseEvent (kept_setGroup h true) _ _) rfl fun hs => by cases hs

theorem kept_evaluateGroup (h : s.WindowKept) : (evaluateGroup s).WindowKept :=
  have read := kept_touchGroup h 0x02
  kept_ite (kept_groupFall read) (kept_ite (kept_groupRise read) read)

theorem kept_damagedPairOff (s : State) (p : PairIx) (h : s.WindowKept) : (damagedPairOff p s).WindowKept :=
  kept_ite (kept_evaluateGroup (kept_toOff p _ h)) h

theorem kept_settleDamage (h : s.WindowKept) : (settleDamage s).WindowKept :=
  kept_foldl kept_damagedPairOff _ (kept_ite (kept_evaluateGroup h) h)

/-! ### The distributor's work -/

theorem kept_touchOffer (s : State) (c : ClassIx) (h : s.WindowKept) : (touchOffer s c).WindowKept := by
  unfold touchOffer
  split
  · exact h
  · exact kept_ite h (kept_touchGroup h _)

theorem kept_takeFrame (h : s.WindowKept) : (takeFrame s).WindowKept := by
  have offered := kept_foldl kept_touchOffer [3, 2, 1, 0] h
  unfold takeFrame
  split
  · dsimp only
    split
    · exact offered
    · exact kept_updDist (kept_touchGroup offered _)
  · exact h

theorem kept_makeCut (f : Fip) (c : Cut) (h : s.WindowKept) : (makeCut f c s).WindowKept := by
  unfold makeCut
  exact kept_ite (kept_bump (kept_updDist (kept_setQueue h)) _) (kept_updDist (kept_setQueue h))

theorem kept_cutNext (h : s.WindowKept) : (cutNext s).1.WindowKept := by
  have taken := kept_takeFrame h
  unfold cutNext
  dsimp only
  split
  · split
    · exact kept_makeCut _ _ taken
    · exact taken
  · exact taken

theorem kept_touchChoice (h : s.WindowKept) : (touchChoice s).WindowKept := by
  have read := kept_touchAll h ((allPairs.filter (eligible s)).map fun p => .pair .active p 1)
  have guard : ∀ {b : Prop} [Decidable b] {x : State}, x.WindowKept → (if b then touchGroup 0x08 x else x).WindowKept :=
    fun hx => kept_ite (kept_touchGroup hx 0x08) hx
  exact kept_ite (guard read) (kept_touchGroup (guard read) _)

theorem kept_recordHold (h : s.WindowKept) (w : WaitReason) : (recordHold w s).WindowKept :=
  kept_ite (kept_bump (kept_updDist h) _) (kept_updDist h)

theorem kept_discardHead (h : s.WindowKept) (f : Frag) : (discardHead f s).WindowKept :=
  kept_bump ((tallied_fragmentGone f _).kept (kept_updDist h)) _

theorem kept_placeAgain (p : PairIx) (f : Frag) (h : s.WindowKept) : (placeAgain p f s).WindowKept := kept_bump (kept_updPair h) _

theorem kept_placeNew (p : PairIx) (f : Frag) (h : s.WindowKept) : (placeNew p f s).WindowKept :=
  kept_bump (kept_updPair (kept_updDist h)) _

theorem kept_attemptN (n : Nat) (h : s.WindowKept) : (attemptN n s).WindowKept := by
  induction n generalizing s with
  | zero => exact h
  | succ n ih =>
    have cut := kept_cutNext h
    unfold attemptN
    dsimp only
    generalize (cutNext s).1 = c at cut ⊢
    refine kept_ite cut ?_
    split
    · next f rest _ =>
      have read := kept_touchGroup cut 0x07
      have chosen := kept_touchChoice read
      refine kept_ite read (kept_ite (ih (kept_discardHead read f)) (kept_ite chosen ?_))
      split
      · exact ih (kept_settleDamage chosen)
      · exact kept_recordHold chosen _
      · exact ih (kept_placeAgain _ _ (kept_updDist chosen))
    · split
      · exact kept_updDist cut
      · split
        · exact kept_updDist cut
        · have chosen := kept_touchChoice cut
          refine kept_ite (kept_recordHold cut _) (kept_ite chosen ?_)
          split
          · exact ih (kept_settleDamage chosen)
          · exact kept_recordHold chosen _
          · exact ih (kept_epochTest (kept_placeNew _ _ (kept_updDist chosen)))

theorem kept_attemptRun (h : s.WindowKept) : (attemptRun s).WindowKept := kept_ite (kept_attemptN _ h) (kept_updDist h)

theorem kept_attemptSettled (n : Nat) (h : s.WindowKept) : (attemptSettled n s).WindowKept := by
  induction n generalizing s with
  | zero => exact h
  | succ n ih => exact kept_ite (ih (kept_settleDamage (kept_attemptRun h))) (kept_attemptRun h)

theorem kept_attempt (h : s.WindowKept) : (attempt s).WindowKept := kept_attemptSettled 12 h

theorem kept_settleOwed (h : s.WindowKept) : (settleOwed s).WindowKept := kept_ite (kept_attempt (kept_settleDamage h)) h

theorem kept_useWord (h : s.WindowKept) (r : TRef) : (useWord r s).WindowKept := kept_settleOwed (kept_touch h r)

theorem kept_useGroup (h : s.WindowKept) (i : Fin 19) : (useGroup i s).WindowKept := kept_useWord h _

theorem kept_serve (h : s.WindowKept) : (serve s).WindowKept :=
  have cut := kept_cutNext h
  kept_ite (kept_ite (kept_attempt cut) (kept_ite (kept_updDist cut) cut)) h

/-- What ends every command. -/
theorem kept_finish (h : s.WindowKept) : (finish s).WindowKept := kept_settleOwed (kept_serve (kept_settleOwed h))

/-- What follows every pair change. -/
theorem kept_pairChanged (h : s.WindowKept) : (pairChanged s).WindowKept := kept_attempt (kept_testShortcut (kept_evaluateGroup h))

/-! ### The pair state machine -/

theorem kept_lose (p : PairIx) (cause : Cause) (h : s.WindowKept) : (lose p cause s).WindowKept := kept_pairChanged (kept_toDown p cause h)

theorem kept_restartPair (p : PairIx) (h : s.WindowKept) : (restartPair p s).WindowKept := kept_ite h (kept_lose p _ h)

theorem kept_toActive (p : PairIx) (h : s.WindowKept) : (toActive p s).WindowKept := by
  have drawn := kept_ite (b := (s.pair p).lastProbe.isNone = true) (kept_drawFree h) h
  unfold toActive
  exact kept_raiseEvent (kept_touch (kept_updPair drawn) _) _ _

theorem kept_examine (p : PairIx) (h : s.WindowKept) : (examine p s).WindowKept :=
  have read := kept_useGroup (kept_useGroup h 0x05) 0x06
  kept_ite (kept_ite (kept_pairChanged (kept_toActive p read)) read) h

theorem kept_enterService (p : PairIx) (u d : Nat) (h : s.WindowKept) : (enterService p u d s).WindowKept :=
  kept_pairChanged (kept_updPair h)

theorem kept_lowRate (p : PairIx) (h : s.WindowKept) : (lowRate p s).WindowKept := by
  unfold lowRate
  dsimp only
  rw [foldl_joinReroute]
  exact kept_pairChanged ((tallied_bumpBy _ _ _).kept (kept_updDist (kept_updPair h)))

theorem kept_takeRate (p : PairIx) (u d : Nat) (h : s.WindowKept) : (takeRate p u d s).WindowKept := by
  have rated := kept_updPair h (p := p) (f := fun pp => { pp with upRate := clampRate u, downRate := clampRate d })
  unfold takeRate
  dsimp only
  generalize s.updPair p _ = x at rated ⊢
  have read := kept_ite (b := (x.pair p).state = .active) (kept_useGroup rated 0x06) rated
  exact kept_ite (kept_lowRate p read) (kept_examine p (kept_ite read (kept_attempt read)))

/-! ### Stored words other than those of W -/

theorem windowWords_store {x : TableStore} (words : x.WindowWords) (r : TRef) {v : Word} (range : ∀ c, r = .group c 1 → InWindowRange v) :
    (x.store r v).WindowWords := fun c => by
  rw [TableStore.get_store]
  split
  · next same => exact range c same.symm
  · exact words c

theorem kept_takeEcho (p : PairIx) (stamp : BitVec 16) (h : s.WindowKept) : (takeEcho p stamp s).WindowKept := by
  have sampled := kept_updPair h (p := p) (f := fun pp => pp.sample (latencySample s.now stamp))
  have read := kept_useWord sampled (.pair .active p 0)
  unfold takeEcho
  dsimp only
  generalize useWord (.pair .active p 0) _ = x at read ⊢
  have stored := kept_ite (b := (x.autoE p && !x.tables.pairDamaged[p.val]) = true)
    (kept_updTables read (f := fun t => t.store (.pair .active p 1) (asWord (x.pair p).latency))
      (windowWords_store read.words _ fun _ other => by cases other)) read
  exact kept_examine p (kept_ite stored (kept_attempt stored))

/-! ### The burst guard -/

theorem kept_judgeBurst (p : PairIx) (t : Nat) (h : s.WindowKept) : (judgeBurst p t s).WindowKept :=
  kept_ite (kept_ite h (kept_updPair h)) (kept_updPair h)

theorem kept_learnBurst (p : PairIx) (t : Nat) (h : s.WindowKept) : (learnBurst p t s).WindowKept := by
  have read := kept_useGroup (kept_updPair h (p := p) (f := fun pp => { pp with guard := (s.pair p).guard.learn t })) 0x08
  unfold learnBurst
  exact kept_ite (kept_raiseEvent (kept_updPair read) _ _) read

theorem kept_guardBadCheck (p : PairIx) (h : s.WindowKept) : (guardBadCheck p s).WindowKept := by
  have noted := kept_updPair h (p := p) (f := fun pp => { pp with guard := { (s.pair p).guard with lastBad := some s.now } })
  have counted := kept_updPair noted (p := p) (f := fun pp => pp.bump .bursts)
  unfold guardBadCheck
  exact kept_ite (kept_ite (kept_judgeBurst p _ counted) (kept_learnBurst p _ counted)) noted

theorem kept_probationBadCheck (p : PairIx) (h : s.WindowKept) : (probationBadCheck p s).WindowKept := kept_ite (kept_updPair h) h

theorem kept_openWindow (p : PairIx) (n : Nat) (h : s.WindowKept) : (openWindow p n s).WindowKept := by
  unfold openWindow
  exact kept_updPair h

theorem kept_closeWindow (p : PairIx) (w : GuardWindow) (h : s.WindowKept) : (closeWindow p w s).WindowKept := by
  have missed := kept_useGroup (kept_updPair h (p := p) (f := fun pp => { pp with guard := pp.guard.miss })) 0x08
  unfold closeWindow
  exact kept_ite (kept_updPair h) (kept_ite (kept_updPair missed) missed)

/-! ### Hand-offs -/

theorem kept_afterStores (p : PairIx) (h : s.WindowKept) : (afterStores p s).WindowKept :=
  kept_ite (kept_pairChanged (kept_drained p h)) (kept_attempt h)

theorem kept_touchHandOff (p : PairIx) (h : s.WindowKept) : (touchHandOff p s).WindowKept := by
  have limit := kept_useGroup h 0x04
  unfold touchHandOff
  split
  · exact h
  · exact kept_ite (kept_useGroup limit _) limit
  · exact kept_useGroup limit _
  · exact kept_useGroup h _

theorem kept_handOut (p : PairIx) (h : s.WindowKept) : (handOut p s).WindowKept := by
  unfold handOut
  dsimp only
  split
  · exact h
  · exact kept_attempt (kept_updPair h)
  · exact kept_attempt (kept_updPair h)
  · exact kept_ite (kept_pairChanged (kept_raiseEvent (kept_toDown p _ h) _ _)) (kept_attempt (kept_updPair h))
  · next f _ => exact kept_afterStores p ((tallied_fragmentGone f _).kept (kept_updPair h))
  · exact kept_attempt (kept_updPair h)

/-! ### Acknowledgement, replay and the receiver -/

theorem kept_applyAck (p : PairIx) (a : Txn) (h : s.WindowKept) : (applyAck p a s).WindowKept :=
  kept_ite h (kept_afterStores p (kept_updPair h))

theorem kept_applyRequest (p : PairIx) (a : Txn) (h : s.WindowKept) : (applyRequest p a s).WindowKept :=
  kept_ite (kept_ite (kept_attempt (kept_updPair h)) h) (kept_ite (kept_updPair h) h)

theorem kept_takeData (p : PairIx) (f : FragFields) (void : Bool) (h : s.WindowKept) : (takeData p f void s).WindowKept :=
  kept_ite (kept_testShortcut (kept_arrive _ (kept_updPair h))) (kept_ite (kept_updPair h) (kept_updPair h))

theorem kept_byKind (p : PairIx) (f : FragFields) (void : Bool) (h : s.WindowKept) : (byKind p f void s).WindowKept := by
  unfold byKind
  split
  · exact kept_takeData p f void h
  · exact h
  · exact kept_updPair h
  · exact kept_takeEcho p _ h

theorem kept_whileRunning {f : State → State} (p : PairIx) (h : s.WindowKept) (hf : (f s).WindowKept) : (whileRunning p f s).WindowKept :=
  kept_ite hf h

theorem kept_takeFragment (p : PairIx) (f : FragFields) (void : Bool) (h : s.WindowKept) : (takeFragment p f void s).WindowKept := by
  have heard := kept_updPair h (p := p)
    (f := fun pp => ({ pp.bump (if void then .void else .good) with lastHeard := s.now }).clearMark f.ackn)
  have acked := kept_applyAck p f.ackn heard
  have asked := kept_ite (b := f.rrq = true) (kept_whileRunning p acked (kept_applyRequest p f.ackn acked)) acked
  unfold takeFragment
  exact kept_whileRunning p asked (kept_byKind p f void asked)

theorem kept_takeBad (p : PairIx) (h : s.WindowKept) : (takeBad p s).WindowKept := by
  have counted := kept_updPair h (p := p) (f := fun pp => pp.bump .bad)
  have checked := kept_probationBadCheck p (kept_guardBadCheck p counted)
  unfold takeBad
  exact kept_whileRunning p checked (kept_updPair checked)

theorem kept_mismatch (p : PairIx) (got : Nat) (h : s.WindowKept) : (mismatch p got s).WindowKept :=
  kept_ite (kept_updPair h) (kept_pairChanged (kept_raiseEvent (kept_toDown p _ h) _ _))

theorem kept_receive (p : PairIx) (bytes : List Byte) (h : s.WindowKept) : (receive p bytes s).WindowKept := by
  have read := kept_useGroup h 0x00
  unfold receive
  split
  · exact kept_takeBad p h
  · exact kept_whileRunning p read (kept_ite (kept_takeFragment p _ _ read) (kept_mismatch p _ read))

end Sys2Proof.Machine
end

section
/-! PROOFS of the family 06, seventh layer: the farm port, table memory, the control engine, commits and resets under the window's rule
(R101, R116, R130, R133), and with them every step. Settles O8. -/

namespace Sys2Proof.Machine

variable {s t : State}

/-! ### The farm port -/

theorem kept_lookupIn (bs : List Byte) (is : List (Fin 64)) (h : s.WindowKept) : (lookupIn bs is s).1.WindowKept := by
  induction is generalizing s with
  | nil => exact kept_touchGroup h _
  | cons i is ih =>
    have read := kept_touch (kept_touch h (.cls .active i 0)) (.cls .active i 1)
    unfold lookupIn
    split
    · exact ih h
    · dsimp only
      split
      · exact read
      · exact ih read

theorem kept_failArriving (c : ClassIx) (tail : List Byte) (h : s.WindowKept) : (failArriving c tail s).WindowKept := by
  unfold failArriving
  split
  · exact kept_setQueue h
  · have dropped := kept_epochTest (kept_updDist (kept_setQueue h (c := c) (q := withoutArriving (s.queue c)))
      (f := fun d => { d with fip := none }))
    exact kept_ite (kept_updDist (kept_setQueue h)) (kept_ite (kept_attempt dropped) dropped)

theorem kept_setRxKind (k : RxKind) (h : s.WindowKept) : (setRxKind k s).WindowKept := kept_updFarm h

theorem kept_storeByte (c : ClassIx) (check : List Byte) (s : State) (b : Byte) (h : s.WindowKept) :
    (storeByte c check s b).WindowKept := by
  unfold storeByte
  split
  · have read := kept_ite (b := arrivingStored (s.queue c) % Config.blockBytes = 0) (kept_touchGroup h (classWord c)) h
    exact kept_ite (kept_ite (kept_setQueue read) (kept_failArriving c _ (kept_setRxKind _ (kept_bump read _)))) h
  · exact h

theorem kept_classifyFrame (bs held check : List Byte) (h : s.WindowKept) : (classifyFrame bs held check s).WindowKept := by
  have look := kept_lookupIn bs allEntries h
  unfold classifyFrame
  refine kept_ite (kept_setRxKind _ (kept_bump h _)) ?_
  generalize lookupIn bs allEntries s = l at look ⊢
  obtain ⟨x, _ | c⟩ := l
  · exact kept_setRxKind _ (kept_bump look _)
  · exact kept_foldl (kept_storeByte c check) held (kept_setRxKind _ (kept_setQueue look))

theorem kept_judgeFrame (r : RxFrame) (h : s.WindowKept) : (judgeFrame r s).WindowKept :=
  have read := kept_ite (b := frameType (r.held ++ r.check) = controlType) (kept_touchGroup (kept_touchGroup h 0x0E) 0x0F) h
  kept_ite (kept_updFarm h) (kept_ite (kept_updFarm read) (kept_classifyFrame _ _ _ read))

theorem kept_becomeGiant (r : RxFrame) (h : s.WindowKept) : (becomeGiant r s).WindowKept := by
  have counted := kept_setRxKind (.dropped .silent) (kept_bump h .giants)
  unfold becomeGiant
  split
  · exact h
  · exact h
  · exact kept_setRxKind _ h
  · exact kept_failArriving _ _ counted
  · exact counted

theorem kept_takeByte (r : RxFrame) (b : Byte) (h : s.WindowKept) : (takeByte r b s).WindowKept := by
  unfold takeByte
  dsimp only
  split
  · exact h
  · exact kept_updFarm h
  · split
    · exact kept_storeByte _ _ _ _ (kept_updFarm h)
    · exact kept_updFarm h
  · exact kept_ite (kept_judgeFrame _ (kept_updFarm h)) (kept_updFarm h)
  · exact kept_updFarm h

theorem kept_farmByte (b : Byte) (h : s.WindowKept) : (farmByte b s).WindowKept := by
  unfold farmByte
  exact kept_ite (kept_takeByte _ b h) (kept_ite (kept_becomeGiant _ (kept_updFarm h)) (kept_updFarm h))

theorem kept_countFailure (v : Verdict) (h : s.WindowKept) : (countFailure v s).WindowKept := by
  cases v
  · exact h
  · exact kept_bump h _
  · exact kept_bump h _

theorem kept_takeLink (r : RxFrame) (h : s.WindowKept) : (takeLink r s).WindowKept := by
  unfold takeLink
  exact kept_ite (kept_updFarm (kept_bump h _)) (kept_bump h _)

theorem kept_controlArrive (o : Origin) (b : List Byte) (h : s.WindowKept) : (controlArrive o b s).WindowKept :=
  kept_ite (kept_updCtl h) (kept_bump h _)

theorem kept_frameEnd (r : RxFrame) (h : s.WindowKept) : (frameEnd r s).WindowKept := by
  have cleared := kept_updFarm h (f := fun f => { f with rx := none })
  unfold frameEnd
  dsimp only
  generalize s.updFarm _ = x at cleared ⊢
  have received := kept_bump cleared .framesReceived
  split
  · exact cleared
  · exact cleared
  · exact received
  · exact cleared
  · exact received
  · exact kept_countFailure _ cleared
  · exact received
  · exact kept_countFailure _ cleared
  · exact kept_takeLink r received
  · exact kept_countFailure _ cleared
  · exact kept_controlArrive _ _ (kept_bump received _)
  · exact kept_countFailure _ cleared
  · exact kept_bump (kept_setQueue received) _
  · exact kept_failArriving _ _ (kept_countFailure _ cleared)

theorem kept_beginTx (x : FarmTx) (h : s.WindowKept) : (beginTx x s).WindowKept := by
  cases x <;> exact h.same rfl rfl

theorem kept_recordSent (w : List Byte) (h : s.WindowKept) : (recordSent w s).WindowKept := kept_bump (kept_updFarm h) _

theorem kept_endTx (x : FarmTx) (h : s.WindowKept) : (endTx x s).WindowKept := by
  unfold endTx
  dsimp only
  split
  · exact kept_headProcess (kept_updFarm (kept_recordSent _ h))
  · split
    · exact kept_updCtl (kept_updCtl (kept_recordSent _ h))
    · exact kept_updCtl (kept_recordSent _ h)
  · exact kept_updCtl (kept_recordSent _ h)

/-! ### Table memory and the event unit -/

/-- Whatever is written, the stored word of W is within its range (R116, R130). -/
theorem inWindowRange_clamp (c : Copy) (v : Word) : InWindowRange (clampTable (.group c 1) v) := by
  have field : (⟨0, 11, 64, 1024, 64⟩ : FieldRange) ∈ tableFields (.group c 1) := List.mem_singleton.mpr rfl
  have proper := (laidOut_tableFields (.group c 1)).proper _ field
  have reads := fieldAt_clampTable field v
  unfold InWindowRange
  rw [reads]
  exact ⟨FieldRange.least_le_stored ⟨0, 11, 64, 1024, 64⟩ _, proper.stored_le _⟩

theorem windowWords_clamp {x : TableStore} (words : x.WindowWords) (r : TRef) (v : Word) : (x.store r (clampTable r v)).WindowWords :=
  windowWords_store words r fun c same => same ▸ inWindowRange_clamp c v

theorem kept_digestBefore (r : TRef) (h : s.WindowKept) : (digestBefore r s).WindowKept := by
  unfold digestBefore digestFinds
  exact kept_ite (kept_ite (kept_bookkeeping (kept_touch (kept_drawFree h) r) fun _ => rfl) (kept_drawFree h)) h

theorem kept_storeShadow (r : TRef) (v : Word) (h : s.WindowKept) : (storeShadow r v s).WindowKept := by
  unfold storeShadow
  exact kept_updTables (kept_digestBefore r h) (windowWords_clamp (kept_digestBefore r h).words r v)

theorem kept_storeGate (v : Word) (h : s.WindowKept) : (storeGate v s).WindowKept :=
  kept_updTables h (windowWords_clamp h.words .gate v)

theorem kept_enableKind (v : Word) (s : State) (i : Fin 15) (h : s.WindowKept) : (enableKind v s i).WindowKept :=
  kept_ite (kept_newPending (kept_updEvents h)) (kept_updEvents h)

theorem kept_storeEnable (v : Word) (h : s.WindowKept) : (storeEnable v s).WindowKept := kept_foldl (kept_enableKind v) _ h

theorem kept_storePlace (v : Word) (p : Place) (h : s.WindowKept) : (storePlace v p s).1.WindowKept := by
  unfold storePlace
  split
  · exact kept_storeShadow _ v h
  · exact kept_storeShadow _ v h
  · exact kept_storeShadow _ v h
  · exact kept_storeGate v h
  · exact h.same rfl rfl
  · exact h.same rfl rfl
  · exact kept_bookkeeping (f := fun t => t.storeCount v) h fun _ => rfl
  · exact kept_bookkeeping (f := TableStore.clearEcc) h fun _ => rfl
  · exact kept_bookkeeping (f := TableStore.clearEcc) h fun _ => rfl
  · exact kept_storeEnable v h
  · exact h.same rfl rfl
  · exact h

theorem kept_feedWords (as : List Nat) (acc : State × Nat × Bool) (h : acc.1.WindowKept) : (as.foldl feedWord acc).1.WindowKept := by
  induction as generalizing acc with
  | nil => exact h
  | cons a as ih =>
    refine ih (feedWord acc a) ?_
    unfold feedWord
    dsimp only
    split
    · exact kept_touch h _
    · exact h

theorem kept_endDigest (st : DigestState) (w : Word) (d : Bool) (h : s.WindowKept) : (endDigest st w d s).WindowKept :=
  kept_raiseEvent (kept_bookkeeping h fun _ => rfl) _ _

theorem kept_digestEnds (h : s.WindowKept) : (digestEnds s).WindowKept := by
  have feeds : (feedAll s).1.WindowKept := kept_feedWords _ (s, crc32Init, false) h
  unfold digestEnds
  generalize feedAll s = x at feeds ⊢
  obtain ⟨x, c, d⟩ := x
  exact kept_ite (kept_endDigest _ _ _ (kept_drawFree feeds)) (kept_endDigest _ _ _ feeds)

/-- Wrong bits change no value (R135). -/
theorem kept_memoryError (r : TRef) (two : Bool) (h : s.WindowKept) : (memoryError r two s).WindowKept := by
  refine kept_ite h (h.aside rfl fun q => ?_)
  change ((s.tables.put r _).get q).val = _
  by_cases same : q = r
  · rw [same, TableStore.get_put_same]
  · exact congrArg TWord.val (TableStore.get_put_ne _ _ same)

theorem kept_intervalEnd (h : s.WindowKept) : (intervalEnd s).WindowKept := by
  have cleared := kept_updEvents h (f := fun e => { e with owed := false })
  unfold intervalEnd
  exact kept_ite (kept_sendNotice (kept_touchGroup (kept_updEvents cleared) _)) (kept_touchGroup cleared _)

/-! ### The control engine -/

theorem kept_outcome {x y : Outcome} {b : Prop} [Decidable b] (hx : x.state.WindowKept) (hy : y.state.WindowKept) :
    (if b then x else y).state.WindowKept := by
  split
  · exact hx
  · exact hy

theorem kept_outcomes {α : Type} {f : Outcome → α → Outcome}
    (hf : ∀ (x : Outcome) a, x.state.WindowKept → (f x a).state.WindowKept) (l : List α)
    {x : Outcome} (h : x.state.WindowKept) : (l.foldl f x).state.WindowKept := by
  induction l generalizing x with
  | nil => exact h
  | cons a l ih => exact ih (hf x a h)

theorem kept_meetPlace (p : Place) (h : s.WindowKept) : (meetPlace p s).WindowKept := by
  unfold meetPlace
  split
  · exact kept_useWord h _
  · exact h

theorem kept_gateWrite (o : Origin) (as : List Nat) (h : s.WindowKept) : (gateWrite o as s).1.WindowKept := by
  cases o with
  | line => exact h
  | farm => exact kept_ite (kept_useWord h _) h

theorem kept_gateFlagTest (o : Origin) (i : Nat) (h : s.WindowKept) : (gateFlagTest o i s).1.WindowKept := by
  cases o with
  | line => exact h
  | farm => exact kept_useWord h _

section requests

variable (o : Origin) (r : Request)

theorem kept_answerVacant (n : Nat) (h : s.WindowKept) : (answerVacant o r n s).state.WindowKept := kept_raiseEvent h _ _

theorem kept_runRead (h : s.WindowKept) : (runRead o r s).state.WindowKept :=
  kept_outcome h (kept_outcome (kept_answerVacant o r _ h) (kept_outcomes (fun _ a hx => kept_meetPlace (placeAt a) hx) _ h))

theorem kept_runWrite (h : s.WindowKept) : (runWrite o r s).state.WindowKept :=
  have gate := kept_gateWrite o (blockAddrs r.addr.toNat r.words) h
  kept_outcome h (kept_outcome (kept_answerVacant o r _ h)
    (kept_outcome gate (kept_outcomes (fun _ a hx => kept_storePlace a.2 (placeAt a.1) hx) _ gate)))

theorem kept_runOneWord (n : Nat) (f : NewWord) (h : s.WindowKept) : (runOneWord n f o r s).state.WindowKept := by
  have gate := kept_gateWrite o [r.addr.toNat] h
  have met := kept_meetPlace (placeOf r.addr) gate
  refine kept_outcome h (kept_outcome (kept_answerVacant o r _ h) ?_)
  dsimp only
  refine kept_outcome gate ?_
  split
  · exact met
  · refine kept_outcome met ?_
    split
    · exact met
    · exact kept_storePlace _ _ met

theorem kept_runCommit (h : s.WindowKept) : (runCommit o r s).state.WindowKept :=
  have gate := kept_gateFlagTest o 4 h
  kept_outcome h (kept_outcome gate (kept_outcome gate (kept_epochTest (kept_bookkeeping gate fun _ => rfl))))

theorem kept_runDigest (h : s.WindowKept) : (runDigest r s).state.WindowKept := by
  unfold runDigest
  refine kept_outcome h (kept_outcome h (kept_outcome h ?_))
  dsimp only
  exact kept_bookkeeping h fun _ => rfl

theorem kept_runEventNext (h : s.WindowKept) : (runEventNext r s).state.WindowKept := by
  refine kept_outcome h ?_
  split
  · exact h
  · exact h.same rfl rfl

theorem kept_runEventClear (h : s.WindowKept) : (runEventClear r s).state.WindowKept := by
  unfold runEventClear
  exact kept_outcome h (h.same rfl rfl)

theorem kept_runPairRestart (h : s.WindowKept) : (runPairRestart o r s).state.WindowKept := by
  have gate := kept_gateFlagTest o 5 h
  unfold runPairRestart
  refine kept_outcome h ?_
  split
  · exact kept_outcome gate (kept_restartPair _ gate)
  · exact h

theorem kept_runRestart (k : RestartKind) (i : Nat) (n : Option Nat) (h : s.WindowKept) : (runRestart k i o n r s).state.WindowKept :=
  have gate := kept_gateFlagTest o i h
  kept_outcome h (kept_outcome gate (gate.same rfl rfl))

theorem kept_runBoxPost (h : s.WindowKept) : (runBoxPost o r s).state.WindowKept := by
  refine kept_outcome h ?_
  split
  · exact h
  · exact kept_outcome h (kept_outcome h (kept_raiseEvent (kept_updCtl h) _ _))

theorem kept_runBoxTake (h : s.WindowKept) : (runBoxTake o r s).state.WindowKept := by
  refine kept_outcome h ?_
  split
  · exact h
  · exact kept_outcome h (kept_outcome h (kept_ite h (kept_updCtl h)))

theorem kept_runBoxRelease (h : s.WindowKept) : (runBoxRelease o r s).state.WindowKept := by
  refine kept_outcome h ?_
  split
  · exact h
  · exact kept_outcome h (kept_outcome h (h.same rfl rfl))

theorem kept_runKind (k : ReqKind) (n : Option Nat) (h : s.WindowKept) : (runKind k o n r s).state.WindowKept := by
  cases k with
  | read => exact kept_runRead o r h
  | write => exact kept_runWrite o r h
  | writePosted => exact kept_runWrite o r h
  | maskWrite => exact kept_runOneWord o r _ _ h
  | maskWritePosted => exact kept_runOneWord o r _ _ h
  | swapIf => exact kept_runOneWord o r _ _ h
  | addSat => exact kept_runOneWord o r _ _ h
  | addSatPosted => exact kept_runOneWord o r _ _ h
  | commit => exact kept_runCommit o r h
  | digest => exact kept_runDigest r h
  | eventNext => exact kept_runEventNext r h
  | eventClear => exact kept_runEventClear r h
  | pairRestart => exact kept_runPairRestart o r h
  | groupRestart => exact kept_runRestart o r _ _ n h
  | partReset => exact kept_runRestart o r _ _ n h
  | boxPost => exact kept_runBoxPost o r h
  | boxTake => exact kept_runBoxTake o r h
  | boxRelease => exact kept_runBoxRelease o r h

theorem kept_request (k : ReqKind) (n : Option Nat) (h : s.WindowKept) : (request k o n r s).1.WindowKept := by
  have runs := kept_runKind o r k n h
  unfold request
  dsimp only
  split
  · exact kept_settleOwed (kept_ite runs (kept_raiseEvent runs _ _))
  · exact kept_settleOwed runs

end requests

theorem kept_single (k : ReqKind) (t : Nat) (o : Origin) (tag : Byte) (a : Word) (n : Nat) (data : List Byte) (h : s.WindowKept) :
    (single k t o tag a n data s).WindowKept := kept_finish (kept_updCtl (kept_request o _ k none (kept_atTime h t)))

theorem kept_frameRequests (o : Origin) (n : Option Nat) (rs : List Request) (acc : State × List Record) (h : acc.1.WindowKept) :
    (rs.foldl (frameRequest o n) acc).1.WindowKept := by
  induction rs generalizing acc with
  | nil => exact h
  | cons r rs ih =>
    refine ih (frameRequest o n acc r) ?_
    unfold frameRequest
    split
    · exact h
    · exact kept_request o r _ n h

theorem kept_handOn (o : Origin) (b : List Byte) (n : Nat) (h : s.WindowKept) : (handOn o b n s).WindowKept := by
  have offered := kept_admitInternal h b (some n)
  cases o with
  | farm => exact h.same rfl rfl
  | line => exact kept_ite offered (kept_updCtl offered)

theorem kept_respond (f : CtlFrame) (st : Status) (rs : List Record) (h : s.WindowKept) : (respond f st rs s).WindowKept := by
  unfold respond
  exact kept_updCtl (kept_handOn _ _ _ (kept_updCtl (kept_touchGroup (kept_touchGroup h 0x0E) 0x0F)))

theorem kept_executeFrame (f : CtlFrame) (h : s.WindowKept) : (executeFrame f s).WindowKept := by
  unfold executeFrame
  split
  · exact kept_respond f _ _ (kept_bump h _)
  · next rs _ => exact kept_respond f _ _ (kept_frameRequests f.origin _ rs (s, []) h)

/-! ### Commits -/

/-- A copy into a word of W comes from one. -/
theorem windowWords_copyWord {x : TableStore} (words : x.WindowWords) {src dst : TRef}
    (from_ : ∀ c, dst = .group c 1 → ∃ d, src = .group d 1) : (x.copyWord src dst).1.WindowWords := by
  unfold TableStore.copyWord
  split
  · next v read =>
    refine windowWords_store words dst fun c same => ?_
    obtain ⟨d, rfl⟩ := from_ c same
    unfold TableStore.word? at read
    split at read
    · cases read
    · cases read; exact words d
  · exact words

theorem windowWords_copyGroup {x : TableStore} (words : x.WindowWords) (c d : Copy) (i : Fin 19) :
    (x.copyWord (.group c i) (.group d i)).1.WindowWords :=
  windowWords_copyWord words fun _ same => by cases same; exact ⟨c, rfl⟩

theorem windowWords_rewriteWord {x : TableStore} (words : x.WindowWords) (i : Fin 19) : (x.rewriteWord i).1.WindowWords := by
  have active := windowWords_copyGroup words .active .active i
  unfold TableStore.rewriteWord
  unfold TableStore.copyWord at active
  split
  · next v read => rw [read] at active; exact active
  · exact windowWords_copyGroup words .shadow .active i

theorem windowWords_foldl {α : Type} {f : TableStore → α → TableStore} (hf : ∀ (x : TableStore) a, x.WindowWords → (f x a).WindowWords)
    (l : List α) {x : TableStore} (words : x.WindowWords) : (l.foldl f x).WindowWords := by
  induction l generalizing x with
  | nil => exact words
  | cons a l ih => exact ih (hf x a words)

theorem windowWords_commitGroup {x : TableStore} (words : x.WindowWords) : x.commitGroup.WindowWords := by
  have each : ∀ (l : List (Fin 19)) (acc : TableStore × Bool), acc.1.WindowWords →
      (l.foldl TableStore.commitGroupWord acc).1.WindowWords := by
    intro l
    induction l with
    | nil => exact fun _ h => h
    | cons i l ih =>
      refine fun acc h => ih _ ?_
      unfold TableStore.commitGroupWord bothCopied
      dsimp only
      split
      · exact windowWords_rewriteWord h i
      · exact windowWords_copyGroup h .shadow .active i
  have all := each (List.finRange 19) (x, true) words
  unfold TableStore.commitGroup
  generalize (List.finRange 19).foldl TableStore.commitGroupWord (x, true) = y at all ⊢
  obtain ⟨y, ok⟩ := y
  dsimp only
  split <;> exact all

theorem windowWords_commitPair (m : PairIx → Option Nat) (x : TableStore) (p : PairIx) (words : x.WindowWords) :
    (x.commitPair m p).WindowWords := by
  have mode := windowWords_copyWord words (src := .pair .shadow p 0) (dst := .pair .active p 0) fun _ other => by cases other
  have offset : ∀ y : TableStore, y.WindowWords → (y.commitOffset (m p) p).1.WindowWords := by
    intro y hy
    have copied := windowWords_copyWord hy (src := .pair .shadow p 1) (dst := .pair .active p 1) fun _ other => by cases other
    unfold TableStore.commitOffset
    split
    · split
      · exact copied
      · exact windowWords_store hy _ fun _ other => by cases other
    · exact copied
  have both := offset _ mode
  unfold TableStore.commitPair bothCopied
  dsimp only
  split <;> exact both

theorem windowWords_commitCls (x : TableStore) (i : Fin 64) (words : x.WindowWords) : (x.commitCls i).WindowWords := by
  have first := windowWords_copyWord words (src := .cls .shadow i 0) (dst := .cls .active i 0) fun _ other => by cases other
  have both := windowWords_copyWord first (src := .cls .shadow i 1) (dst := .cls .active i 1) fun _ other => by cases other
  unfold TableStore.commitCls bothCopied
  dsimp only
  split <;> exact both

theorem windowWords_commitStores (m : PairIx → Option Nat) {x : TableStore} (words : x.WindowWords) : (x.commitStores m).WindowWords :=
  windowWords_foldl windowWords_commitCls _ (windowWords_foldl (windowWords_commitPair m) _ (windowWords_commitGroup words))

theorem kept_restartBoundReads (s : State) (i : Fin 19) (h : s.WindowKept) : (restartBoundReads s i).WindowKept :=
  kept_ite (kept_touch (kept_touch h _) _) (kept_touch h _)

theorem kept_commitCopy (h : s.WindowKept) : (commitCopy s).WindowKept := by
  have read := kept_touchAll (kept_foldl kept_restartBoundReads [0, 1] h) commitSources
  exact kept_updTables read (windowWords_commitStores _ read.words)

theorem kept_commitDone (h : s.WindowKept) : (commitDone s).WindowKept := kept_raiseEvent (kept_bookkeeping h fun _ => rfl) _ _

theorem kept_noticesAfterCommit (n : Nat) (o : Option Nat) (h : s.WindowKept) : (noticesAfterCommit n o s).WindowKept :=
  have read := kept_touchGroup h 0x12
  kept_ite (kept_updEvents read) (kept_ite (kept_ite (kept_sendNotice read) (kept_updEvents read)) read)

theorem kept_makeMove (keep : Bool) (p : PairIx) (m : CommitMove) (h : s.WindowKept) : (makeMove keep p m s).WindowKept := by
  cases m with
  | stay => exact h
  | retrain => exact h.same rfl rfl
  | activate => exact kept_toActive p h
  | probation => exact h.same rfl rfl
  | drain =>
    unfold makeMove beginDrain
    exact kept_drainCheck p (kept_updPair (kept_touchGroup h 0x07))
  | off c => exact kept_depart _ _ _ _ _ _ h

theorem kept_touchMoves (h : s.WindowKept) : (touchMoves s).WindowKept := by
  have reads : ∀ {x : State} {b : Prop} [Decidable b] (i : Fin 19), x.WindowKept → (if b then touchGroup i x else x).WindowKept :=
    fun i hx => kept_ite (kept_touchGroup hx i) hx
  exact kept_touchGroup (reads _ (reads _ (kept_touchAll h _))) _

theorem kept_movePairs (h : s.WindowKept) : (movePairs s).WindowKept := by
  have met := kept_touchMoves h
  unfold movePairs
  dsimp only
  generalize touchMoves s = x at met ⊢
  exact kept_foldl (f := fun s (m : PairIx × CommitMove) => makeMove x.upAfterCommit m.1 m.2 s)
    (fun _ m hx => kept_makeMove _ m.1 m.2 hx) _ met

theorem kept_guardAfterCommit (s : State) (p : PairIx) (h : s.WindowKept) : (guardAfterCommit s p).WindowKept := kept_ite (kept_updPair h) h

theorem kept_guardsAfterCommit (h : s.WindowKept) : (guardsAfterCommit s).WindowKept := by
  unfold guardsAfterCommit
  exact kept_foldl kept_guardAfterCommit allPairs (kept_ite (kept_touchGroup h 0x08) h)

theorem kept_applyCommit (h : s.WindowKept) : (applyCommit s).WindowKept :=
  have copied := kept_noticesAfterCommit s.noticeSides s.events.lastNotice (kept_commitDone (kept_commitCopy h))
  have moved := kept_evaluateGroup (kept_guardsAfterCommit (kept_movePairs copied))
  kept_attempt (kept_ite (kept_testsN _ moved) moved)

/-! ### Restarts and resets -/

theorem kept_restartOne (s : State) (p : PairIx) (h : s.WindowKept) : (restartOne s p).WindowKept := by
  unfold restartOne
  exact kept_updPair (kept_ite h (kept_toDown p _ h))

theorem kept_copyRestartBound (i : Fin 19) (h : s.WindowKept) : (copyRestartBound i s).WindowKept := by
  have read := kept_touch h (.group .shadow i)
  exact kept_updTables read (windowWords_copyGroup read.words .shadow .active i)

theorem kept_groupRestartNow (h : s.WindowKept) : (groupRestartNow s).WindowKept := by
  have down := kept_setGroup (kept_foldl kept_restartOne allPairs h) false
  have idle := kept_toIdle (kept_updDist (kept_flushClassifier (kept_clearDistributor down)) (f := fun d => { d with nextGsn := 0 }))
  unfold groupRestartNow
  exact kept_raiseEvent (kept_touchGroup (kept_copyRestartBound 1 (kept_copyRestartBound 0 idle)) 0x02) _ _

/-- After a reset both words of W read their default 512, and the reassembler is in IDLE (R93, R128). -/
theorem kept_resetAt (now : Nat) (straps : BitVec 5) (s : State) : (resetAt now straps s).WindowKept where
  words c := by
    have word : ((resetAt now straps s).tables.get (.group c 1)).val = pack [(0, 512)] := reset_group _ c 1
    rw [word]
    decide
  distinct := List.nodup_nil
  size hs := by cases hs
  span hs := by cases hs

/-! ### Every command -/

/-- The window's rule holds of any next state of an outcome. -/
def AnswersKept (o : Host.Outcome State Fault Refusal) : Prop := ∀ t, o = .next t → t.WindowKept

theorem State.WindowKept.answers (h : s.WindowKept) : AnswersKept (.next s) := fun _ e => by cases e; exact h

/-- A command that ends with the distributor's work. -/
theorem State.WindowKept.finished (h : s.WindowKept) : AnswersKept (.next (finish s)) := (kept_finish h).answers

theorem answersKept_ite {x y : Host.Outcome State Fault Refusal} {b : Prop} [Decidable b] (hx : AnswersKept x) (hy : AnswersKept y) :
    AnswersKept (if b then x else y) := by
  split
  · exact hx
  · exact hy

section pairs

variable (tm : Nat) (p : PairIx) (h : s.WindowKept)
include h

theorem answersKept_trainStart : AnswersKept (execTrainStart tm p s) := by
  have timed := kept_atTime h tm
  unfold execTrainStart
  dsimp only
  split
  · exact timed.finished
  · exact timed.finished
  · exact (kept_pairChanged (kept_updPair timed)).finished
  · exact (kept_lose p _ timed).finished

theorem answersKept_up (u d : Nat) : AnswersKept (execUp tm p u d s) := by
  have timed := kept_atTime h tm
  unfold execUp
  dsimp only
  split
  · exact timed.finished
  · exact (kept_enterService p u d timed).finished
  · exact (kept_enterService p u d timed).finished
  · exact (kept_takeRate p u d timed).finished

theorem answersKept_down : AnswersKept (execDown tm p s) := by
  have timed := kept_atTime h tm
  unfold execDown
  dsimp only
  split
  · exact timed.finished
  · exact timed.finished
  · exact (kept_lose p _ timed).finished

theorem answersKept_ready : AnswersKept (execReady tm p s) :=
  have timed := kept_atTime h tm
  have met := kept_touchHandOff p timed
  answersKept_ite (answersKept_ite (kept_handOut p met).finished met.finished) timed.finished

theorem answersKept_silence : AnswersKept (execSilence tm p s) :=
  have timed := kept_atTime h tm
  have read := kept_ite (b := ((s.atTime tm).pair p).state.running = true) (kept_useGroup timed 0x05) timed
  answersKept_ite (kept_lose p _ read).finished read.finished

theorem answersKept_replayTimeout : AnswersKept (execReplayTimeout tm p s) := by
  have timed := kept_atTime h tm
  have read := kept_ite (b := ((s.atTime tm).pair p).waiting.isSome = true) (kept_useGroup timed 0x04) timed
  unfold execReplayTimeout
  dsimp only
  split
  · exact (kept_attempt (kept_updPair read)).finished
  · exact read.finished

theorem answersKept_guardWindowOpen : AnswersKept (execGuardWindowOpen tm p s) := by
  have timed := kept_atTime h tm
  have read := kept_ite (b := ((s.atTime tm).pair p).guard.awaitsWindow.isSome = true) (kept_useGroup timed 0x08) timed
  unfold execGuardWindowOpen
  dsimp only
  split
  · exact (kept_attempt (kept_openWindow p _ read)).finished
  · exact read.finished

theorem answersKept_guardWindowEnd : AnswersKept (execGuardWindowEnd tm p s) := by
  have timed := kept_atTime h tm
  unfold execGuardWindowEnd
  dsimp only
  split
  · exact (kept_attempt (kept_closeWindow p _ timed)).finished
  · exact timed.finished

end pairs

section blocks

variable (tm : Nat) (h : s.WindowKept)
include h

theorem answersKept_farmFrameEnd : AnswersKept (execFarmFrameEnd tm s) := by
  have timed := kept_atTime h tm
  unfold execFarmFrameEnd
  dsimp only
  split
  · exact (kept_frameEnd _ timed).finished
  · exact timed.finished

theorem answersKept_farmTransmitStart : AnswersKept (execFarmTransmitStart tm s) := by
  have timed := kept_atTime h tm
  unfold execFarmTransmitStart
  dsimp only
  split
  · exact (kept_beginTx _ timed).finished
  · exact timed.finished

theorem answersKept_farmTransmitEnd : AnswersKept (execFarmTransmitEnd tm s) := by
  have timed := kept_atTime h tm
  unfold execFarmTransmitEnd
  dsimp only
  split
  · exact (kept_endTx _ timed).finished
  · exact timed.finished

theorem answersKept_resyncDeadline : AnswersKept (execResyncDeadline tm s) := by
  have timed := kept_atTime h tm
  unfold execResyncDeadline
  dsimp only
  split
  · exact (kept_resyncNow _ timed).finished
  · exact timed.finished

theorem answersKept_shadowTableWrite (a v : Word) : AnswersKept (execShadowTableWrite tm a v s) := by
  have timed := kept_atTime h tm
  unfold execShadowTableWrite
  dsimp only
  split
  · exact (kept_storeShadow _ v timed).finished
  · exact (kept_storeShadow _ v timed).finished
  · exact (kept_storeShadow _ v timed).finished
  · exact timed.finished

theorem answersKept_tableMemoryError (a : Word) (two : Bool) : AnswersKept (execTableMemoryError tm a two s) := by
  have timed := kept_atTime h tm
  unfold execTableMemoryError
  dsimp only
  split
  · exact (kept_memoryError _ two timed).finished
  · exact timed.finished

theorem answersKept_controlFrameExecute : AnswersKept (execControlFrameExecute tm s) := by
  have timed := kept_atTime h tm
  unfold execControlFrameExecute
  dsimp only
  split
  · exact (kept_executeFrame _ timed).finished
  · exact timed.finished

end blocks

/-- Every command keeps the window's rule. -/
theorem answersKept_exec (c : Instr) (h : s.WindowKept) : AnswersKept (exec c s) := by
  have timed : ∀ tm, (s.atTime tm).WindowKept := kept_atTime h
  cases c with
  | powerUpReset straps => exact (kept_resetAt 0 straps s).answers
  | trainStart tm p => exact answersKept_trainStart tm p h
  | up tm p u d => exact answersKept_up tm p h u d
  | rate tm p u d => exact answersKept_ite (kept_takeRate p u d (timed tm)).finished (timed tm).finished
  | down tm p => exact answersKept_down tm p h
  | ready tm p => exact answersKept_ready tm p h
  | received tm p bytes => exact answersKept_ite (kept_receive p bytes (timed tm)).finished (timed tm).finished
  | probationTimeExpiry tm p => exact (kept_examine p (timed tm)).finished
  | silence tm p => exact answersKept_silence tm p h
  | replayTimeout tm p => exact answersKept_replayTimeout tm p h
  | drainLimit tm p => exact answersKept_ite (kept_pairChanged (kept_toOff p _ (timed tm))).finished (timed tm).finished
  | guardWindowOpen tm p => exact answersKept_guardWindowOpen tm p h
  | guardWindowEnd tm p => exact answersKept_guardWindowEnd tm p h
  | farmByteArrival tm b => exact (kept_farmByte b (timed tm)).finished
  | farmFrameEnd tm => exact answersKept_farmFrameEnd tm h
  | pauseEnd tm => exact answersKept_ite (kept_updFarm (timed tm)).finished (timed tm).finished
  | farmTransmitStart tm => exact answersKept_farmTransmitStart tm h
  | farmTransmitEnd tm => exact answersKept_farmTransmitEnd tm h
  | rerouteAgeLimit tm => exact answersKept_ite (kept_attempt (timed tm)).finished (timed tm).finished
  | holdDeadline tm => exact answersKept_ite (kept_testsN _ (kept_declareGap (timed tm) _)).finished (timed tm).finished
  | resyncDeadline tm => exact answersKept_resyncDeadline tm h
  | suspensionEnd tm =>
    have lifted : ((s.atTime tm).updReas fun r => { r with suspension := none }).WindowKept :=
      (timed tm).congr (.of_eq rfl) rfl rfl rfl rfl
    exact answersKept_ite (kept_testShortcut lifted).finished (timed tm).finished
  | commitApply tm => exact answersKept_ite (kept_applyCommit (timed tm)).finished (timed tm).finished
  | digestDone tm => exact answersKept_ite (kept_digestEnds (timed tm)).finished (timed tm).finished
  | controlFrameExecute tm => exact answersKept_controlFrameExecute tm h
  | read tm o tag a len => exact (kept_single .read tm o tag a len [] h).answers
  | write tm o tag a data => exact (kept_single .write tm o tag a _ data h).answers
  | writePosted tm o tag a data => exact (kept_single .writePosted tm o tag a _ data h).answers
  | maskWrite tm o tag a data => exact (kept_single .maskWrite tm o tag a _ data h).answers
  | maskWritePosted tm o tag a data => exact (kept_single .maskWritePosted tm o tag a _ data h).answers
  | swapIf tm o tag a data => exact (kept_single .swapIf tm o tag a _ data h).answers
  | addSat tm o tag a data => exact (kept_single .addSat tm o tag a _ data h).answers
  | addSatPosted tm o tag a data => exact (kept_single .addSatPosted tm o tag a _ data h).answers
  | commit tm o tag a data => exact (kept_single .commit tm o tag a _ data h).answers
  | digest tm o tag a data => exact (kept_single .digest tm o tag a _ data h).answers
  | eventNext tm o tag a data => exact (kept_single .eventNext tm o tag a _ data h).answers
  | eventClear tm o tag a data => exact (kept_single .eventClear tm o tag a _ data h).answers
  | pairRestart tm o tag a data => exact (kept_single .pairRestart tm o tag a _ data h).answers
  | groupRestart tm o tag a data => exact (kept_single .groupRestart tm o tag a _ data h).answers
  | partReset tm o tag a data => exact (kept_single .partReset tm o tag a _ data h).answers
  | boxPost tm o tag a data => exact (kept_single .boxPost tm o tag a _ data h).answers
  | boxTake tm o tag a data => exact (kept_single .boxTake tm o tag a _ data h).answers
  | boxRelease tm o tag a data => exact (kept_single .boxRelease tm o tag a _ data h).answers
  | shadowTableWrite tm a v => exact answersKept_shadowTableWrite tm h a v
  | gateRecordWrite tm v => exact (kept_storeGate v (timed tm)).finished
  | eccStatusWrite tm second v => exact (kept_storePlace v _ (timed tm)).finished
  | eventEnableWrite tm v => exact (kept_storeEnable v (timed tm)).finished
  | keepFlagWrite tm b v => exact (kept_updCtl (timed tm)).finished
  | counterWrite tm a v => exact (kept_storePlace v _ (timed tm)).finished
  | groupRestartEffect tm => exact answersKept_ite (kept_groupRestartNow (kept_updCtl (timed tm))).finished (timed tm).finished
  | partResetEffect tm straps => exact answersKept_ite (kept_resetAt _ straps _).answers (timed tm).finished
  | noticeIntervalEnd tm => exact answersKept_ite (kept_intervalEnd (timed tm)).finished (timed tm).finished
  | tableMemoryError tm a two => exact answersKept_tableMemoryError tm h a two

/-- Settles O8: every command keeps the window's rule, whether taken from the queue or due. -/
theorem stepKeepsWindow : Obligations.StepKeepsWindow := by
  intro s t h run
  unfold step at run
  split at run
  · next c rest _ => exact answersKept_exec c (s := { s with pending := rest }) (h.same rfl rfl) t run
  · split at run
    · next c _ _ => exact answersKept_exec c h t run
    · cases run; exact h

end Sys2Proof.Machine
end

section
/-! PROOFS of the family 07 (the bonding group), first layer: the local time base and the queue of waiting commands under the
operations the blocks share, the pair ports, the burst guards and the pair link (log entry 1, R127). -/

namespace Sys2Proof.Machine

/-! ### The clock of a state -/

/-- The two fields that the effects of the blocks leave alone: the local time base and the queue of waiting commands. -/
def State.clock (s : State) : Nat × List Instr := (s.now, s.pending)

theorem BlockFrame.clock {s t : State} (h : BlockFrame s t) : t.clock = s.clock := Prod.ext h.now h.pending

theorem OnlyReported.clock {s t : State} (h : OnlyReported s t) : t.clock = s.clock := Prod.ext h.now h.pending

section updates

variable (s : State)

@[simp] theorem clock_updPair (p : PairIx) (f : PairPort → PairPort) : (s.updPair p f).clock = s.clock := rfl
@[simp] theorem clock_updFarm (f : FarmPort → FarmPort) : (s.updFarm f).clock = s.clock := rfl
@[simp] theorem clock_updDist (f : Distributor → Distributor) : (s.updDist f).clock = s.clock := rfl
@[simp] theorem clock_updReas (f : Reassembler → Reassembler) : (s.updReas f).clock = s.clock := rfl
@[simp] theorem clock_updTables (f : TableStore → TableStore) : (s.updTables f).clock = s.clock := rfl
@[simp] theorem clock_updCtl (f : ControlEngine → ControlEngine) : (s.updCtl f).clock = s.clock := rfl
@[simp] theorem clock_updEvents (f : EventUnit → EventUnit) : (s.updEvents f).clock = s.clock := rfl
@[simp] theorem clock_setQueue (c : ClassIx) (q : List QFrame) : (s.setQueue c q).clock = s.clock := rfl
@[simp] theorem clock_setGroup (up : Bool) : (s.setGroup up).clock = s.clock := rfl
@[simp] theorem clock_bump (c : GroupCtr) : (s.bump c).clock = s.clock := rfl

/-- A step taken or left. -/
@[simp] theorem clock_ite (b : Prop) [Decidable b] (t u : State) :
    (if b then t else u).clock = if b then t.clock else u.clock := apply_ite ..

end updates

/-- Steps that each leave the clock alone leave it alone one after another. -/
theorem clock_foldl {α : Type} {f : State → α → State} (hf : ∀ s a, (f s a).clock = s.clock) (l : List α) (s : State) :
    (l.foldl f s).clock = s.clock := by
  induction l generalizing s with
  | nil => rfl
  | cons a l ih => exact (ih (f s a)).trans (hf s a)

/-! ### Shared work -/

section shared

variable (s : State)

@[simp] theorem clock_touch (r : TRef) : (touch r s).clock = s.clock := (settles_touch r s).clock
@[simp] theorem clock_touchGroup (i : Fin 19) : (touchGroup i s).clock = s.clock := (settles_touchGroup i s).clock
@[simp] theorem clock_touchAll (rs : List TRef) : (touchAll rs s).clock = s.clock := (settles_touchAll rs s).clock
@[simp] theorem clock_useWord (r : TRef) : (useWord r s).clock = s.clock := (settles_useWord r s).clock
@[simp] theorem clock_useGroup (i : Fin 19) : (useGroup i s).clock = s.clock := (settles_useGroup i s).clock
@[simp] theorem clock_epochTest : (epochTest s).clock = s.clock := (settles_epochTest s).clock
@[simp] theorem clock_raiseEvent (k : EventKind) (d : Detail) : (raiseEvent k d s).clock = s.clock := (settles_raiseEvent k d s).clock
@[simp] theorem clock_sendNotice : (sendNotice s).clock = s.clock := (onlyReported_sendNotice s).clock
@[simp] theorem clock_newPending : (newPending s).clock = s.clock := (onlyReported_newPending s).clock
@[simp] theorem clock_admitInternal (b : List Byte) (r : Option Nat) : (admitInternal b r s).1.clock = s.clock :=
  (onlyReported_admitInternal b r s).clock
@[simp] theorem clock_responseLeft (n : Nat) : (responseLeft n s).clock = s.clock := rfl
@[simp] theorem clock_fragmentGone (f : Frag) : (fragmentGone f s).clock = s.clock := (tallied_fragmentGone f s).settles.clock
@[simp] theorem clock_foldl_joinReroute (fs : List Frag) : (fs.foldl joinReroute s).clock = s.clock :=
  clock_foldl (f := joinReroute) (fun _ _ => rfl) fs s
@[simp] theorem clock_attempt : (attempt s).clock = s.clock := (settles_attempt s).clock
@[simp] theorem clock_settleOwed : (settleOwed s).clock = s.clock := (settles_settleOwed s).clock
@[simp] theorem clock_finish : (finish s).clock = s.clock := (settles_finish s).clock
@[simp] theorem clock_headProcess : (headProcess s).clock = s.clock := (reasWork_headProcess s).settles.clock
@[simp] theorem clock_declareGap (c : GapCause) : (declareGap c s).clock = s.clock := (reasWork_declareGap c s).settles.clock
@[simp] theorem clock_testsN (n : Nat) : (testsN n s).clock = s.clock := (reasWork_testsN n s).settles.clock
@[simp] theorem clock_testShortcut : (testShortcut s).clock = s.clock := (settles_testShortcut s).clock
@[simp] theorem clock_arrive (a : Entry) : (arrive a s).clock = s.clock := (settles_arrive a s).clock
@[simp] theorem clock_resyncNow (g : Gsn) : (resyncNow g s).clock = s.clock := (settles_resyncNow g s).clock
@[simp] theorem clock_controlArrive (o : Origin) (b : List Byte) : (controlArrive o b s).clock = s.clock :=
  (reasWork_controlArrive o b s).settles.clock
@[simp] theorem clock_depart (p : PairIx) (left target : PairState) (cause : Cause) (cmd : XcvrCmd) (keep : Bool) :
    (depart p left target cause cmd keep s).clock = s.clock := (blockFrame_depart ..).clock
@[simp] theorem clock_toDown (p : PairIx) (cause : Cause) : (toDown p cause s).clock = s.clock := (blockFrame_toDown p cause s).clock
@[simp] theorem clock_toOff (p : PairIx) (cause : Cause) : (toOff p cause s).clock = s.clock := (blockFrame_toOff p cause s).clock
@[simp] theorem clock_drained (p : PairIx) : (drained p s).clock = s.clock := clock_depart ..
@[simp] theorem clock_drainCheck (p : PairIx) : (drainCheck p s).clock = s.clock := (settles_drainCheck p s).clock
@[simp] theorem clock_evaluateGroup : (evaluateGroup s).clock = s.clock := (settles_evaluateGroup s).clock
@[simp] theorem clock_pairChanged : (pairChanged s).clock = s.clock := (settles_pairChanged s).clock

end shared

/-! ### Pair ports -/

section pairs

variable (p : PairIx) (s : State)

@[simp] theorem clock_toActive : (toActive p s).clock = s.clock := by
  unfold toActive
  dsimp only
  rw [clock_raiseEvent, clock_touch, clock_updPair, clock_ite]
  split <;> rfl

@[simp] theorem clock_lose (cause : Cause) : (lose p cause s).clock = s.clock := (clock_pairChanged _).trans (clock_toDown ..)

@[simp] theorem clock_restartPair : (restartPair p s).clock = s.clock := by
  unfold restartPair
  split
  · rfl
  · exact clock_lose ..

@[simp] theorem clock_examine : (examine p s).clock = s.clock := by
  unfold examine
  dsimp only
  split_ifs
  · rw [clock_pairChanged, clock_toActive, clock_useGroup, clock_useGroup]
  · rw [clock_useGroup, clock_useGroup]
  · rfl

@[simp] theorem clock_enterService (u d : Nat) : (enterService p u d s).clock = s.clock := clock_pairChanged _

@[simp] theorem clock_lowRate : (lowRate p s).clock = s.clock := (clock_pairChanged _).trans (clock_foldl_joinReroute ..)

@[simp] theorem clock_takeRate (u d : Nat) : (takeRate p u d s).clock = s.clock := by
  simp [takeRate]

@[simp] theorem clock_takeEcho (stamp : BitVec 16) : (takeEcho p stamp s).clock = s.clock := by
  simp [takeEcho]

/-! ### The burst guard -/

@[simp] theorem clock_judgeBurst (t : Nat) : (judgeBurst p t s).clock = s.clock := by
  unfold judgeBurst
  dsimp only
  split_ifs <;> rfl

@[simp] theorem clock_learnBurst (t : Nat) : (learnBurst p t s).clock = s.clock := by
  unfold learnBurst
  dsimp only
  split
  · simp
  · simp

@[simp] theorem clock_guardBadCheck : (guardBadCheck p s).clock = s.clock := by
  unfold guardBadCheck
  dsimp only
  split_ifs
  · exact clock_judgeBurst ..
  · exact clock_learnBurst ..
  · rfl

@[simp] theorem clock_probationBadCheck : (probationBadCheck p s).clock = s.clock := by
  unfold probationBadCheck
  dsimp only
  split <;> rfl

@[simp] theorem clock_closeWindow (w : GuardWindow) : (closeWindow p w s).clock = s.clock := by
  unfold closeWindow
  dsimp only
  split_ifs
  · rfl
  · exact clock_useGroup ..
  · exact clock_useGroup ..

@[simp] theorem clock_guardAfterCommit : (guardAfterCommit s p).clock = s.clock := by
  unfold guardAfterCommit
  split <;> rfl

/-! ### The pair link -/

@[simp] theorem clock_afterStores : (afterStores p s).clock = s.clock := by
  unfold afterStores
  split
  · exact (clock_pairChanged _).trans (clock_drained ..)
  · exact clock_attempt _

@[simp] theorem clock_touchHandOff : (touchHandOff p s).clock = s.clock := by
  unfold touchHandOff
  dsimp only
  split <;> simp

@[simp] theorem clock_exhausted (txn : Txn) : (exhausted p txn s).clock = s.clock := by
  unfold exhausted
  rw [clock_pairChanged, clock_raiseEvent, clock_toDown]

@[simp] theorem clock_handOut : (handOut p s).clock = s.clock := by
  unfold handOut
  dsimp only
  split <;> simp

@[simp] theorem clock_applyAck (a : Txn) : (applyAck p a s).clock = s.clock := by
  unfold applyAck
  dsimp only
  split
  · rfl
  · exact clock_afterStores ..

@[simp] theorem clock_applyRequest (a : Txn) : (applyRequest p a s).clock = s.clock := by
  unfold applyRequest
  dsimp only
  split_ifs
  · exact clock_attempt _
  all_goals rfl

@[simp] theorem clock_takeData (f : FragFields) (void : Bool) : (takeData p f void s).clock = s.clock := by
  unfold takeData
  dsimp only
  split
  · exact (clock_testShortcut _).trans (clock_arrive ..)
  · split <;> rfl

@[simp] theorem clock_byKind (f : FragFields) (void : Bool) : (byKind p f void s).clock = s.clock := by
  unfold byKind
  split
  · exact clock_takeData ..
  · rfl
  · rfl
  · exact clock_takeEcho ..

theorem clock_whileRunning {f : State → State} (hf : ∀ x, (f x).clock = x.clock) : (whileRunning p f s).clock = s.clock := by
  unfold whileRunning
  split
  · exact hf s
  · rfl

@[simp] theorem clock_takeFragment (f : FragFields) (void : Bool) : (takeFragment p f void s).clock = s.clock := by
  unfold takeFragment
  dsimp only
  rw [clock_whileRunning _ _ (clock_byKind p · f void)]
  split
  · rw [clock_whileRunning _ _ (clock_applyRequest p · f.ackn)]
    exact clock_applyAck ..
  · exact clock_applyAck ..

@[simp] theorem clock_takeBad : (takeBad p s).clock = s.clock := by
  unfold takeBad
  dsimp only
  rw [clock_whileRunning _ _ fun _ => clock_updPair .., clock_probationBadCheck, clock_guardBadCheck, clock_updPair]

@[simp] theorem clock_mismatch (got : Nat) : (mismatch p got s).clock = s.clock := by
  unfold mismatch
  split
  · rfl
  · rw [clock_pairChanged, clock_raiseEvent, clock_toDown]

@[simp] theorem clock_receive (bytes : List Byte) : (receive p bytes s).clock = s.clock := by
  unfold receive
  split
  · exact clock_takeBad ..
  · refine (clock_whileRunning _ _ fun x => ?_).trans (clock_useGroup ..)
    split
    · exact clock_takeFragment ..
    · exact clock_mismatch ..

end pairs

end Sys2Proof.Machine
end

section
/-! PROOFS of the family 07, second layer: the farm port, table memory, the control engine, commits and the group restart leave
the clock alone. -/

namespace Sys2Proof.Machine

/-! ### The farm port -/

section farm

variable (s : State)

theorem clock_lookupIn (bs : List Byte) (is : List (Fin 64)) : (lookupIn bs is s).1.clock = s.clock := by
  induction is generalizing s with
  | nil => exact clock_touchGroup ..
  | cons i is ih =>
    unfold lookupIn
    dsimp only
    split
    · exact ih s
    · split
      · exact (clock_touch ..).trans (clock_touch ..)
      · exact (ih _).trans ((clock_touch ..).trans (clock_touch ..))

@[simp] theorem clock_failArriving (c : ClassIx) (tail : List Byte) : (failArriving c tail s).clock = s.clock := by
  unfold failArriving
  dsimp only
  split
  · rfl
  · split_ifs
    · rfl
    · exact (clock_attempt _).trans (clock_epochTest _)
    · exact clock_epochTest _

@[simp] theorem clock_setRxKind (k : RxKind) : (setRxKind k s).clock = s.clock := rfl

@[simp] theorem clock_storeByte (c : ClassIx) (check : List Byte) (b : Byte) : (storeByte c check s b).clock = s.clock := by
  unfold storeByte
  dsimp only
  split
  · split_ifs <;> simp
  · rfl

@[simp] theorem clock_classifyFrame (bs held check : List Byte) : (classifyFrame bs held check s).clock = s.clock := by
  unfold classifyFrame
  split
  · rfl
  · have looked := clock_lookupIn s bs allEntries
    split
    · next h => rw [h] at looked; exact looked
    · next h => rw [h] at looked; exact (clock_foldl (clock_storeByte · _ check) ..).trans looked

@[simp] theorem clock_judgeFrame (r : RxFrame) : (judgeFrame r s).clock = s.clock := by
  unfold judgeFrame
  dsimp only
  split_ifs <;> simp

@[simp] theorem clock_becomeGiant (r : RxFrame) : (becomeGiant r s).clock = s.clock := by
  unfold becomeGiant
  split <;> simp

@[simp] theorem clock_takeByte (r : RxFrame) (b : Byte) : (takeByte r b s).clock = s.clock := by
  unfold takeByte
  dsimp only
  split
  · rfl
  · rfl
  · split
    · exact clock_storeByte ..
    · rfl
  · split
    · exact clock_judgeFrame ..
    · rfl
  · rfl

@[simp] theorem clock_farmByte (b : Byte) : (farmByte b s).clock = s.clock := by
  unfold farmByte
  dsimp only
  split_ifs
  · exact clock_takeByte ..
  · exact clock_becomeGiant ..
  · rfl

@[simp] theorem clock_countFailure (v : Verdict) : (countFailure v s).clock = s.clock := by cases v <;> rfl

@[simp] theorem clock_takeLink (r : RxFrame) : (takeLink r s).clock = s.clock := by
  unfold takeLink
  dsimp only
  split <;> rfl

@[simp] theorem clock_endGood (c : ClassIx) : (endGood c s).clock = s.clock := rfl

@[simp] theorem clock_frameEnd (r : RxFrame) : (frameEnd r s).clock = s.clock := by
  unfold frameEnd
  dsimp only
  split <;> simp

@[simp] theorem clock_beginTx (x : FarmTx) : (beginTx x s).clock = s.clock := by cases x <;> rfl

@[simp] theorem clock_recordSent (w : List Byte) : (recordSent w s).clock = s.clock := rfl

@[simp] theorem clock_endTx (x : FarmTx) : (endTx x s).clock = s.clock := by
  unfold endTx
  dsimp only
  split
  · exact clock_headProcess _
  · split <;> rfl
  · rfl

end farm

/-! ### Table memory and the event unit -/

section tables

variable (s : State)

@[simp] theorem clock_digestBefore (r : TRef) : (digestBefore r s).clock = s.clock := by
  unfold digestBefore
  split_ifs
  · exact clock_touch ..
  · rfl
  · rfl

@[simp] theorem clock_storeShadow (r : TRef) (v : Word) : (storeShadow r v s).clock = s.clock := clock_digestBefore s r

@[simp] theorem clock_storeGate (v : Word) : (storeGate v s).clock = s.clock := clock_updTables ..

@[simp] theorem clock_enableKind (v : Word) (i : Fin 15) : (enableKind v s i).clock = s.clock := by
  unfold enableKind
  dsimp only
  split
  · exact clock_newPending _
  · rfl

@[simp] theorem clock_storeEnable (v : Word) : (storeEnable v s).clock = s.clock := clock_foldl (clock_enableKind · v) ..

@[simp] theorem clock_storeKeep (b : Fin 2) (v : Word) : (storeKeep b v s).clock = s.clock := rfl

@[simp] theorem clock_storePlace (v : Word) (p : Place) : (storePlace v p s).1.clock = s.clock := by
  unfold storePlace
  split
  · exact clock_storeShadow ..
  · exact clock_storeShadow ..
  · exact clock_storeShadow ..
  · exact clock_storeGate ..
  · rfl
  · rfl
  · rfl
  · rfl
  · rfl
  · exact clock_storeEnable ..
  · rfl
  · rfl

theorem clock_feedWords (as : List Nat) (acc : State × Nat × Bool) : (as.foldl feedWord acc).1.clock = acc.1.clock := by
  induction as generalizing acc with
  | nil => rfl
  | cons a as ih =>
    refine (ih (feedWord acc a)).trans ?_
    unfold feedWord
    dsimp only
    split
    · exact clock_touch ..
    · rfl

@[simp] theorem clock_endDigest (st : DigestState) (w : Word) (d : Bool) : (endDigest st w d s).clock = s.clock := clock_raiseEvent ..

@[simp] theorem clock_digestEnds : (digestEnds s).clock = s.clock := by
  have fed : (feedAll s).1.clock = s.clock := clock_feedWords _ (s, crc32Init, false)
  unfold digestEnds
  dsimp only
  split
  · exact (clock_endDigest ..).trans fed
  · exact (clock_endDigest ..).trans fed

@[simp] theorem clock_memoryError (r : TRef) (two : Bool) : (memoryError r two s).clock = s.clock := by
  unfold memoryError
  dsimp only
  split <;> rfl

@[simp] theorem clock_intervalEnd : (intervalEnd s).clock = s.clock := by
  unfold intervalEnd
  dsimp only
  split
  · exact (clock_sendNotice _).trans (clock_touchGroup ..)
  · exact clock_touchGroup ..

end tables

/-! ### Requests -/

section requests

variable (o : Origin) (r : Request) (s : State)

@[simp] theorem clock_meetPlace (p : Place) : (meetPlace p s).clock = s.clock := by
  unfold meetPlace
  split
  · exact clock_useWord ..
  · rfl

@[simp] theorem clock_gateWrite (as : List Nat) : (gateWrite o as s).1.clock = s.clock := by
  unfold gateWrite
  dsimp only
  split
  · rfl
  · split
    · exact clock_useWord ..
    · rfl

@[simp] theorem clock_gateFlagTest (i : Nat) : (gateFlagTest o i s).1.clock = s.clock := by
  unfold gateFlagTest
  split
  · rfl
  · exact clock_useWord ..

@[simp] theorem clock_answerVacant (n : Nat) : (answerVacant o r n s).state.clock = s.clock := clock_raiseEvent ..

/-- The words of a block leave the clock alone one after another. -/
theorem clock_outcomes {α : Type} {f : Outcome → α → Outcome} (hf : ∀ x a, (f x a).state.clock = x.state.clock) (l : List α)
    (x : Outcome) : (l.foldl f x).state.clock = x.state.clock := by
  induction l generalizing x with
  | nil => rfl
  | cons a l ih => exact (ih (f x a)).trans (hf x a)

theorem clock_runRead : (runRead o r s).state.clock = s.clock := by
  unfold runRead
  split_ifs
  · rfl
  · exact clock_answerVacant ..
  · exact clock_outcomes (fun x a => clock_meetPlace x.state (placeAt a)) _ { state := s, status := .ok, data := [] }

theorem clock_runWrite : (runWrite o r s).state.clock = s.clock := by
  unfold runWrite
  dsimp only
  split_ifs
  · rfl
  · exact clock_answerVacant ..
  · exact clock_gateWrite ..
  · exact (clock_outcomes (fun x a => clock_storePlace x.state a.2 (placeAt a.1)) _ _).trans (clock_gateWrite ..)

theorem clock_runOneWord (n : Nat) (f : NewWord) : (runOneWord n f o r s).state.clock = s.clock := by
  have met := (clock_meetPlace (gateWrite o [r.addr.toNat] s).1 (placeOf r.addr)).trans (clock_gateWrite o s _)
  unfold runOneWord
  dsimp only
  split
  · rfl
  split
  · exact clock_answerVacant ..
  split
  · exact clock_gateWrite ..
  split
  · exact met
  split
  · exact met
  split
  · exact met
  · exact (clock_storePlace ..).trans met

theorem clock_runCommit : (runCommit o r s).state.clock = s.clock := by
  unfold runCommit
  dsimp only
  split_ifs
  · rfl
  · exact clock_gateFlagTest ..
  · exact clock_gateFlagTest ..
  · exact (clock_epochTest _).trans (clock_gateFlagTest ..)

theorem clock_runDigest : (runDigest r s).state.clock = s.clock := by
  unfold runDigest
  dsimp only
  split_ifs <;> rfl

theorem clock_runEventNext : (runEventNext r s).state.clock = s.clock := by
  unfold runEventNext
  dsimp only
  split
  · rfl
  · split <;> rfl

theorem clock_runEventClear : (runEventClear r s).state.clock = s.clock := by
  unfold runEventClear
  split <;> rfl

theorem clock_runPairRestart : (runPairRestart o r s).state.clock = s.clock := by
  unfold runPairRestart
  dsimp only
  split_ifs
  · rfl
  · exact clock_gateFlagTest ..
  · exact (clock_restartPair ..).trans (clock_gateFlagTest ..)
  · rfl

theorem clock_runRestart (k : RestartKind) (flag : Nat) (n : Option Nat) : (runRestart k flag o n r s).state.clock = s.clock := by
  unfold runRestart
  dsimp only
  split_ifs
  · rfl
  · exact clock_gateFlagTest ..
  · exact clock_gateFlagTest ..

theorem clock_runBoxPost : (runBoxPost o r s).state.clock = s.clock := by
  unfold runBoxPost
  split
  · rfl
  · split
    · rfl
    · split_ifs
      · rfl
      · rfl
      · exact clock_raiseEvent ..

theorem clock_runBoxTake : (runBoxTake o r s).state.clock = s.clock := by
  unfold runBoxTake
  dsimp only
  split
  · rfl
  · split
    · rfl
    · split_ifs <;> rfl

theorem clock_runBoxRelease : (runBoxRelease o r s).state.clock = s.clock := by
  unfold runBoxRelease
  dsimp only
  split
  · rfl
  · split
    · rfl
    · split_ifs <;> rfl

theorem clock_runKind (k : ReqKind) (n : Option Nat) : (runKind k o n r s).state.clock = s.clock := by
  cases k with
  | read => exact clock_runRead o r s
  | write | writePosted => exact clock_runWrite o r s
  | maskWrite | maskWritePosted | swapIf | addSat | addSatPosted => exact clock_runOneWord o r s _ _
  | commit => exact clock_runCommit o r s
  | digest => exact clock_runDigest r s
  | eventNext => exact clock_runEventNext r s
  | eventClear => exact clock_runEventClear r s
  | pairRestart => exact clock_runPairRestart o r s
  | groupRestart | partReset => exact clock_runRestart o r s _ _ n
  | boxPost => exact clock_runBoxPost o r s
  | boxTake => exact clock_runBoxTake o r s
  | boxRelease => exact clock_runBoxRelease o r s

theorem clock_postedEnds (x : Outcome) : (postedEnds r x).clock = x.state.clock := by
  unfold postedEnds
  split
  · rfl
  · exact clock_raiseEvent ..

@[simp] theorem clock_request (k : ReqKind) (n : Option Nat) : (request k o n r s).1.clock = s.clock := by
  have ran := clock_runKind o r s k n
  unfold request
  dsimp only
  split
  · exact (clock_settleOwed _).trans ((clock_postedEnds r _).trans ran)
  · exact (clock_settleOwed _).trans ran

end requests

/-! ### Control frames -/

section frames

variable (s : State)

theorem clock_frameRequests (o : Origin) (n : Option Nat) (rs : List Request) (acc : State × List Record) :
    (rs.foldl (frameRequest o n) acc).1.clock = acc.1.clock := by
  induction rs generalizing acc with
  | nil => rfl
  | cons r rs ih =>
    refine (ih (frameRequest o n acc r)).trans ?_
    unfold frameRequest
    split
    · rfl
    · exact clock_request ..

@[simp] theorem clock_handOn (o : Origin) (b : List Byte) (n : Nat) : (handOn o b n s).clock = s.clock := by
  unfold handOn
  dsimp only
  split
  · rfl
  · split
    · exact clock_admitInternal ..
    · exact clock_admitInternal ..

@[simp] theorem clock_respond (f : CtlFrame) (st : Status) (rs : List Record) : (respond f st rs s).clock = s.clock := by
  unfold respond
  dsimp only
  rw [clock_updCtl, clock_handOn, clock_updCtl, clock_touchGroup, clock_touchGroup]

@[simp] theorem clock_executeFrame (f : CtlFrame) : (executeFrame f s).clock = s.clock := by
  unfold executeFrame
  dsimp only
  split
  · exact clock_respond ..
  · exact (clock_respond ..).trans (clock_frameRequests ..)

end frames

/-! ### Commits and the group restart -/

section blocks

variable (s : State)

@[simp] theorem clock_commitCopy : (commitCopy s).clock = s.clock := by
  have reads : ∀ (x : State) (i : Fin 19), (restartBoundReads x i).clock = x.clock := fun x i => by
    unfold restartBoundReads
    dsimp only
    split
    · exact (clock_touch ..).trans (clock_touch ..)
    · exact clock_touch ..
  unfold commitCopy
  rw [clock_updTables, clock_touchAll, clock_foldl reads]

@[simp] theorem clock_commitDone : (commitDone s).clock = s.clock := clock_raiseEvent ..

@[simp] theorem clock_noticesAfterCommit (n : Nat) (l : Option Nat) : (noticesAfterCommit n l s).clock = s.clock :=
  (onlyReported_noticesAfterCommit n l s).clock

theorem clock_makeMove (keep : Bool) (p : PairIx) (m : CommitMove) : (makeMove keep p m s).clock = s.clock := by
  cases m with
  | stay | retrain | probation => rfl
  | activate => exact clock_toActive ..
  | drain => exact (clock_drainCheck ..).trans (clock_touchGroup ..)
  | off c => exact clock_depart ..

@[simp] theorem clock_touchMoves : (touchMoves s).clock = s.clock := by
  simp only [touchMoves, clock_touchGroup, clock_ite, clock_touchAll, ite_self]

@[simp] theorem clock_movePairs : (movePairs s).clock = s.clock := by
  unfold movePairs
  dsimp only
  rw [clock_foldl fun x (m : PairIx × CommitMove) => clock_makeMove x _ m.1 m.2, clock_touchMoves]

@[simp] theorem clock_guardsAfterCommit : (guardsAfterCommit s).clock = s.clock := by
  unfold guardsAfterCommit
  dsimp only
  rw [clock_foldl fun x p => clock_guardAfterCommit p x]
  split
  · exact clock_touchGroup ..
  · rfl

@[simp] theorem clock_reassemblerAfterCommit : (reassemblerAfterCommit s).clock = s.clock :=
  (reasWork_reassemblerAfterCommit s).settles.clock

@[simp] theorem clock_applyCommit : (applyCommit s).clock = s.clock := by
  unfold applyCommit
  dsimp only
  rw [clock_attempt, clock_reassemblerAfterCommit, clock_evaluateGroup, clock_guardsAfterCommit, clock_movePairs,
    clock_noticesAfterCommit, clock_commitDone, clock_commitCopy]

@[simp] theorem clock_clearDistributor : (clearDistributor s).clock = s.clock := (clearDistributor_spec s).1.clock

@[simp] theorem clock_flushClassifier : (flushClassifier s).clock = s.clock := (flushClassifier_spec s).1.clock

theorem clock_restartOne (p : PairIx) : (restartOne s p).clock = s.clock := by
  unfold restartOne
  dsimp only
  rw [clock_updPair]
  split
  · rfl
  · exact clock_toDown ..

@[simp] theorem clock_copyRestartBound (i : Fin 19) : (copyRestartBound i s).clock = s.clock := clock_touch ..

@[simp] theorem clock_groupRestartNow : (groupRestartNow s).clock = s.clock := by
  unfold groupRestartNow raiseGroupDown
  dsimp only
  rw [clock_raiseEvent, clock_touchGroup, clock_copyRestartBound, clock_copyRestartBound, clock_updReas, clock_updDist,
    clock_flushClassifier, clock_clearDistributor, clock_setGroup, clock_foldl clock_restartOne]

end blocks

end Sys2Proof.Machine
end

section
/-! PROOFS of the family 07, third layer: every command but the reset pin's moves the local time base to its own moment or leaves
it where it is, and none touches the queue (log entry 1, R127). Settles O9. -/

namespace Sys2Proof.Machine

/-! ### Commands at their moment -/

/-- Any next state of an outcome has the time base at the moment `tm`, or later where `s` was later, and the queue of `s`. -/
def EndsAt (tm : Nat) (s : State) (o : Host.Outcome State Fault Refusal) : Prop :=
  ∀ t, o = .next t → t.clock = (max s.now tm, s.pending)

/-- A command that works at its moment and ends with the distributor's work. -/
theorem endsAt_finish {tm : Nat} {s t : State} (h : t.clock = (s.atTime tm).clock) : EndsAt tm s (.next (finish t)) := by
  rintro _ ⟨⟩
  exact (clock_finish t).trans h

theorem endsAt_idle (tm : Nat) (s : State) : EndsAt tm s (.next (finish (s.atTime tm))) := endsAt_finish rfl

theorem endsAt_ite {tm : Nat} {s : State} {x y : Host.Outcome State Fault Refusal} {b : Prop} [Decidable b] (hx : EndsAt tm s x)
    (hy : EndsAt tm s y) : EndsAt tm s (if b then x else y) := by
  split
  · exact hx
  · exact hy

/-- A command that works where it is due, and lets time pass elsewhere. -/
theorem endsAt_due {tm : Nat} {s t : State} {b : Prop} [Decidable b] (h : t.clock = (s.atTime tm).clock) :
    EndsAt tm s (if b then .next (finish t) else .next (finish (s.atTime tm))) := endsAt_ite (endsAt_finish h) (endsAt_idle tm s)

theorem endsAt_single (k : ReqKind) (tm : Nat) (o : Origin) (tag : Byte) (a : Word) (n : Nat) (data : List Byte) (s : State) :
    EndsAt tm s (.next (single k tm o tag a n data s)) := endsAt_finish (clock_request ..)

/-- A word of the group record read where a command's condition needs it. -/
theorem clock_readFor (b : Bool) (i : Fin 19) (x : State) : (if b then useGroup i x else x).clock = x.clock := by
  split
  · exact clock_useGroup ..
  · rfl

section pairs

variable (tm : Nat) (p : PairIx) (s : State)

theorem endsAt_trainStart : EndsAt tm s (execTrainStart tm p s) := by
  unfold execTrainStart
  dsimp only
  split
  · exact endsAt_idle tm s
  · exact endsAt_idle tm s
  · exact endsAt_finish (clock_pairChanged _)
  · exact endsAt_finish (clock_lose ..)

theorem endsAt_up (u d : Nat) : EndsAt tm s (execUp tm p u d s) := by
  unfold execUp
  dsimp only
  split
  · exact endsAt_idle tm s
  · exact endsAt_finish (clock_enterService ..)
  · exact endsAt_finish (clock_enterService ..)
  · exact endsAt_finish (clock_takeRate ..)

theorem endsAt_down : EndsAt tm s (execDown tm p s) := by
  unfold execDown
  dsimp only
  split
  · exact endsAt_idle tm s
  · exact endsAt_idle tm s
  · exact endsAt_finish (clock_lose ..)

theorem endsAt_ready : EndsAt tm s (execReady tm p s) := by
  unfold execReady
  dsimp only
  split_ifs
  · exact endsAt_finish ((clock_handOut ..).trans (clock_touchHandOff ..))
  · exact endsAt_finish (clock_touchHandOff ..)
  · exact endsAt_idle tm s

theorem endsAt_silence : EndsAt tm s (execSilence tm p s) := by
  unfold execSilence
  exact endsAt_ite (endsAt_finish ((clock_lose ..).trans (clock_readFor ..))) (endsAt_finish (clock_readFor ..))

theorem endsAt_replayTimeout : EndsAt tm s (execReplayTimeout tm p s) := by
  unfold execReplayTimeout
  dsimp only
  split
  · exact endsAt_finish ((clock_attempt _).trans (clock_readFor ..))
  · exact endsAt_finish (clock_readFor ..)

theorem endsAt_guardWindowOpen : EndsAt tm s (execGuardWindowOpen tm p s) := by
  unfold execGuardWindowOpen
  dsimp only
  split
  · exact endsAt_finish ((clock_attempt _).trans (clock_readFor ..))
  · exact endsAt_finish (clock_readFor ..)

theorem endsAt_guardWindowEnd : EndsAt tm s (execGuardWindowEnd tm p s) := by
  unfold execGuardWindowEnd
  dsimp only
  split
  · exact endsAt_finish ((clock_attempt _).trans (clock_closeWindow ..))
  · exact endsAt_idle tm s

end pairs

section blocks

variable (tm : Nat) (s : State)

theorem endsAt_farmFrameEnd : EndsAt tm s (execFarmFrameEnd tm s) := by
  unfold execFarmFrameEnd
  dsimp only
  split
  · exact endsAt_finish (clock_frameEnd ..)
  · exact endsAt_idle tm s

theorem endsAt_farmTransmitStart : EndsAt tm s (execFarmTransmitStart tm s) := by
  unfold execFarmTransmitStart
  dsimp only
  split
  · exact endsAt_finish (clock_beginTx ..)
  · exact endsAt_idle tm s

theorem endsAt_farmTransmitEnd : EndsAt tm s (execFarmTransmitEnd tm s) := by
  unfold execFarmTransmitEnd
  dsimp only
  split
  · exact endsAt_finish (clock_endTx ..)
  · exact endsAt_idle tm s

theorem endsAt_resyncDeadline : EndsAt tm s (execResyncDeadline tm s) := by
  unfold execResyncDeadline
  dsimp only
  split
  · exact endsAt_finish (clock_resyncNow ..)
  · exact endsAt_idle tm s

theorem endsAt_controlFrameExecute : EndsAt tm s (execControlFrameExecute tm s) := by
  unfold execControlFrameExecute
  dsimp only
  split
  · exact endsAt_finish (clock_executeFrame ..)
  · exact endsAt_idle tm s

theorem endsAt_shadowTableWrite (a v : Word) : EndsAt tm s (execShadowTableWrite tm a v s) := by
  unfold execShadowTableWrite
  dsimp only
  split
  · exact endsAt_finish (clock_storeShadow ..)
  · exact endsAt_finish (clock_storeShadow ..)
  · exact endsAt_finish (clock_storeShadow ..)
  · exact endsAt_idle tm s

theorem endsAt_tableMemoryError (a : Word) (two : Bool) : EndsAt tm s (execTableMemoryError tm a two s) := by
  unfold execTableMemoryError
  dsimp only
  split
  · exact endsAt_finish (clock_memoryError ..)
  · exact endsAt_idle tm s

/-- A part reset keeps the time base counting (R127). -/
theorem endsAt_partResetEffect (straps : BitVec 5) : EndsAt tm s (execPartResetEffect tm straps s) := by
  unfold execPartResetEffect
  dsimp only
  split
  · rintro _ ⟨⟩
    rfl
  · exact endsAt_idle tm s

end blocks

/-! ### Every command -/

/-- Every command but POWER_UP_RESET ends at its moment, with the queue as it was. -/
theorem endsAt_exec (c : Instr) (s : State) (notPin : ∀ straps, c ≠ .powerUpReset straps) : EndsAt (timeOf c) s (exec c s) := by
  cases c with
  | powerUpReset straps => exact absurd rfl (notPin straps)
  | trainStart tm p => exact endsAt_trainStart tm p s
  | up tm p u d => exact endsAt_up tm p s u d
  | rate tm p u d => exact endsAt_due (clock_takeRate ..)
  | down tm p => exact endsAt_down tm p s
  | ready tm p => exact endsAt_ready tm p s
  | received tm p bytes => exact endsAt_due (clock_receive ..)
  | probationTimeExpiry tm p => exact endsAt_finish (clock_examine ..)
  | silence tm p => exact endsAt_silence tm p s
  | replayTimeout tm p => exact endsAt_replayTimeout tm p s
  | drainLimit tm p => exact endsAt_due ((clock_pairChanged _).trans (clock_toOff ..))
  | guardWindowOpen tm p => exact endsAt_guardWindowOpen tm p s
  | guardWindowEnd tm p => exact endsAt_guardWindowEnd tm p s
  | farmByteArrival tm b => exact endsAt_finish (clock_farmByte ..)
  | farmFrameEnd tm => exact endsAt_farmFrameEnd tm s
  | pauseEnd tm => exact endsAt_due rfl
  | farmTransmitStart tm => exact endsAt_farmTransmitStart tm s
  | farmTransmitEnd tm => exact endsAt_farmTransmitEnd tm s
  | rerouteAgeLimit tm => exact endsAt_due (clock_attempt _)
  | holdDeadline tm => exact endsAt_due ((clock_testsN ..).trans (clock_declareGap ..))
  | resyncDeadline tm => exact endsAt_resyncDeadline tm s
  | suspensionEnd tm => exact endsAt_due (clock_testShortcut _)
  | commitApply tm => exact endsAt_due (clock_applyCommit _)
  | digestDone tm => exact endsAt_due (clock_digestEnds _)
  | controlFrameExecute tm => exact endsAt_controlFrameExecute tm s
  | read | write | writePosted | maskWrite | maskWritePosted | swapIf | addSat | addSatPosted | commit | digest | eventNext
  | eventClear | pairRestart | groupRestart | partReset | boxPost | boxTake | boxRelease => exact endsAt_single _ _ _ _ _ _ _ s
  | shadowTableWrite tm a v => exact endsAt_shadowTableWrite tm s a v
  | gateRecordWrite tm v => exact endsAt_finish (clock_storeGate ..)
  | eccStatusWrite tm second v => exact endsAt_finish (clock_storePlace ..)
  | eventEnableWrite tm v => exact endsAt_finish (clock_storeEnable ..)
  | keepFlagWrite tm b v => exact endsAt_finish (clock_storeKeep ..)
  | counterWrite tm a v => exact endsAt_finish (clock_storePlace ..)
  | groupRestartEffect tm => exact endsAt_due (clock_groupRestartNow _)
  | partResetEffect tm straps => exact endsAt_partResetEffect tm s straps
  | noticeIntervalEnd tm => exact endsAt_due (clock_intervalEnd _)
  | tableMemoryError tm a two => exact endsAt_tableMemoryError tm s a two

/-- Settles O9: the reset pin starts the time base afresh, and every other command ends at its moment (`endsAt_exec`). -/
theorem timeNeverRunsBack : Obligations.TimeNeverRunsBack := by
  intro c s t run
  split
  · cases run
    exact ⟨rfl, rfl⟩
  · next notPin =>
    obtain ⟨now, pending⟩ := Prod.ext_iff.mp (endsAt_exec c s notPin t run)
    exact ⟨pending, now⟩

end Sys2Proof.Machine
end

section
/-! PROOFS of the family 08, first layer: the place and the region of each word of table memory, what bookkeeping leaves of it, and
what ends a command that finds the distributor idle (R135, R166). Settles O60. -/

namespace Sys2Proof.Machine

/-! ### The addresses of table words -/

theorem groupPlace_word (c : Copy) (i : Fin 19) : groupPlace c i.val = .table (.group c i) := by
  have hi : finOf 19 i.val = i := Fin.ofNat_val_eq_self i
  rw [groupPlace, if_pos i.isLt, hi]

theorem pairPlace_word (c : Copy) (p : PairIx) (j : Fin 2) : pairPlace c (4 * p.val + j.val) = .table (.pair c p j) := by
  have hp : finOf 8 ((4 * p.val + j.val) / 4) = p := by
    rw [show (4 * p.val + j.val) / 4 = p.val by omega]
    exact Fin.ofNat_val_eq_self p
  have hj : finOf 2 ((4 * p.val + j.val) % 4) = j := by
    rw [show (4 * p.val + j.val) % 4 = j.val by omega]
    exact Fin.ofNat_val_eq_self j
  rw [pairPlace, if_pos (by omega), hp, hj]

theorem clsPlace_word (c : Copy) (i : Fin 64) (j : Fin 2) : clsPlace c (4 * i.val + j.val) = .table (.cls c i j) := by
  have hi : finOf 64 ((4 * i.val + j.val) / 4) = i := by
    rw [show (4 * i.val + j.val) / 4 = i.val by omega]
    exact Fin.ofNat_val_eq_self i
  have hj : finOf 2 ((4 * i.val + j.val) % 4) = j := by
    rw [show (4 * i.val + j.val) % 4 = j.val by omega]
    exact Fin.ofNat_val_eq_self j
  rw [clsPlace, if_pos (by omega), hi, hj]

/-- The region of each word of table memory (spec/11). -/
def TRef.region : TRef → Nat × Nat
  | .group .shadow _ => (0x0100, 0x011F)
  | .group .active _ => (0x0180, 0x019F)
  | .pair .shadow _ _ => (0x0200, 0x021F)
  | .pair .active _ _ => (0x0280, 0x029F)
  | .cls .shadow _ _ => (0x0400, 0x04FF)
  | .cls .active _ _ => (0x0500, 0x05FF)
  | .gate => (0x0E00, 0x0E0F)

theorem TRef.region_mem (r : TRef) : r.region ∈ regions := by
  rcases r with ⟨_ | _, _⟩ | ⟨_ | _, _, _⟩ | ⟨_ | _, _, _⟩ | _ <;> simp [TRef.region, regions]

theorem TRef.addr_mem_region (r : TRef) : r.region.1 ≤ r.addr ∧ r.addr ≤ r.region.2 := by
  rcases r with ⟨_ | _, i⟩ | ⟨_ | _, p, j⟩ | ⟨_ | _, i, j⟩ | _ <;> simp only [TRef.region, TRef.addr] <;> omega

/-- The word at the address of a word of table memory is that word (spec/11). -/
theorem placeAt_addr (r : TRef) : placeAt r.addr = .table r := by
  have inRegion := r.addr_mem_region
  rcases r with ⟨_ | _, i⟩ | ⟨_ | _, p, j⟩ | ⟨_ | _, i, j⟩ | _
  case gate => rfl
  all_goals
    simp only [TRef.region, TRef.addr] at inRegion ⊢
    simp (disch := omega) only [placeAt, if_pos, if_neg, Nat.add_assoc, Nat.add_sub_cancel_left, groupPlace_word, pairPlace_word,
      clsPlace_word]

theorem toNat_asWord_addr (r : TRef) : (asWord r.addr).toNat = r.addr := by
  have inRegion := r.addr_mem_region
  have last : ∀ q ∈ regions, q.2 < 4294967296 := by decide
  have := last _ r.region_mem
  exact Nat.mod_eq_of_lt (show r.addr < 2 ^ 32 by omega)

theorem placeOf_addr (r : TRef) : placeOf (asWord r.addr) = .table r := by
  have inRegion := r.addr_mem_region
  have last : ∀ q ∈ regions, q.2 < 65536 := by decide
  have := last _ r.region_mem
  rw [placeOf, toNat_asWord_addr, if_pos (by omega), placeAt_addr]

/-- A block of one word in a region covers that word alone (R147). -/
theorem blockAddrs_one {a : Nat} {q : Nat × Nat} (hq : q ∈ regions) (ha : q.1 ≤ a ∧ a ≤ q.2) : blockAddrs a 1 = [a] := by
  unfold blockAddrs
  cases found : regionOf a with
  | none =>
    have out := List.find?_eq_none.mp found q hq
    simp [ha] at out
  | some r =>
    have inside := List.find?_some found
    simp only [Bool.and_eq_true, decide_eq_true_eq] at inside
    have first : r.1 + (a - r.1) % (r.2 - r.1 + 1) = a := by
      rw [Nat.mod_eq_of_lt (by omega)]
      omega
    simp [first]

theorem blockAddrs_addr (r : TRef) : blockAddrs (asWord r.addr).toNat 1 = [r.addr] := by
  rw [toNat_asWord_addr]
  exact blockAddrs_one r.region_mem r.addr_mem_region

/-! ### Bookkeeping of table memory -/

/-- The commit, error and digest records hold no word of table memory. -/
theorem TableStore.get_records (t : TableStore) (b : Bool) (n c u : BitVec 16) (l f : Option Nat) (d : DigestRec) (r : TRef) :
    ({ t with commitPending := b, commitCount := n, corrected := c, uncorrectable := u, lastCorrected := l
              firstUncorrectable := f, digest := d } : TableStore).get r = t.get r := by
  rcases r with ⟨_ | _, _⟩ | ⟨_ | _, _, _⟩ | ⟨_ | _, _, _⟩ | _ <;> rfl

theorem TableStore.Sound.records {t : TableStore} (h : t.Sound) (b : Bool) (n c u : BitVec 16) (l f : Option Nat) (d : DigestRec) :
    ({ t with commitPending := b, commitCount := n, corrected := c, uncorrectable := u, lastCorrected := l
              firstUncorrectable := f, digest := d } : TableStore).Sound where
  words r := by rw [TableStore.get_records]; exact h.words r
  group := h.group
  pairs := h.pairs
  cls := h.cls
  gate := h.gate

/-- Putting a word leaves the damage marks of groups and pairs alone. -/
theorem TableStore.marks_put (t : TableStore) (r : TRef) (w : TWord) :
    (t.put r w).groupDamaged = t.groupDamaged ∧ (t.put r w).pairDamaged = t.pairDamaged := by
  rcases r with ⟨_ | _, _⟩ | ⟨_ | _, _, _⟩ | ⟨_ | _, _, _⟩ | _ <;> exact ⟨rfl, rfl⟩

/-! ### The end of a command that leaves nothing to do -/

/-- With the class queues empty the distributor takes no frame (R66). -/
theorem takeFrame_empty {s : State} (empty : ∀ c, s.queue c = []) : takeFrame s = s := by
  have offer : ∀ c, touchOffer s c = s := fun c => by unfold touchOffer; rw [empty c]
  have noOffer : ∀ c, offers s c = false := fun c => by unfold offers; rw [empty c]
  unfold takeFrame
  split
  · simp only [List.foldl_cons, List.foldl_nil, offer, List.find?_cons, noOffer, List.find?_nil]
  · rfl

/-- A distributor without a frame does nothing at the end of a command. -/
theorem serve_empty {s : State} (empty : ∀ c, s.queue c = []) (idle : s.dist.fip = none) : serve s = s := by
  have noCut : s.cutDue = none := by unfold State.cutDue; rw [idle]
  have cut : cutNext s = (s, false) := by
    unfold cutNext
    simp only [takeFrame_empty empty, idle]
  unfold serve
  simp [cut, State.waitsForSlot, noCut]

/-- With no damage owed, and the group DOWN or its distributor without a frame, a command ends as it is. -/
theorem finish_idle {s : State} (owes : s.damageOwed = false)
    (idle : s.groupUp = false ∨ ((∀ c, s.queue c = []) ∧ s.dist.fip = none)) : finish s = s := by
  have settled : settleOwed s = s := by unfold settleOwed; rw [owes]; rfl
  have served : serve s = s := idle.elim serve_down fun ⟨empty, noFrame⟩ => serve_empty empty noFrame
  unfold finish
  rw [settled, served, settled]

/-- The damage owed depends on the marks, the group state and the pairs alone. -/
theorem damageOwed_congr {s t : State} (group : t.tables.groupDamaged = s.tables.groupDamaged)
    (pairs : t.tables.pairDamaged = s.tables.pairDamaged) (up : t.groupUp = s.groupUp) (ports : t.pairs = s.pairs) :
    t.damageOwed = s.damageOwed := by
  have port : ∀ p, t.pair p = s.pair p := State.pair_congr ports
  unfold State.damageOwed
  simp only [group, pairs, up, port]

/-! ### Errors of table memory -/

/-- A word of table memory once it has taken wrong bits (R135). -/
def TableStore.damaged (t : TableStore) (r : TRef) (two : Bool) : TableStore :=
  if (t.get r).wrong = .two then t else
    t.put r { val := (t.get r).val, wrong := if (t.get r).wrong = .none ∧ two = false then .one else .two }

theorem WrongBits.worse_eq (w : WrongBits) (two : Bool) : w.worse two = if w = .none ∧ two = false then .one else .two := by
  cases w <;> cases two <;> rfl

theorem memoryError_eq (r : TRef) (two : Bool) (s : State) : memoryError r two s = s.updTables fun t => t.damaged r two := by
  unfold memoryError State.updTables TableStore.damaged
  dsimp only
  rw [WrongBits.worse_eq]
  split <;> rfl

theorem TableStore.get_damaged (t : TableStore) (r : TRef) (two : Bool) :
    (t.damaged r two).get r = { val := (t.get r).val, wrong := if (t.get r).wrong = .none ∧ two = false then .one else .two } := by
  unfold TableStore.damaged
  split
  · next h => rw [if_neg (by simp [h]), ← h]
  · exact t.get_put_same r _

theorem TableStore.get_damaged_ne (t : TableStore) {q r : TRef} (two : Bool) (h : q ≠ r) : (t.damaged r two).get q = t.get q := by
  unfold TableStore.damaged
  split
  · rfl
  · exact t.get_put_ne _ h

theorem TableStore.marks_damaged (t : TableStore) (r : TRef) (two : Bool) :
    (t.damaged r two).groupDamaged = t.groupDamaged ∧ (t.damaged r two).pairDamaged = t.pairDamaged := by
  unfold TableStore.damaged
  split
  · exact ⟨rfl, rfl⟩
  · exact t.marks_put r _

theorem exec_tableMemoryError (s : State) (tm : Nat) (r : TRef) (two : Bool) :
    exec (.tableMemoryError tm (asWord r.addr) two) s = .next (finish (memoryError r two (s.atTime tm))) := by
  change execTableMemoryError tm (asWord r.addr) two s = _
  unfold execTableMemoryError
  dsimp only
  rw [placeOf_addr]

/-- Settles O60: the word alone takes the wrong bits, which neither marks a unit nor gives the distributor work. -/
theorem memoryErrorsTaken : Obligations.MemoryErrorsTaken := by
  intro s x tm r two hx
  replace hx : x = (s.atTime tm).updTables fun t => t.damaged r two := hx
  subst hx
  obtain ⟨group, pairs⟩ := s.tables.marks_damaged r two
  refine ⟨?_, fun owes idle => finish_idle ?_ idle, s.tables.get_damaged r two, fun q hq => s.tables.get_damaged_ne two hq⟩
  · rw [exec_tableMemoryError, memoryError_eq]
  · exact (damageOwed_congr (t := (s.atTime tm).updTables fun t => t.damaged r two) group pairs rfl rfl).trans owes

end Sys2Proof.Machine
end

section
/-! PROOFS of the family 08: stores into shadow words and the requests of one word, on sound table memory (R130, R140, R147..R153).
Settles O49. -/

namespace Sys2Proof.Machine

variable {s : State}

/-! ### Stores into a shadow word -/

/-- A store into a shadow word of sound table memory finds nothing, and a running digest notes it (R130, R140). -/
theorem storeShadow_sound (h : s.tables.Sound) (r : TRef) (v : Word) :
    storeShadow r v s = s.updTables fun t =>
      { t.store r (clampTable r v) with digest := t.digest.noteWrite r.addr (decide ((t.get r).val ≠ clampTable r v)) } := by
  have before : digestBefore r s = s := by
    unfold digestBefore
    simp [h.words r]
  unfold storeShadow
  rw [before, word_sound h]
  rfl

theorem storeShadow_keeps_sound (h : s.tables.Sound) (r : TRef) (v : Word) : (storeShadow r v s).tables.Sound := by
  rw [storeShadow_sound h]
  exact (h.store r (clampTable r v)).records ..

theorem storePlace_shadow {r : TRef} (hr : r.isShadow = true) (v : Word) (s : State) :
    storePlace v (.table r) s = (storeShadow r v s, true) := by
  rcases r with ⟨_ | _, _⟩ | ⟨_ | _, _, _⟩ | ⟨_ | _, _, _⟩ | _
  case group.shadow | pair.shadow | cls.shadow => rfl
  all_goals cases hr

theorem readOnly_shadow {r : TRef} (hr : r.isShadow = true) : readOnly (.table r) = false := by
  rcases r with ⟨_ | _, _⟩ | ⟨_ | _, _, _⟩ | ⟨_ | _, _, _⟩ | _
  case group.shadow | pair.shadow | cls.shadow => rfl
  all_goals cases hr

/-! ### Requests taken as commands of their own -/

section single

variable {tm : Nat} {o : Origin} {tag : Byte} {addr : Word} {data : List Byte} {k : ReqKind} {len : Nat} {x : Outcome}
  (run : runKind k o none { code := k.code, tag := tag, len := len, addr := addr, data := data } (s.atTime tm) = x)
include run

/-- The record of an unposted request joins the answers, on any table memory (R145). -/
theorem single_answers (unposted : k.posted = false) :
    (single k tm o tag addr len data s).ctl.answers
      = x.state.ctl.answers ++ [{ code := k.code, tag := tag, status := x.status, data := x.data }] := by
  have settled := (settles_settleOwed x.state).answers
  unfold single request
  simp only [run, unposted, Bool.false_eq_true, if_false, (settles_finish _).answers, State.updCtl_ctl, settled]
  rfl

variable (sound : x.state.tables.Sound)
include sound

/-- An unposted request that leaves table memory sound: what it has done, its record, and the end of the command (R145). -/
theorem onlyPlaced_unposted (unposted : k.posted = false) :
    OnlyPlaced (x.state.answer { code := k.code, tag := tag, status := x.status, data := x.data })
      (single k tm o tag addr len data s) := by
  have ends : single k tm o tag addr len data s
      = finish (x.state.answer { code := k.code, tag := tag, status := x.status, data := x.data }) := by
    unfold single request
    simp only [run, unposted, Bool.false_eq_true, if_false, settleOwed_sound sound]
    rfl
  rw [ends]
  exact onlyPlaced_finish sound

/-- A posted request that succeeds and leaves table memory sound gives no record (R153). -/
theorem onlyPlaced_posted (posted : k.posted = true) (ok : x.status = .ok) :
    OnlyPlaced x.state (single k tm o tag addr len data s) := by
  have ends : single k tm o tag addr len data s = finish x.state := by
    unfold single request postedEnds
    simp only [run, posted, ok, if_true, settleOwed_sound sound, Option.toList_none, List.append_nil]
    rfl
  rw [ends]
  exact onlyPlaced_finish sound

end single

/-! ### Requests of one word -/

/-- The gate's test of a write of one word by an origin that may make it, on sound table memory (R149). -/
theorem gateWrite_allowed (h : s.tables.Sound) {o : Origin} {a : Nat} (allowed : o = .farm → s.gateAllows a = true) :
    gateWrite o [a] s = (s, true) := by
  cases o with
  | line => rfl
  | farm =>
    unfold gateWrite
    simp only [useWord_sound h, ite_self, List.all_cons, List.all_nil, allowed rfl, Bool.and_self]

theorem isVacant_addr {q : Request} {r : TRef} (addr : q.addr = asWord r.addr) : q.isVacant = false := by
  unfold Request.isVacant
  rw [addr, placeOf_addr]
  rfl

section oneWord

variable (h : s.tables.Sound) {r : TRef} (shadow : r.isShadow = true) {o : Origin} (allowed : o = .farm → s.gateAllows r.addr = true)
  {q : Request} (addr : q.addr = asWord r.addr)
include h shadow allowed addr

/-- A WRITE of one shadow word (R151). -/
theorem runWrite_shadow (len : q.len = 4) (four : q.data.length = 4) :
    runWrite o q s = { state := storeShadow r (be32 q.data 0) s, status := .ok, data := [] } := by
  obtain ⟨a, b, c, d, word⟩ := List.length_eq_four.mp four
  have block : blockLen 4 = true := rfl
  have covered : blockAddrs (asWord r.addr).toNat q.words = [r.addr] := by
    unfold Request.words
    rw [len]
    exact blockAddrs_addr r
  unfold runWrite
  simp only [len, block, isVacant_addr addr, addr, covered, gateWrite_allowed h allowed, word]
  simp only [bytesWords, List.zip_cons_cons, List.zip_nil_left, List.foldl_cons, List.foldl_nil, writeWord, placeAt_addr,
    storePlace_shadow shadow, Bool.not_true, Bool.false_eq_true, if_false, if_true]

/-- A read-modify-write request on one shadow word, whose new word `new` is none where its compare fails (R152). -/
theorem runOneWord_shadow {n : Nat} {f : NewWord} (len : q.len = n) (new : Option Word) : f (s.tables.get r).val = new →
    runOneWord n f o q s = match new with
      | none => { state := s, status := .compareFail, data := wordBytes (s.tables.get r).val }
      | some v => { state := storeShadow r v s, status := .ok, data := wordBytes (s.tables.get r).val } := by
  have met : meetPlace (.table r) s = s := useWord_sound h
  have word : s.placeWord? (.table r) = some (s.tables.get r).val := word_sound h
  intro gives
  unfold runOneWord
  cases new <;>
    simp only [len, isVacant_addr addr, addr, toNat_asWord_addr, placeOf_addr, gateWrite_allowed h allowed, met, word, gives,
      readOnly_shadow shadow, storePlace_shadow shadow, ne_eq, not_true, Bool.not_true, Bool.false_eq_true, if_false]

/-- MASK_WRITE merges its value into the word (R152). -/
theorem runMaskWrite_shadow (len : q.len = 8) :
    runMaskWrite o q s = { state := storeShadow r (mergeWord (be32 q.data 0) (be32 q.data 4) (s.tables.get r).val) s
                           status := .ok, data := wordBytes (s.tables.get r).val } :=
  runOneWord_shadow h shadow allowed addr len (some _) rfl

/-- ADD_SAT adds to the word (R152). -/
theorem runAddSat_shadow (len : q.len = 4) :
    runAddSat o q s = { state := storeShadow r (saturate32 ((s.tables.get r).val.toInt + (be32 q.data 0).toInt)) s
                        status := .ok, data := wordBytes (s.tables.get r).val } :=
  runOneWord_shadow h shadow allowed addr len (some _) rfl

/-- SWAP_IF stores where the word is the compare word (R152). -/
theorem runSwapIf_same (len : q.len = 8) (same : (s.tables.get r).val = be32 q.data 0) :
    runSwapIf o q s = { state := storeShadow r (be32 q.data 4) s, status := .ok, data := wordBytes (s.tables.get r).val } :=
  runOneWord_shadow h shadow allowed addr len (some _) (by exact if_pos same)

/-- SWAP_IF stores nothing where the word is another (R152). -/
theorem runSwapIf_other (len : q.len = 8) (other : (s.tables.get r).val ≠ be32 q.data 0) :
    runSwapIf o q s = { state := s, status := .compareFail, data := wordBytes (s.tables.get r).val } :=
  runOneWord_shadow h shadow allowed addr len none (by exact if_neg other)

end oneWord

/-- Settles O49: every kind of write is a store into the shadow word, recorded or not, and then the end of the command. -/
theorem shadowWordWritten : Obligations.ShadowWordWritten := by
  intro s tm o tag r data h shadow allowed
  have now : (s.atTime tm).tables.Sound := h
  have stored (v : Word) : (storeShadow r v (s.atTime tm)).tables.Sound := storeShadow_keeps_sound now r v
  refine ⟨fun four => ⟨?_, ?_, ?_, ?_⟩, fun eight => ⟨?_, ?_, ?_⟩⟩
  · exact ⟨_, rfl, onlyPlaced_unposted (k := .write) (runWrite_shadow now shadow allowed rfl four four) (stored _) rfl⟩
  · exact ⟨_, rfl, onlyPlaced_posted (k := .writePosted) (runWrite_shadow now shadow allowed rfl four four) (stored _) rfl rfl⟩
  · exact ⟨_, rfl, onlyPlaced_unposted (k := .addSat) (runAddSat_shadow now shadow allowed rfl four) (stored _) rfl⟩
  · exact ⟨_, rfl, onlyPlaced_posted (k := .addSatPosted) (runAddSat_shadow now shadow allowed rfl four) (stored _) rfl rfl⟩
  · exact ⟨_, rfl, onlyPlaced_unposted (k := .maskWrite) (runMaskWrite_shadow now shadow allowed rfl eight) (stored _) rfl⟩
  · exact ⟨_, rfl, onlyPlaced_posted (k := .maskWritePosted) (runMaskWrite_shadow now shadow allowed rfl eight) (stored _) rfl rfl⟩
  · refine ⟨_, rfl, ?_⟩
    split
    · next same => exact onlyPlaced_unposted (k := .swapIf) (runSwapIf_same now shadow allowed rfl eight same) (stored _) rfl
    · next other => exact onlyPlaced_unposted (k := .swapIf) (runSwapIf_other now shadow allowed rfl eight other) now rfl

end Sys2Proof.Machine
end

section
/-! PROOFS of the family 08: the requests COMMIT and DIGEST, a digest's completion, and a READ of an uncorrectable word (R131, R136,
R139, R140, R150). Settles O22, O46 and O52. -/

namespace Sys2Proof.Machine

variable {s : State}

/-! ### COMMIT and DIGEST -/

section commit

variable (h : s.tables.Sound) {o : Origin} {q : Request} (allowed : o = .farm → s.gateFlag 4 = true) (len : q.len = 0)
include h allowed len

/-- A COMMIT with one pending is refused (R131). -/
theorem runCommit_busy (pending : s.tables.commitPending = true) : runCommit o q s = refuse .busy s := by
  unfold runCommit
  simp only [len, gateFlagTest_allowed h allowed, pending, ne_eq, not_true, Bool.not_true, Bool.false_eq_true, if_false, if_true]

/-- A COMMIT with none pending makes one pending (R131). -/
theorem runCommit_begins (none : s.tables.commitPending = false) :
    runCommit o q s = { state := s.updTables fun t => { t with commitPending := true }, status := .ok, data := [] } := by
  have pending : (s.updTables fun t => { t with commitPending := true }).tables.Sound := h.records ..
  unfold runCommit
  simp only [len, gateFlagTest_allowed h allowed, none, epochTest_sound pending, ne_eq, not_true, Bool.not_true, Bool.false_eq_true,
    if_false]

end commit

section digest

variable {q : Request} (len : q.len = 8)
include len

/-- A DIGEST whose range is empty or starts outside the shadow regions is refused (R139). -/
theorem runDigest_malformed (range : (be32 q.data 4).toNat < (be32 q.data 0).toNat ∨ inShadowRegion (be32 q.data 0).toNat = false) :
    runDigest q s = refuse .malformed s := by
  unfold runDigest
  simp only [len, range, ne_eq, not_true, if_false, if_true]

variable (range : ¬((be32 q.data 4).toNat < (be32 q.data 0).toNat ∨ inShadowRegion (be32 q.data 0).toNat = false))
include range

/-- A DIGEST while one is running is refused (R139). -/
theorem runDigest_busy (running : s.tables.digest.state = .running) : runDigest q s = refuse .busy s := by
  unfold runDigest
  simp only [len, range, running, ne_eq, not_true, if_false, if_true]

/-- A DIGEST begins (R139). -/
theorem runDigest_begins (free : s.tables.digest.state ≠ .running) :
    runDigest q s =
      { state := s.updTables fun t => { t with digest := DigestRec.begin (be32 q.data 0).toNat (be32 q.data 4).toNat s.now }
        status := .ok, data := [] } := by
  unfold runDigest
  simp only [len, range, free, ne_eq, not_true, if_false]

end digest

/-- Settles O52: each outcome is the request's own, and then the end of the command. -/
theorem commitAndDigestRequests : Obligations.CommitAndDigestRequests := by
  intro s tm o tag addr data h
  have now : (s.atTime tm).tables.Sound := h
  refine ⟨fun allowed => ⟨_, rfl, ?_⟩, fun eight => ⟨_, rfl, ?_⟩⟩
  · split
    · next pending => exact onlyPlaced_unposted (k := .commit) (runCommit_busy now allowed rfl pending) now rfl
    · next none =>
      exact onlyPlaced_unposted (k := .commit) (runCommit_begins now allowed rfl (Bool.eq_false_of_not_eq_true none)) (now.records ..) rfl
  · split
    · next malformed => exact onlyPlaced_unposted (k := .digest) (runDigest_malformed eight malformed) now rfl
    · next range =>
      split
      · next running => exact onlyPlaced_unposted (k := .digest) (runDigest_busy eight range running) now rfl
      · next free => exact onlyPlaced_unposted (k := .digest) (runDigest_begins eight range free) (now.records ..) rfl

/-! ### A digest's completion -/

/-- A shadow address is a word of table memory or not assigned (R129, R166). -/
theorem placeAt_shadow {a : Nat} (ha : inShadowRegion a = true) : (∃ r, placeAt a = .table r) ∨ placeAt a = .unassigned := by
  have assigned (b : Prop) [Decidable b] (r : TRef) (p : Place) (hp : p = if b then .table r else .unassigned) :
      (∃ r, p = .table r) ∨ p = .unassigned := by
    subst hp
    split
    · exact .inl ⟨_, rfl⟩
    · exact .inr rfl
  have group (k : Nat) := assigned _ _ (groupPlace .shadow k) rfl
  have pair (k : Nat) := assigned _ _ (pairPlace .shadow k) rfl
  have cls (k : Nat) := assigned _ _ (clsPlace .shadow k) rfl
  simp only [inShadowRegion, Bool.or_eq_true, Bool.and_eq_true, decide_eq_true_eq] at ha
  obtain (inGroup | inPairs) | inClasses := ha
  · simp (disch := omega) only [placeAt, if_pos, if_neg, group]
  · simp (disch := omega) only [placeAt, if_pos, if_neg, pair]
  · simp (disch := omega) only [placeAt, if_pos, if_neg, cls]

/-- A word of a digest's range feeds the value that a READ shows, on sound table memory (R140). -/
theorem feedWord_sound (h : s.tables.Sound) {a : Nat} (ha : inShadowRegion a = true) (c : Nat) (d : Bool) :
    feedWord (s, c, d) a = (s, (wordBytes (s.statusWord (placeAt a))).foldl crc32Byte c, d) := by
  unfold feedWord
  obtain ⟨r, place⟩ | place := placeAt_shadow ha
  · simp only [place, word_sound h, touch_sound h, Option.getD_some, Option.isNone_some, Bool.or_false, State.statusWord]
  · simp only [place, State.statusWord]

theorem foldl_feedWord_sound (h : s.tables.Sound) (d : Bool) :
    ∀ (as : List Nat) (c : Nat), (∀ a ∈ as, inShadowRegion a = true) →
      as.foldl feedWord (s, c, d) = (s, (as.flatMap fun a => wordBytes (s.statusWord (placeAt a))).foldl crc32Byte c, d)
  | [], _, _ => rfl
  | a :: as, c, shadow => by
    obtain ⟨first, rest⟩ := List.forall_mem_cons.mp shadow
    rw [List.foldl_cons, feedWord_sound h first, foldl_feedWord_sound h d as _ rest, List.flatMap_cons, List.foldl_append]

/-- The word at a shadow address depends on table memory alone. -/
theorem statusWord_shadow {t : State} (tables : t.tables = s.tables) {a : Nat} (ha : inShadowRegion a = true) :
    t.statusWord (placeAt a) = s.statusWord (placeAt a) := by
  obtain ⟨r, place⟩ | place := placeAt_shadow ha
  · simp only [place, State.statusWord, tables]
  · simp only [place, State.statusWord]

/-- The CRC-32 of the words of a running digest's range, as they stand (R140). -/
def State.digestSum (s : State) : Word :=
  crc32 ((shadowRange s.tables.digest.start s.tables.digest.last).flatMap fun a => wordBytes (s.statusWord (placeAt a)))

theorem digestSum_congr {t : State} (tables : t.tables = s.tables) : t.digestSum = s.digestSum := by
  unfold State.digestSum
  rw [tables]
  exact congrArg crc32 (List.flatMap_congr fun a ha => congrArg wordBytes (statusWord_shadow tables (List.mem_filter.mp ha).2))

/-- The outcome of a running digest: STALE where a write has landed in its range (R140). -/
def DigestRec.outcome (d : DigestRec) : DigestState := if d.altered ∨ d.touched then .stale else .done

theorem DigestRec.code_outcome (d : DigestRec) : d.outcome.code = if d.outcome = .stale then 3 else 2 := by
  unfold DigestRec.outcome
  split <;> rfl

/-- `t` is `s` with its running digest completed with this result: recorded, and raised once (R140). -/
structure DigestEnded (s : State) (result : Word) (t : State) : Prop where
  sound : t.tables.Sound
  record : t.tables.digest = s.tables.digest.complete s.tables.digest.outcome result s.tables.digest.damaged
  words : ∀ r, t.tables.get r = s.tables.get r
  raised : t.event .digestDone = (s.event .digestDone).occur
    (detail2 (byteFields s.tables.digest.outcome.code (bit s.tables.digest.damaged) 0 0) result)

theorem digestEnded_endDigest (h : s.tables.Sound) (result : Word) :
    DigestEnded s result (endDigest s.tables.digest.outcome result s.tables.digest.damaged s) := by
  let x := s.updTables fun t => { t with digest := t.digest.complete s.tables.digest.outcome result s.tables.digest.damaged }
  have sound : x.tables.Sound := h.records ..
  have tables := raiseEvent_tables .digestDone
    (detail2 (byteFields s.tables.digest.outcome.code (bit s.tables.digest.damaged) 0 0) result) sound
  exact
    { sound := tables ▸ sound
      record := congrArg TableStore.digest tables
      words := fun r => (congrArg (TableStore.get · r) tables).trans (s.tables.get_records ..)
      raised := (raiseEvent_event_sound _ _ _ sound).trans (if_pos rfl) }

/-- What a running digest records on sound table memory (R140). -/
theorem digestEnds_sound (h : s.tables.Sound) :
    ∃ result, DigestEnded s result (digestEnds s) ∧ (s.tables.digest.altered = false → result = s.digestSum) := by
  have fed : feedAll s = (s, ((shadowRange s.tables.digest.start s.tables.digest.last).flatMap fun a =>
      wordBytes (s.statusWord (placeAt a))).foldl crc32Byte crc32Init, false) :=
    foldl_feedWord_sound h false _ _ fun a ha => (List.mem_filter.mp ha).2
  unfold digestEnds
  simp only [fed, Bool.false_or]
  cases altered : s.tables.digest.altered with
  | true =>
    have ended := digestEnded_endDigest (s := s.drawFree) h (Config.freeDigest s.freeCount)
    have outcome : s.tables.digest.outcome = .stale := if_pos (.inl altered)
    rw [State.drawFree_tables, outcome] at ended
    exact ⟨_, ⟨ended.sound, ended.record, ended.words, ended.raised⟩, nofun⟩
  | false =>
    have outcome : s.tables.digest.outcome = if s.tables.digest.touched then .stale else .done := by
      unfold DigestRec.outcome
      simp [altered]
    exact ⟨s.digestSum, outcome ▸ digestEnded_endDigest h s.digestSum, fun _ => rfl⟩

/-- Settles O46: the completion records and raises the outcome, and the distributor's work that follows is mute. -/
theorem digestCompletes : Obligations.DigestCompletes := by
  intro s tm h running
  have run : exec (.digestDone tm) s = .next (finish (digestEnds (s.atTime tm))) := if_pos running
  obtain ⟨result, ended, unaltered⟩ := digestEnds_sound (s := s.atTime tm) h
  have work := (onlyPlaced_finish ended.sound).mute
  have record : (finish (digestEnds (s.atTime tm))).tables.digest
      = s.tables.digest.complete s.tables.digest.outcome result s.tables.digest.damaged :=
    (congrArg TableStore.digest work.tables).trans ended.record
  refine ⟨_, run, fun touched altered => ?_, fun touched => ?_, ?_, fun altered => ?_, ?_, fun r => ?_⟩
  · rw [record]
    exact if_neg (by simp [touched, altered])
  · rw [record]
    exact if_pos (.inr touched)
  · rw [record]
    rfl
  · rw [record]
    exact (unaltered altered).trans (digestSum_congr (s := s) rfl)
  · rw [record, State.event_congr (congrArg EventUnit.kinds work.events), ended.raised, State.atTime_tables, DigestRec.code_outcome]
    rfl
  · rw [work.tables]
    exact ended.words r

/-! ### A READ of an uncorrectable word -/

/-- A READ of one uncorrectable word of table memory (R136, R150). -/
theorem runRead_damaged {o : Origin} {q : Request} {r : TRef} (addr : q.addr = asWord r.addr) (len : q.len = 4)
    (wrong : (s.tables.get r).wrong = .two) :
    runRead o q s = { state := useWord r s, status := .damaged, data := wordBytes vacantPattern } := by
  have block : blockLen 4 = true := rfl
  have covered : blockAddrs (asWord r.addr).toNat q.words = [r.addr] := by
    unfold Request.words
    rw [len]
    exact blockAddrs_addr r
  have lost : s.placeWord? (.table r) = none := if_pos wrong
  unfold runRead
  simp only [len, block, isVacant_addr addr, addr, covered, List.foldl_cons, List.foldl_nil, readWord, placeAt_addr, lost,
    Bool.not_true, Bool.false_eq_true, if_false, Option.isNone_none, if_true, Option.getD_none, List.nil_append]
  rfl

/-- Settles O22: neither the finding nor its consequences touch the records of requests. -/
theorem damagedRead : Obligations.DamagedRead := by
  intro s tm o tag r wrong _
  have record := single_answers (k := .read) (tag := tag) (addr := asWord r.addr) (data := [])
    (runRead_damaged (s := s.atTime tm) (o := o) rfl rfl wrong) rfl
  have kept : (useWord r (s.atTime tm)).ctl.answers = s.ctl.answers := (settles_useWord r _).answers
  rw [kept] at record
  exact ⟨_, rfl, record⟩

end Sys2Proof.Machine
end

section
/-! PROOFS of the family 08: a store into one word past the gate, by its kind (R130, R138, R140, R141, R151, R156, R159). Settles
O56. -/

namespace Sys2Proof.Machine

variable {s : State}

/-! ### The commands -/

theorem exec_shadowTableWrite (s : State) (tm : Nat) {r : TRef} (shadow : r.isShadow = true) (v : Word) :
    exec (.shadowTableWrite tm (asWord r.addr) v) s = .next (finish (storeShadow r v (s.atTime tm))) := by
  change execShadowTableWrite tm (asWord r.addr) v s = _
  unfold execShadowTableWrite
  dsimp only
  rw [placeOf_addr]
  rcases r with ⟨_ | _, _⟩ | ⟨_ | _, _, _⟩ | ⟨_ | _, _, _⟩ | _
  case group.shadow | pair.shadow | cls.shadow => rfl
  all_goals cases shadow

/-- A store at a place of a known kind, taken as a command of its own (R151). -/
theorem exec_counterWrite (s : State) (tm : Nat) {addr : Word} {p : Place} (place : placeOf addr = p) (v : Word) :
    exec (.counterWrite tm addr v) s = .next (finish (storePlace v p (s.atTime tm)).1) := by
  subst place
  rfl

/-- A read-only word is left alone (R151). -/
theorem storePlace_readOnly {p : Place} (ro : readOnly p = true) (v : Word) (s : State) : storePlace v p s = (s, false) := by
  unfold storePlace
  split
  case h_12 => rfl
  all_goals cases ro

/-- The commit state word stores its upper half as the commit count (R151). -/
theorem TableStore.storeCount_eq (t : TableStore) (v : Word) :
    t.storeCount v = { t with commitCount := BitVec.ofNat 16 (v.toNat / 65536) } := by
  have half : fieldAt v 16 16 = v.toNat / 65536 := Nat.mod_eq_of_lt (by have := v.isLt; omega)
  unfold TableStore.storeCount
  rw [half]

/-! ### The digest's note -/

theorem DigestRec.noteWrite_inside {d : DigestRec} {a : Nat} (covers : d.state = .running ∧ d.start ≤ a ∧ a ≤ d.last)
    (changed : Bool) :
    d.noteWrite a changed = { d with touched := true, altered := d.altered || changed } := by
  obtain ⟨running, first, last⟩ := covers
  exact if_pos (by simp [DigestRec.covers, running, first, last])

theorem DigestRec.noteWrite_outside {d : DigestRec} {a : Nat} (out : d.state ≠ .running ∨ a < d.start ∨ d.last < a) (changed : Bool) :
    d.noteWrite a changed = d := by
  refine if_neg fun covers => ?_
  simp only [DigestRec.covers, Bool.and_eq_true, decide_eq_true_eq] at covers
  obtain ⟨⟨running, first⟩, last⟩ := covers
  obtain stopped | before | after := out
  · exact stopped running
  · omega
  · omega

/-- Storing a word leaves the digest record alone. -/
theorem TableStore.store_digest (t : TableStore) (r : TRef) (v : Word) : (t.store r v).digest = t.digest := by
  rcases r with ⟨_ | _, _⟩ | ⟨_ | _, _, _⟩ | ⟨_ | _, _, _⟩ | _ <;> rfl

/-- What a store into a shadow word leaves in table memory (R130, R140). -/
theorem storeShadow_tables (h : s.tables.Sound) (r : TRef) (v : Word) :
    (storeShadow r v s).tables.get r = { val := clampTable r v, wrong := .none }
      ∧ (∀ q, q ≠ r → (storeShadow r v s).tables.get q = s.tables.get q)
      ∧ (storeShadow r v s).tables.digest
          = s.tables.digest.noteWrite r.addr (decide ((s.tables.get r).val ≠ clampTable r v)) := by
  have word (q : TRef) : (storeShadow r v s).tables.get q = (s.tables.store r (clampTable r v)).get q := by
    rw [storeShadow_sound h]
    exact TableStore.get_records ..
  refine ⟨?_, fun q hq => ?_, by rw [storeShadow_sound h]; rfl⟩
  · rw [word, TableStore.get_store, if_pos rfl]
  · rw [word, TableStore.get_store, if_neg hq]

/-! ### The gate record's flags -/

/-- Words that agree in a field agree in each of its bits. -/
theorem bitAt_eq_of_fieldAt_eq {v w : Word} {lo n j : Nat} (same : fieldAt v lo n = fieldAt w lo n) (hj : j < n) :
    bitAt v (lo + j) = bitAt w (lo + j) := by
  have bit := congrArg (Nat.testBit · j) same
  simpa only [testBit_fieldAt, decide_eq_true hj, Bool.true_and] using bit

/-- The gate record stores each of its eight flags as written (R141). -/
theorem bitAt_clampGate (v : Word) {i : Nat} (flag : i ∈ [0, 1, 2, 3, 4, 5, 6, 16]) : bitAt (clampGate v) i = bitAt v i := by
  have low : fieldAt (clampGate v) 0 7 = fieldAt v 0 7 := by
    refine (fieldAt_clampTable (r := .gate) (f := ⟨0, 7, 0, 127, 1⟩) (by simp [tableFields]) v).trans ?_
    rw [FieldRange.stored, stepDown_one]
    exact clampTo_fieldAt v 0 (by decide)
  have hold : fieldAt (clampGate v) 16 1 = fieldAt v 16 1 := by
    refine (fieldAt_clampTable (r := .gate) (f := ⟨16, 1, 0, 1, 1⟩) (by simp [tableFields]) v).trans ?_
    rw [FieldRange.stored, stepDown_one]
    exact clampTo_fieldAt v 16 (by decide)
  have place : i < 7 ∨ i = 16 := by
    revert flag
    simp only [List.mem_cons, List.not_mem_nil, or_false]
    omega
  obtain first | rfl := place
  · simpa using bitAt_eq_of_fieldAt_eq low first
  · exact bitAt_eq_of_fieldAt_eq (j := 0) hold Nat.one_pos

/-! ### The enable flags -/

/-- A kind's enable flag written changes its own record alone (R159). -/
theorem enableKind_kinds (h : s.tables.Sound) (v : Word) (i : Fin 15) :
    (enableKind v s i).tables = s.tables
      ∧ (enableKind v s i).events.kinds = s.events.kinds.set i.val (s.events.kinds[i.val].enable (bitAt v i.val)) := by
  unfold enableKind
  dsimp only
  split
  · exact newPendingWith_sound (fun _ _ hx => touch_sound hx) (by exact h)
  · exact ⟨rfl, rfl⟩

/-- The enable word written kind by kind: each record in the list is written once, and no other (R159). -/
theorem foldl_enableKind (v : Word) :
    ∀ (is : List (Fin 15)) {s : State}, is.Nodup → s.tables.Sound →
      (is.foldl (enableKind v) s).tables = s.tables ∧ ∀ j : Fin 15, (is.foldl (enableKind v) s).events.kinds[j.val]
        = if j ∈ is then s.events.kinds[j.val].enable (bitAt v j.val) else s.events.kinds[j.val]
  | [], _, _, _ => by simp
  | i :: is, s, distinct, h => by
    obtain ⟨fresh, distinct⟩ := List.nodup_cons.mp distinct
    obtain ⟨tables, kinds⟩ := enableKind_kinds h v i
    obtain ⟨restTables, rest⟩ := foldl_enableKind v is (s := enableKind v s i) distinct (tables ▸ h)
    refine ⟨restTables.trans tables, fun j => ?_⟩
    rw [List.foldl_cons, rest j]
    simp only [kinds, Vector.getElem_set, List.mem_cons]
    by_cases same : j = i
    · subst same
      simp [fresh]
    · have apart : i.val ≠ j.val := fun e => same (Fin.ext e.symm)
      simp [same, apart]

theorem storeEnable_sound (h : s.tables.Sound) (v : Word) :
    (storeEnable v s).tables = s.tables
      ∧ ∀ j : Fin 15, (storeEnable v s).events.kinds[j.val] = s.events.kinds[j.val].enable (bitAt v j.val) := by
  obtain ⟨tables, kinds⟩ := foldl_enableKind v (List.finRange 15) (List.nodup_finRange 15) h
  exact ⟨tables, fun j => (kinds j).trans (if_pos (List.mem_finRange j))⟩

/-- A record after its enable flag is written (R159). -/
theorem EventRec.enable_spec (r : EventRec) (on : Bool) :
    (r.enable on).enabled = on ∧ (r.enable on).count = r.count ∧ (r.enable on).detail = r.detail
      ∧ (r.enable on).isPending = (on && (r.isPending || (!r.enabled && decide (r.count ≠ 0)))) := by
  cases on <;> exact ⟨rfl, rfl, rfl, rfl⟩

/-- Settles O56: each kind of store, and then the end of the command. -/
theorem wordWrites : Obligations.WordWrites := by
  intro s tm v h
  have now : (s.atTime tm).tables.Sound := h
  have ends {x : State} (sound : x.tables.Sound) : OnlyPlaced x (finish x) := onlyPlaced_finish sound
  refine ⟨fun r shadow => ?_, ?_, fun second => ?_, ?_, fun b => ?_, fun addr q i place => ?_, fun addr i place => ?_,
    fun addr place => ?_, fun addr ro => ?_⟩
  · have work := ends (storeShadow_keeps_sound now r v)
    obtain ⟨stored, others, digest⟩ := storeShadow_tables now r v
    refine ⟨_, exec_shadowTableWrite s tm shadow v, work, ?_, fun covers => ?_, fun out => ?_, fun q hq => ?_⟩
    · rw [work.frame.tables, stored]
    · rw [work.frame.tables, digest]
      exact DigestRec.noteWrite_inside covers _
    · rw [work.frame.tables, digest]
      exact DigestRec.noteWrite_outside out _
    · rw [work.frame.tables, others q hq]
      rfl
  · have sound : (storeGate v (s.atTime tm)).tables.Sound := now.store .gate _
    have work := ends sound
    refine ⟨_, rfl, work, fun i flag => ?_⟩
    have word : (finish (storeGate v (s.atTime tm))).word? .gate = some (clampGate v) := by
      rw [word_sound (work.sound sound), work.frame.tables]
      rfl
    unfold State.gateFlag
    rw [word]
    exact bitAt_clampGate v flag
  · have work : OnlyPlaced _ (finish ((s.atTime tm).updTables TableStore.clearEcc)) := ends (now.records ..)
    refine ⟨_, by cases second <;> rfl, work, ?_⟩
    rw [work.frame.tables]
    exact ⟨rfl, rfl, rfl, rfl⟩
  · obtain ⟨tables, kinds⟩ := storeEnable_sound now v
    have work := ends (x := storeEnable v (s.atTime tm)) (tables ▸ now)
    refine ⟨_, rfl, fun i => ?_⟩
    rw [work.frame.events, kinds i]
    exact EventRec.enable_spec ..
  · exact ⟨_, rfl, ends (by exact now)⟩
  · exact ⟨_, exec_counterWrite s tm place v, ends (by exact now)⟩
  · exact ⟨_, exec_counterWrite s tm place v, ends (by exact now)⟩
  · simp only [← TableStore.storeCount_eq]
    exact ⟨_, exec_counterWrite s tm place v, ends (now.records ..)⟩
  · refine ⟨_, exec_counterWrite s tm rfl v, ?_⟩
    rw [storePlace_readOnly ro]
    exact ends now

end Sys2Proof.Machine
end

section
/-! PROOFS of the family 08: what a read of a word with wrong bits finds and reports (R135, R136, R137). Settles O21. -/

namespace Sys2Proof.Machine

variable {s : State}

/-! ### The words a notice reads -/

/-- A word that raising an event may meet: the sides and interval, the two addresses and class 3's parameters (R62, R161, R162). -/
def TRef.IsNoticeWord (r : TRef) : Prop := ∃ i : Fin 19, i.val ∈ [0x0C, 0x0E, 0x0F, 0x10, 0x11, 0x12] ∧ r = .group .active i

section look

/-! What the reads of a notice's words keep of table memory and the event records, a newly pending kind keeps. -/

variable {look : TRef → State → State} {I : TableStore → Vector EventRec 15 → Prop}
  (hl : ∀ r x, r.IsNoticeWord → I x.tables x.events.kinds → I (look r x).tables (look r x).events.kinds)
  (h : I s.tables s.events.kinds)
include hl h

theorem admitInternalWith_keeps (b : List Byte) (n : Option Nat) :
    I (admitInternalWith look b n s).1.tables (admitInternalWith look b n s).1.events.kinds := by
  have met := hl _ s ⟨0x0C, by decide, rfl⟩ h
  unfold admitInternalWith
  split
  · dsimp only
    split <;> exact met
  · exact h

theorem sendNoticeWith_keeps : I (sendNoticeWith look s).tables (sendNoticeWith look s).events.kinds := by
  have read : I (touchNotice look (stampNotice s)).tables (touchNotice look (stampNotice s)).events.kinds := by
    have stamped : I (stampNotice s).tables (stampNotice s).events.kinds := h
    exact hl _ _ ⟨0x11, by decide, rfl⟩ (hl _ _ ⟨0x10, by decide, rfl⟩ (hl _ _ ⟨0x0F, by decide, rfl⟩
      (hl _ _ ⟨0x0E, by decide, rfl⟩ stamped)))
  unfold sendNoticeWith sendSides
  generalize touchNotice look (stampNotice s) = x at read ⊢
  dsimp only
  split
  · refine admitInternalWith_keeps hl ?_ _ _
    split <;> exact read
  · split <;> exact read

theorem newPendingWith_keeps : I (newPendingWith look s).tables (newPendingWith look s).events.kinds := by
  have met := hl _ s ⟨0x12, by decide, rfl⟩ h
  unfold newPendingWith
  dsimp only
  split
  · exact met
  · split
    · exact sendNoticeWith_keeps hl met
    · exact met

end look

/-! ### A word met -/

section met

variable (re : EventKind → Detail → State → State) {r : TRef}

theorem touchWith_none (wrong : (s.tables.get r).wrong = .none) : touchWith re r s = s := by
  unfold touchWith
  rw [wrong]

theorem touchWith_one (wrong : (s.tables.get r).wrong = .one) :
    touchWith re r s = re .eccCorrected (detail1 (asWord r.addr)) (s.updTables fun t => t.correct r) := by
  unfold touchWith
  rw [wrong]

theorem touchWith_marked (wrong : (s.tables.get r).wrong = .two) (marked : s.tables.marked r = true) :
    touchWith re r s = s.updTables fun t => t.countUncorrectable r.addr := by
  unfold touchWith
  rw [wrong]
  exact if_pos marked

theorem touchWith_unmarked (wrong : (s.tables.get r).wrong = .two) (unmarked : s.tables.marked r = false) :
    touchWith re r s = re .tableDamaged (detail1 (asWord r.addr)) (s.updTables fun t => (t.countUncorrectable r.addr).mark r) := by
  unfold touchWith
  rw [wrong]
  exact if_neg (by simp [unmarked])

end met

/-! ### An uncorrectable word found -/

theorem toNat_satInc16 (w : BitVec 16) : (satInc16 w).toNat = min 65535 (w.toNat + 1) := by
  have bound := w.isLt
  unfold satInc16
  split
  · next full => subst full; rfl
  · next room =>
    have below : w.toNat ≠ 65535 := fun e => room (BitVec.eq_of_toNat_eq e)
    rw [BitVec.toNat_add]
    change (w.toNat + 1) % 65536 = _
    omega

theorem TableStore.get_countUncorrectable (t : TableStore) (a : Nat) (q : TRef) : (t.countUncorrectable a).get q = t.get q :=
  t.get_records ..

theorem TableStore.get_mark (t : TableStore) (r q : TRef) : (t.mark r).get q = t.get q := by
  rcases r with ⟨_ | _, _⟩ | ⟨_ | _, _, _⟩ | ⟨_ | _, _, _⟩ | _ <;>
    rcases q with ⟨_ | _, _⟩ | ⟨_ | _, _, _⟩ | ⟨_ | _, _, _⟩ | _ <;> rfl

/-- Table memory `t` as a finding of the uncorrectable word `r` has left it, every other word sound: the unit of `r` is marked if a
notice reads `r` again (R136). -/
structure TableStore.FoundAt (t : TableStore) (r : TRef) : Prop where
  others : ∀ q, q ≠ r → (t.get q).wrong = .none
  wrong : (t.get r).wrong = .two
  first : t.firstUncorrectable.isSome = true
  marked : r.IsNoticeWord → t.marked r = true

/-- `u` is `t` with the finding of `r` counted again by the notices that read `r`, if any do. -/
def TableStore.Recounted (t : TableStore) (r : TRef) (u : TableStore) : Prop :=
  ∃ n, t.uncorrectable.toNat ≤ n.toNat ∧ (¬r.IsNoticeWord → n = t.uncorrectable) ∧ u = { t with uncorrectable := n }

/-- A notice's read counts a word found before and does nothing else (R136). -/
theorem touchWith_recounts {t : TableStore} {r : TRef} (found : t.FoundAt r) (re : EventKind → Detail → State → State) {q : TRef}
    (hq : q.IsNoticeWord) {x : State} (hx : t.Recounted r x.tables) :
    t.Recounted r (touchWith re q x).tables ∧ (touchWith re q x).events.kinds = x.events.kinds := by
  obtain ⟨n, more, once, tables⟩ := hx
  have word : x.tables.get q = t.get q := by rw [tables]; exact t.get_records ..
  by_cases same : q = r
  · subst same
    have mark : x.tables.marked q = true := by
      obtain ⟨i, -, rfl⟩ := id hq
      rw [tables]
      exact found.marked hq
    obtain ⟨a, first⟩ := Option.isSome_iff_exists.mp found.first
    rw [touchWith_marked re (by rw [word, found.wrong]) mark]
    refine ⟨⟨satInc16 n, ?_, fun no => absurd hq no, ?_⟩, rfl⟩
    · have := n.isLt
      rw [toNat_satInc16]
      omega
    · simp [tables, TableStore.countUncorrectable, first]
  · rw [touchWith_none re (by rw [word, found.others q same])]
    exact ⟨⟨n, more, once, tables⟩, rfl⟩

/-- Raising an event where a finding has been recorded (R136, R158). -/
theorem raiseEvent_recounts (k : EventKind) (d : Detail) {r : TRef} (found : s.tables.FoundAt r) :
    s.tables.Recounted r (raiseEvent k d s).tables
      ∧ (raiseEvent k d s).events.kinds = (s.setEvent k ((s.event k).occur d)).events.kinds := by
  have start : s.tables.Recounted r s.tables := ⟨_, le_rfl, fun _ => rfl, rfl⟩
  unfold raiseEvent raiseN
  dsimp only
  split
  · refine newPendingWith_keeps (s := s.setEvent k ((s.event k).occur d))
      (I := fun u kinds => s.tables.Recounted r u ∧ kinds = (s.setEvent k ((s.event k).occur d)).events.kinds) ?_ ⟨start, rfl⟩
    rintro q x hq ⟨tables, kinds⟩
    obtain ⟨counted, same⟩ := touchWith_recounts found (raiseN 7) hq tables
    exact ⟨counted, same.trans kinds⟩
  · exact ⟨start, rfl⟩

/-! ### What a finding marks -/

/-- Marking a unit leaves the error, commit and digest records alone. -/
theorem TableStore.mark_records (t : TableStore) (r : TRef) :
    (t.mark r).uncorrectable = t.uncorrectable ∧ (t.mark r).firstUncorrectable = t.firstUncorrectable
      ∧ (t.mark r).corrected = t.corrected ∧ (t.mark r).lastCorrected = t.lastCorrected
      ∧ (t.mark r).commitPending = t.commitPending ∧ (t.mark r).commitCount = t.commitCount ∧ (t.mark r).digest = t.digest := by
  rcases r with ⟨_ | _, _⟩ | ⟨_ | _, _, _⟩ | ⟨_ | _, _, _⟩ | _ <;> exact ⟨rfl, rfl, rfl, rfl, rfl, rfl, rfl⟩

/-- With no unit marked before, a finding marks the unit of its word alone (R136, R137). -/
theorem TableStore.marks_mark {t : TableStore} (group : t.groupDamaged = false) (pairs : ∀ p : PairIx, t.pairDamaged[p.val] = false)
    (cls : ∀ i : Fin 64, t.clsDamaged[i.val] = false) (gate : t.gateLost = false) (r : TRef) :
    ((t.mark r).groupDamaged = true ↔ ∃ i, r = .group .active i)
      ∧ (∀ p : PairIx, (t.mark r).pairDamaged[p.val] = true ↔ ∃ j, r = .pair .active p j)
      ∧ (∀ i : Fin 64, (t.mark r).clsDamaged[i.val] = true ↔ ∃ j, r = .cls .active i j)
      ∧ ((t.mark r).gateLost = true ↔ r = .gate) := by
  rcases r with ⟨_ | _, i⟩ | ⟨_ | _, q, j⟩ | ⟨_ | _, k, j⟩ | _ <;>
    simp [TableStore.mark, group, pairs, cls, gate, Vector.getElem_set, Fin.ext_iff]

/-- The tables once a first finding of the uncorrectable word `r` has been counted and its unit marked (R136). -/
theorem foundAt_mark {t : TableStore} {r : TRef} (others : ∀ q, q ≠ r → (t.get q).wrong = .none) (wrong : (t.get r).wrong = .two) :
    ((t.countUncorrectable r.addr).mark r).FoundAt r where
  others q hq := by rw [TableStore.get_mark, TableStore.get_countUncorrectable]; exact others q hq
  wrong := by rw [TableStore.get_mark, TableStore.get_countUncorrectable]; exact wrong
  first := by rw [(TableStore.mark_records _ r).2.1]; rfl
  marked := by
    rintro ⟨i, -, rfl⟩
    rfl

/-- Storing a word leaves the other words and the damage marks alone. -/
theorem sound_but_of_store {t : TableStore} {r : TRef} {v : Word} (h : (t.store r v).Sound) :
    (∀ q, q ≠ r → (t.get q).wrong = .none) ∧ t.groupDamaged = false ∧ (∀ p : PairIx, t.pairDamaged[p.val] = false)
      ∧ ∀ i : Fin 64, t.clsDamaged[i.val] = false := by
  refine ⟨fun q hq => ?_, ?_, fun p => ?_, fun i => ?_⟩
  · have word := h.words q
    rwa [TableStore.get_store, if_neg hq] at word
  · have group := h.group
    rcases r with ⟨_ | _, _⟩ | ⟨_ | _, _, _⟩ | ⟨_ | _, _, _⟩ | _ <;> exact group
  · have pair := h.pairs p
    rcases r with ⟨_ | _, _⟩ | ⟨_ | _, _, _⟩ | ⟨_ | _, _, _⟩ | _ <;> exact pair
  · have entry := h.cls i
    rcases r with ⟨_ | _, _⟩ | ⟨_ | _, _, _⟩ | ⟨_ | _, _, _⟩ | _ <;> exact entry

/-! ### Both kinds of finding -/

/-- A word with one wrong bit met, every other word sound (R135). -/
theorem touch_corrects {r : TRef} (h : (s.tables.store r (s.tables.get r).val).Sound) (wrong : (s.tables.get r).wrong = .one) :
    (touch r s).tables = s.tables.correct r
      ∧ ∀ k, (touch r s).event k
        = if k = .eccCorrected then (s.event .eccCorrected).occur (detail1 (asWord r.addr)) else s.event k := by
  have sound : (s.updTables fun t => t.correct r).tables.Sound := h.records ..
  rw [touch, touchWith_one raiseEvent wrong]
  exact ⟨raiseEvent_tables _ _ sound, fun k => raiseEvent_event_sound _ k _ sound⟩

/-- An uncorrectable word met for the first time, every other word sound (R136). -/
theorem touch_finds {r : TRef} (others : ∀ q, q ≠ r → (s.tables.get q).wrong = .none) (wrong : (s.tables.get r).wrong = .two)
    (unmarked : s.tables.marked r = false) :
    ((s.tables.countUncorrectable r.addr).mark r).Recounted r (touch r s).tables
      ∧ ∀ k, (touch r s).event k
        = if k = .tableDamaged then (s.event .tableDamaged).occur (detail1 (asWord r.addr)) else s.event k := by
  rw [touch, touchWith_unmarked raiseEvent wrong unmarked]
  obtain ⟨tables, kinds⟩ := raiseEvent_recounts (s := s.updTables fun t => (t.countUncorrectable r.addr).mark r) .tableDamaged
    (detail1 (asWord r.addr)) (foundAt_mark others wrong)
  exact ⟨tables, fun k => by rw [State.event_congr kinds, State.setEvent_event]; rfl⟩

/-- Settles O21: a corrected word leaves table memory sound, and a word found is counted again by the notices that read it. -/
theorem wrongBitsFound : Obligations.WrongBitsFound := by
  intro s u r h hu
  subst hu
  refine ⟨onlyReported_touch r s, fun one => ?_, fun two unmarked gate => ?_⟩
  · obtain ⟨tables, events⟩ := touch_corrects h one
    have word (q : TRef) : (touch r s).tables.get q = (s.tables.store r (s.tables.get r).val).get q := by
      rw [tables]
      exact TableStore.get_records ..
    refine ⟨if_neg (by rw [one]; decide), ?_, fun q hq => ?_, tables, ?_, fun k hk => ?_⟩
    · rw [word, TableStore.get_store, if_pos rfl]
    · rw [word, TableStore.get_store, if_neg hq]
    · rw [events, if_pos rfl]
    · rw [events, if_neg hk]
  · obtain ⟨others, group, pairs, cls⟩ := sound_but_of_store h
    obtain ⟨⟨n, more, once, tables⟩, events⟩ := touch_finds others two unmarked
    obtain ⟨counted, first, corrected, last, pending, count, digest⟩ := (s.tables.countUncorrectable r.addr).mark_records r
    obtain ⟨groupMark, pairMark, clsMark, gateMark⟩ :=
      TableStore.marks_mark (t := s.tables.countUncorrectable r.addr) group pairs cls gate r
    have one : (satInc16 s.tables.uncorrectable).toNat = min 65535 (s.tables.uncorrectable.toNat + 1) := toNat_satInc16 _
    rw [counted] at more once
    change (satInc16 s.tables.uncorrectable).toNat ≤ n.toNat at more
    rw [tables]
    refine ⟨if_pos two, fun q => ?_, first, fun no => ?_, ?_, groupMark, pairMark, clsMark, gateMark, corrected, last,
      pending, count, digest, ?_, fun k hk => ?_⟩
    · rw [TableStore.get_records, TableStore.get_mark, TableStore.get_countUncorrectable]
    · exact once fun ⟨i, hi, e⟩ => no i hi e
    · by_cases full : s.tables.uncorrectable.toNat = 65535
      · refine .inr ⟨BitVec.eq_of_toNat_eq full, BitVec.eq_of_toNat_eq (x := n) (y := BitVec.allOnes 16) ?_⟩
        have := n.isLt
        change n.toNat = 65535
        omega
      · refine .inl (BitVec.lt_def.mpr ?_)
        have := s.tables.uncorrectable.isLt
        change s.tables.uncorrectable.toNat < n.toNat
        omega
    · rw [events, if_pos rfl]
    · rw [events, if_neg hk]

end Sys2Proof.Machine
end

section
/-! PROOFS of the family 09 (in-band control frames), first layer: the words of table memory in the table space, posted requests, READs
and requests at vacant addresses (R147, R148, R150, R153). Settles O15, O18, O48 and O51. -/

namespace Sys2Proof.Machine

variable {s : State}

/-! ### The addresses of table words -/

/-- Settles O18: the place at a word's address names the word. -/
theorem tableSpaceAddresses : Obligations.TableSpaceAddresses :=
  ⟨placeAt_addr, fun q r same => Place.table.inj ((placeAt_addr q).symm.trans (same ▸ placeAt_addr r))⟩

/-! ### Posted requests -/

/-- The words of a block are stored or found read-only. -/
theorem foldl_writeWord_status (xs : List (Nat × Word)) (x : Outcome) :
    (xs.foldl writeWord x).status = x.status ∨ (xs.foldl writeWord x).status = .readOnly := by
  induction xs generalizing x with
  | nil => exact .inl rfl
  | cons a xs ih =>
    have one : (writeWord x a).status = x.status ∨ (writeWord x a).status = .readOnly := by
      unfold writeWord
      dsimp only
      split
      · exact .inl rfl
      · exact .inr rfl
    obtain same | readOnly := ih (writeWord x a)
    · rw [List.foldl_cons, same]
      exact one
    · exact .inr readOnly

/-- A WRITE is refused VACANT at a vacant address alone (R148). -/
theorem runWrite_of_vacant {o : Origin} {r : Request} (vacant : (runWrite o r s).status = .vacant) :
    runWrite o r s = answerVacant o r 0 s := by
  unfold runWrite at vacant ⊢
  dsimp only at vacant ⊢
  split_ifs at vacant ⊢
  · cases vacant
  · rfl
  · cases vacant
  · obtain stored | readOnly := foldl_writeWord_status ((blockAddrs r.addr.toNat r.words).zip (bytesWords r.data))
      { state := (gateWrite o (blockAddrs r.addr.toNat r.words) s).1, status := .ok, data := [] }
    · cases stored.symm.trans vacant
    · cases readOnly.symm.trans vacant

/-- A request on one word is refused VACANT at a vacant address alone (R148). -/
theorem runOneWord_of_vacant {n : Nat} {f : NewWord} {o : Origin} {r : Request} (vacant : (runOneWord n f o r s).status = .vacant) :
    runOneWord n f o r s = answerVacant o r 1 s := by
  unfold runOneWord at vacant ⊢
  dsimp only at vacant ⊢
  split_ifs at vacant ⊢
  · cases vacant
  · rfl
  · cases vacant
  · split at vacant <;> cases vacant
  · split at vacant
    · cases vacant
    · split at vacant <;> cases vacant

/-- Settles O15: a posted kind runs as its unposted one does, and what is left is the end of a posted request. -/
theorem postedRequests : Obligations.PostedRequests := by
  intro k u o n r s pair
  have same : runKind k o n r s = runKind u o n r s ∧ k.posted = true
      ∧ ∃ m, (runKind u o n r s).status = .vacant → runKind u o n r s = answerVacant o r m s := by
    simp only [List.mem_cons, Prod.mk.injEq, List.not_mem_nil, or_false] at pair
    obtain ⟨rfl, rfl⟩ | ⟨rfl, rfl⟩ | ⟨rfl, rfl⟩ := pair
    · exact ⟨rfl, rfl, 0, runWrite_of_vacant⟩
    · exact ⟨rfl, rfl, 1, runOneWord_of_vacant⟩
    · exact ⟨rfl, rfl, 1, runOneWord_of_vacant⟩
  obtain ⟨run, posted, m, vacant⟩ := same
  have ends : request k o n r s = (settleOwed (postedEnds r (runKind u o n r s)), none) := by
    unfold request
    rw [run]
    exact if_pos posted
  rw [ends]
  refine ⟨run, rfl, fun ok => congrArg settleOwed (if_pos ok), fun failed => congrArg settleOwed (if_neg failed), fun refused => ?_⟩
  rw [vacant refused]
  rfl

/-! ### READ -/

/-- The word at a place reads as it stands, on sound table memory (R150). -/
theorem placeWord_sound (h : s.tables.Sound) (p : Place) : s.placeWord? p = some (s.statusWord p) := by
  cases p
  case table r => exact word_sound h
  all_goals rfl

/-- Reading the word at a place changes nothing, on sound table memory (R135). -/
theorem meetPlace_sound (h : s.tables.Sound) (p : Place) : meetPlace p s = s := by
  cases p
  case table r => exact useWord_sound h
  all_goals rfl

theorem foldl_readWord_sound (h : s.tables.Sound) (as : List Nat) (st : Status) (data : List Byte) :
    as.foldl readWord { state := s, status := st, data := data }
      = { state := s, status := st, data := data ++ as.flatMap fun a => wordBytes (s.statusWord (placeAt a)) } := by
  induction as generalizing data with
  | nil => simp
  | cons a as ih =>
    have one : readWord { state := s, status := st, data := data } a
        = { state := s, status := st, data := data ++ wordBytes (s.statusWord (placeAt a)) } := by
      unfold readWord
      simp only [placeWord_sound h, meetPlace_sound h, Option.isNone_some, Bool.false_eq_true, if_false, Option.getD_some]
    rw [List.foldl_cons, one, ih, List.flatMap_cons, List.append_assoc]

theorem blockLen_iff (n : Nat) : blockLen n = true ↔ 4 ≤ n ∧ n ≤ 64 ∧ n % 4 = 0 := by
  unfold blockLen
  simp only [Bool.and_eq_true, decide_eq_true_eq, and_assoc]

theorem isVacant_iff (r : Request) : r.isVacant = true ↔ placeOf r.addr = .vacant := decide_eq_true_iff

theorem isVacant_of_ne {r : Request} (place : placeOf r.addr ≠ .vacant) : r.isVacant = false := decide_eq_false place

/-- A READ in a region, on sound table memory (R150). -/
theorem runRead_sound (h : s.tables.Sound) {o : Origin} {r : Request} (len : blockLen r.len = true) (place : placeOf r.addr ≠ .vacant) :
    runRead o r s =
      { state := s, status := .ok
        data := (blockAddrs r.addr.toNat r.words).flatMap fun a => wordBytes (s.statusWord (placeAt a)) } := by
  unfold runRead
  simp only [len, isVacant_of_ne place, Bool.not_true, Bool.false_eq_true, if_false, foldl_readWord_sound h, List.nil_append]

/-- Settles O48: the record shows the words as they stand, and then comes the end of the command. -/
theorem readReturnsWords : Obligations.ReadReturnsWords := by
  intro s tm o tag addr len h least most fours place
  have now : (s.atTime tm).tables.Sound := h
  have work := onlyPlaced_unposted (k := .read) (tag := tag)
    (runRead_sound now (o := o) (r := ⟨ReqKind.read.code, tag, len, addr, []⟩) ((blockLen_iff len).mpr ⟨least, most, fours⟩) place)
    now rfl
  exact ⟨_, rfl, work.frame.tables, work⟩

/-! ### Vacant addresses -/

section vacant

variable {o : Origin} {r : Request} (place : placeOf r.addr = .vacant)
include place

theorem runRead_vacant (len : blockLen r.len = true) : runRead o r s = answerVacant o r r.words s := by
  unfold runRead
  simp only [len, (isVacant_iff r).mpr place, Bool.not_true, Bool.false_eq_true, if_false, if_true]

theorem runWrite_vacant (len : blockLen r.len = true) : runWrite o r s = answerVacant o r 0 s := by
  unfold runWrite
  simp only [len, (isVacant_iff r).mpr place, Bool.not_true, Bool.false_eq_true, if_false, if_true]

theorem runOneWord_vacant {n : Nat} (f : NewWord) (len : r.len = n) : runOneWord n f o r s = answerVacant o r 1 s := by
  unfold runOneWord
  simp only [len, (isVacant_iff r).mpr place, ne_eq, not_true, if_false, if_true]

theorem runMaskWrite_vacant (len : r.len = 8) : runMaskWrite o r s = answerVacant o r 1 s := runOneWord_vacant place _ len

theorem runSwapIf_vacant (len : r.len = 8) : runSwapIf o r s = answerVacant o r 1 s := runOneWord_vacant place _ len

theorem runAddSat_vacant (len : r.len = 4) : runAddSat o r s = answerVacant o r 1 s := runOneWord_vacant place _ len

end vacant

theorem onlyReported_answerVacant (o : Origin) (r : Request) (n : Nat) (s : State) : OnlyReported s (answerVacant o r n s).state :=
  onlyReported_raiseEvent ..

/-- An unposted request that is answered as one at a vacant address, taken as a command of its own (R147, R148). -/
theorem single_vacant (h : s.tables.Sound) {tm : Nat} {o : Origin} {tag : Byte} {addr : Word} {data : List Byte} {k : ReqKind} {len n : Nat}
    (unposted : k.posted = false)
    (run : runKind k o none ⟨k.code, tag, len, addr, data⟩ (s.atTime tm)
      = answerVacant o ⟨k.code, tag, len, addr, data⟩ n (s.atTime tm)) :
    let t := single k tm o tag addr len data s
    t.ctl.answers = s.ctl.answers
        ++ [{ code := k.code, tag := tag, status := .vacant, data := wordsBytes (List.replicate n 0x5A0F5A0F) }]
      ∧ t.event .vacantAccess = (s.event .vacantAccess).occur (detail2 (byteFields (originCode o) k.code 0 0) addr)
      ∧ t.tables = s.tables ∧ t.ctl.boxes = s.ctl.boxes
      ∧ ∀ p, ∃ fs, t.pair p = { s.pair p with txq := (s.pair p).txq ++ fs } := by
  intro t
  have now : (s.atTime tm).tables.Sound := h
  have reports := onlyReported_answerVacant o ⟨k.code, tag, len, addr, data⟩ n (s.atTime tm)
  have tables : (answerVacant o ⟨k.code, tag, len, addr, data⟩ n (s.atTime tm)).state.tables = s.tables := raiseEvent_tables _ _ now
  have work := (onlyPlaced_unposted run (tables ▸ h) unposted).frame
  obtain ⟨rs, ctl⟩ := work.ctl
  refine ⟨?_, ?_, work.tables.trans tables, ?_, fun p => ?_⟩
  · have answers := single_answers run unposted
    rw [reports.answers] at answers
    exact answers
  · exact (work.event _).trans ((raiseEvent_event_sound _ _ _ now).trans (if_pos rfl))
  · rw [ctl]
    exact reports.boxes
  · obtain ⟨fs, port⟩ := work.pairs p
    have kept := reports.pair p
    exact ⟨fs, port.trans (congrArg (fun pp : PairPort => { pp with txq := pp.txq ++ fs }) kept)⟩

/-- Settles O51: each request is answered as one at a vacant address. -/
theorem vacantAccessAnswered : Obligations.VacantAccessAnswered := by
  intro s tm o tag addr data h place c code n command
  obtain ⟨len, rfl, rfl, rfl, fits⟩ | ⟨rfl, rfl, rfl, fits⟩ | ⟨rfl, rfl, rfl, eight⟩ | ⟨rfl, rfl, rfl, eight⟩
    | ⟨rfl, rfl, rfl, four⟩ := command
  · exact ⟨_, rfl, single_vacant h (k := .read) rfl (runRead_vacant place fits)⟩
  · exact ⟨_, rfl, single_vacant h (k := .write) rfl (runWrite_vacant place fits)⟩
  · exact ⟨_, rfl, single_vacant h (k := .maskWrite) rfl (runMaskWrite_vacant place eight)⟩
  · exact ⟨_, rfl, single_vacant h (k := .swapIf) rfl (runSwapIf_vacant place eight)⟩
  · exact ⟨_, rfl, single_vacant h (k := .addSat) rfl (runAddSat_vacant place four)⟩

end Sys2Proof.Machine
end

section
/-! PROOFS of the family 09, second layer: the gate's test by word address, and the requests that it denies (R149, R151, R153). Settles
O50. -/

namespace Sys2Proof.Machine

variable {s : State}

/-! ### The authority of a word address -/

/-- What a FARM write needs at a place outside the shadow regions (R149). -/
def Place.authority : Place → Authority
  | .pairCounter _ _ => .flag 3
  | .groupCounter _ => .flag 3
  | .commitState => .flag 3
  | .eccCounts => .flag 3
  | .eccAddresses => .flag 3
  | .table .gate => .lineOnly
  | _ => .free

theorem writeAuthority_eq (a : Nat) :
    writeAuthority a = if 0x0100 ≤ a ∧ a ≤ 0x011F then .flag 0 else if 0x0200 ≤ a ∧ a ≤ 0x021F then .flag 1
      else if 0x0400 ≤ a ∧ a ≤ 0x04FF then .flag 2 else (placeAt a).authority := rfl

theorem groupPlace_authority (c : Copy) (k : Nat) : (groupPlace c k).authority = .free := by
  unfold groupPlace
  split <;> rfl

theorem pairPlace_authority (c : Copy) (k : Nat) : (pairPlace c k).authority = .free := by
  unfold pairPlace
  split <;> rfl

theorem clsPlace_authority (c : Copy) (k : Nat) : (clsPlace c k).authority = .free := by
  unfold clsPlace
  split <;> rfl

theorem statusPlace_authority (k : Nat) : (statusPlace k).authority = if 16 ≤ k % 32 ∧ k % 32 < 26 then .flag 3 else .free := by
  unfold statusPlace
  split
  · rw [if_neg (by omega)]
    rfl
  · split <;> rfl

theorem groupStatusPlace_authority (k : Nat) : (groupStatusPlace k).authority = if 0x10 ≤ k ∧ k < 0x3B then .flag 3 else .free := by
  unfold groupStatusPlace
  split
  · rw [if_neg (by omega)]
    rfl
  · split <;> rfl

theorem eventPlace_authority (k : Nat) : (eventPlace k).authority = .free := by
  unfold eventPlace
  split
  case h_5 => split_ifs <;> rfl
  all_goals rfl

theorem boxPlace_authority (k : Nat) : (boxPlace k).authority = .free := by
  unfold boxPlace
  dsimp only
  split_ifs <;> rfl

theorem managementPlace_authority (k : Nat) :
    (managementPlace k).authority = if k = 0 then .lineOnly else if k ≤ 3 then .flag 3 else .free := by
  match k with
  | 0 | 1 | 2 | 3 | 4 | 5 | 6 => rfl
  | _ + 7 => rfl

/-- The addresses whose words need the flag of the counters, in arithmetic. -/
theorem isCounterAddress_iff (a : Nat) :
    isCounterAddress a
      ↔ (0x0800 ≤ a ∧ a ≤ 0x08FF ∧ 16 ≤ a % 32 ∧ a % 32 < 26) ∨ (0x0A10 ≤ a ∧ a ≤ 0x0A3A) ∨ (0x0E01 ≤ a ∧ a ≤ 0x0E03) := by
  have ofPair : (∃ p : PairIx, 0x0800 + 32 * p.val + 16 ≤ a ∧ a ≤ 0x0800 + 32 * p.val + 25)
      ↔ 0x0800 ≤ a ∧ a ≤ 0x08FF ∧ 16 ≤ a % 32 ∧ a % 32 < 26 := by
    constructor
    · rintro ⟨p, first, last⟩
      omega
    · intro inside
      refine ⟨⟨(a - 0x0800) / 32, by omega⟩, ?_⟩
      dsimp only
      omega
  unfold isCounterAddress
  rw [ofPair]
  omega

/-- What a FARM write needs at the word of an address outside the shadow regions (R149). -/
theorem placeAt_authority (a : Nat) :
    (placeAt a).authority = if a = 0x0E00 then .lineOnly
      else if (0x0800 ≤ a ∧ a ≤ 0x08FF ∧ 16 ≤ a % 32 ∧ a % 32 < 26) ∨ (0x0A10 ≤ a ∧ a ≤ 0x0A3A)
          ∨ (0x0E01 ≤ a ∧ a ≤ 0x0E03)
      then .flag 3 else .free := by
  by_cases status : 0x0800 ≤ a ∧ a ≤ 0x08FF
  · have place : placeAt a = statusPlace (a - 0x0800) := by simp (disch := omega) only [placeAt, if_pos, if_neg]
    rw [place, statusPlace_authority]
    grind
  by_cases group : 0x0A00 ≤ a ∧ a ≤ 0x0A3F
  · have place : placeAt a = groupStatusPlace (a - 0x0A00) := by simp (disch := omega) only [placeAt, if_pos, if_neg]
    rw [place, groupStatusPlace_authority]
    grind
  by_cases management : 0x0E00 ≤ a ∧ a ≤ 0x0E0F
  · have place : placeAt a = managementPlace (a - 0x0E00) := by simp (disch := omega) only [placeAt, if_pos, if_neg]
    rw [place, managementPlace_authority]
    grind
  have identity : (Place.identity (finOf 4 a)).authority = .free := rfl
  have vacant : Place.vacant.authority = .free := rfl
  rw [if_neg (by omega), if_neg (by omega)]
  simp only [placeAt, status, group, management, if_false, apply_ite Place.authority, groupPlace_authority, pairPlace_authority,
    clsPlace_authority, eventPlace_authority, boxPlace_authority, identity, vacant, ite_self]

/-- The gate's flags are those of its record, on sound table memory (R141). -/
theorem gateFlag_sound (h : s.tables.Sound) (i : Nat) : s.gateFlag i = bitAt (s.tables.get .gate).val i := by
  unfold State.gateFlag
  rw [word_sound h]
  rfl

/-- The words closed to FARM, on sound table memory (R149). -/
theorem gateAllows_false_iff (h : s.tables.Sound) (a : Nat) : s.gateAllows a = false ↔ gateRefuses (s.tables.get .gate).val a := by
  unfold State.gateAllows gateRefuses
  rw [writeAuthority_eq, placeAt_authority, isCounterAddress_iff]
  simp only [gateFlag_sound h]
  grind

/-! ### Requests denied -/

/-- The gate's test of a FARM write of words of which one is closed, on sound table memory (R149). -/
theorem gateWrite_denied (h : s.tables.Sound) {as : List Nat} (closed : ∃ a ∈ as, s.gateAllows a = false) :
    gateWrite .farm as s = (s, false) := by
  have all : as.all s.gateAllows = false := by
    rw [List.all_eq_false]
    simpa only [Bool.not_eq_true] using closed
  unfold gateWrite
  simp only [useWord_sound h, ite_self, all]

/-- The gate's test of a FARM request that lacks its flag, on sound table memory (R149). -/
theorem gateFlagTest_denied (h : s.tables.Sound) {i : Nat} (clear : s.gateFlag i = false) : gateFlagTest .farm i s = (s, false) := by
  unfold gateFlagTest
  simp only [useWord_sound h, clear]

section denied

variable (h : s.tables.Sound) {r : Request}
include h

/-- A WRITE is refused whole where one of its words is closed (R149, R151). -/
theorem runWrite_denied (len : blockLen r.len = true) (place : placeOf r.addr ≠ .vacant)
    (closed : ∃ a ∈ blockAddrs r.addr.toNat r.words, s.gateAllows a = false) : runWrite .farm r s = refuse .denied s := by
  unfold runWrite
  simp only [len, isVacant_of_ne place, gateWrite_denied h closed, Bool.not_true, Bool.not_false, Bool.false_eq_true, if_false, if_true]

theorem runOneWord_denied {n : Nat} (f : NewWord) (len : r.len = n) (place : placeOf r.addr ≠ .vacant)
    (closed : s.gateAllows r.addr.toNat = false) : runOneWord n f .farm r s = refuse .denied s := by
  have test := gateWrite_denied h ⟨_, List.mem_singleton_self r.addr.toNat, closed⟩
  unfold runOneWord
  simp only [len, isVacant_of_ne place, test, ne_eq, not_true, Bool.not_false, Bool.false_eq_true, if_false, if_true]

theorem runMaskWrite_denied (len : r.len = 8) (place : placeOf r.addr ≠ .vacant) (closed : s.gateAllows r.addr.toNat = false) :
    runMaskWrite .farm r s = refuse .denied s := runOneWord_denied h _ len place closed

theorem runSwapIf_denied (len : r.len = 8) (place : placeOf r.addr ≠ .vacant) (closed : s.gateAllows r.addr.toNat = false) :
    runSwapIf .farm r s = refuse .denied s := runOneWord_denied h _ len place closed

theorem runAddSat_denied (len : r.len = 4) (place : placeOf r.addr ≠ .vacant) (closed : s.gateAllows r.addr.toNat = false) :
    runAddSat .farm r s = refuse .denied s := runOneWord_denied h _ len place closed

theorem runCommit_denied (len : r.len = 0) (clear : s.gateFlag 4 = false) : runCommit .farm r s = refuse .denied s := by
  unfold runCommit
  simp only [len, gateFlagTest_denied h clear, ne_eq, not_true, Bool.not_false, if_false, if_true]

theorem runPairRestart_denied (len : r.len = 1) {p : PairIx} (named : byteNat r.data 0 = p.val) (clear : s.gateFlag 5 = false) :
    runPairRestart .farm r s = refuse .denied s := by
  unfold runPairRestart
  simp only [len, named, p.isLt, gateFlagTest_denied h clear, ne_eq, not_true, Bool.not_false, if_false, if_true, dite_true]

theorem runRestart_denied {k : RestartKind} {i : Nat} {n : Option Nat} (len : r.len = 0) (clear : s.gateFlag i = false) :
    runRestart k i .farm n r s = refuse .denied s := by
  unfold runRestart
  simp only [len, gateFlagTest_denied h clear, ne_eq, not_true, Bool.not_false, if_false, if_true]

end denied

section single

variable {tm : Nat} {tag : Byte} {addr : Word} {data : List Byte} {k : ReqKind} {len : Nat} (h : s.tables.Sound)
  (run : runKind k .farm none { code := k.code, tag := tag, len := len, addr := addr, data := data } (s.atTime tm)
    = refuse .denied (s.atTime tm))
include h run

/-- An unposted request denied, taken as a command of its own, has no effect (R149). -/
theorem single_denied (unposted : k.posted = false) :
    let t := single k tm .farm tag addr len data s
    OnlyPlaced ((s.atTime tm).answer { code := k.code, tag := tag, status := .denied, data := [] }) t
      ∧ t.tables = s.tables ∧ t.ctl.restarts.map Restart.kind = s.ctl.restarts.map Restart.kind := by
  have work := onlyPlaced_unposted run (by exact h) unposted
  exact ⟨work, work.frame.tables, work.frame.kinds⟩

/-- A posted request denied, taken as a command of its own, raises POSTED_FAILED and has no other effect (R149, R153). -/
theorem single_posted_denied (posted : k.posted = true) :
    let t := single k tm .farm tag addr len data s
    OnlyPlaced (raiseEvent .postedFailed (detail2 (byteFields k.code 2 0 0) addr) (s.atTime tm)) t
      ∧ t.tables = s.tables ∧ t.ctl.answers = s.ctl.answers := by
  let x := raiseEvent .postedFailed (detail2 (byteFields k.code 2 0 0) addr) (s.atTime tm)
  have now : (s.atTime tm).tables.Sound := h
  have tables : x.tables = s.tables := raiseEvent_tables _ _ now
  have sound : x.tables.Sound := tables ▸ h
  have reports : OnlyReported (s.atTime tm) x := onlyReported_raiseEvent ..
  have ends : single k tm .farm tag addr len data s = finish x := by
    have settled : settleOwed x = x := settleOwed_sound sound
    unfold single request postedEnds
    simp only [run, posted, if_true, Option.toList_none, List.append_nil]
    exact congrArg finish settled
  have work : OnlyPlaced x (finish x) := onlyPlaced_finish sound
  obtain ⟨rs, ctl⟩ := work.frame.ctl
  intro t
  rw [show t = finish x from ends]
  refine ⟨work, work.frame.tables.trans tables, ?_⟩
  rw [ctl]
  exact reports.answers

end single

/-- Settles O50: the gate's test by address and by flag, and what each request denied comes to. -/
theorem gateDenies : Obligations.GateDenies := by
  intro s tm tag addr data h
  have now : (s.atTime tm).tables.Sound := h
  refine ⟨gateFlag_sound h, gateAllows_false_iff h, fun c code command => ?_, fun c code command => ?_⟩
  · obtain ⟨rfl, rfl, len, place, closed⟩ | ⟨rfl, rfl, len, place, closed⟩ | ⟨rfl, rfl, len, place, closed⟩
      | ⟨rfl, rfl, len, place, closed⟩ | ⟨rfl, rfl, clear⟩ | ⟨p, rfl, rfl, clear⟩ | ⟨rfl, rfl, clear⟩
      | ⟨rfl, rfl, clear⟩ := command
    · exact ⟨_, rfl, single_denied (k := .write) h (runWrite_denied now len place closed) rfl⟩
    · exact ⟨_, rfl, single_denied (k := .maskWrite) h (runMaskWrite_denied now len place closed) rfl⟩
    · exact ⟨_, rfl, single_denied (k := .swapIf) h (runSwapIf_denied now len place closed) rfl⟩
    · exact ⟨_, rfl, single_denied (k := .addSat) h (runAddSat_denied now len place closed) rfl⟩
    · exact ⟨_, rfl, single_denied (k := .commit) h (runCommit_denied now rfl clear) rfl⟩
    · have number : byteNat [byteOf p.val] 0 = p.val := by revert p; decide
      exact ⟨_, rfl, single_denied (k := .pairRestart) h (runPairRestart_denied now rfl number clear) rfl⟩
    · exact ⟨_, rfl, single_denied (k := .groupRestart) h (runRestart_denied now rfl clear) rfl⟩
    · exact ⟨_, rfl, single_denied (k := .partReset) h (runRestart_denied now rfl clear) rfl⟩
  · obtain ⟨rfl, rfl, len, place, closed⟩ | ⟨rfl, rfl, len, place, closed⟩ | ⟨rfl, rfl, len, place, closed⟩ := command
    · exact ⟨_, rfl, single_posted_denied (k := .writePosted) h (runWrite_denied now len place closed) rfl⟩
    · exact ⟨_, rfl, single_posted_denied (k := .maskWritePosted) h (runMaskWrite_denied now len place closed) rfl⟩
    · exact ⟨_, rfl, single_posted_denied (k := .addSatPosted) h (runAddSat_denied now len place closed) rfl⟩

end Sys2Proof.Machine
end

section
/-! PROOFS of the family 09, third layer: the mailboxes (R156). Settles O55. -/

namespace Sys2Proof.Machine

variable {s : State}

/-! ### The box that a request names -/

theorem boxOf_asWord (b : Fin 2) : boxOf (asWord b.val) = some b := by revert b; decide

/-! ### Requests -/

section requests

variable {o : Origin} {r : Request} {b : Fin 2} (named : r.addr = asWord b.val)
include named

section post

variable (least : 1 ≤ r.data.length) (most : r.data.length ≤ 64)
include least most

/-- A post from the taking side is denied. -/
theorem runBoxPost_denied (side : o ≠ postsBox b) : runBoxPost o r s = refuse .denied s := by
  unfold runBoxPost
  rw [if_neg (by omega), named, boxOf_asWord]
  exact if_pos side

variable (side : o = postsBox b)
include side

/-- A FULL box refuses a post. -/
theorem runBoxPost_full (full : s.ctl.boxes[b.val].message ≠ []) : runBoxPost o r s = refuse .boxFull s := by
  unfold runBoxPost
  rw [if_neg (by omega), named, boxOf_asWord]
  exact (if_neg (not_not.mpr side)).trans (if_pos full)

/-- A post into an EMPTY box. -/
theorem runBoxPost_stores (empty : s.ctl.boxes[b.val].message = []) :
    runBoxPost o r s =
      { state := raiseEvent .boxArrived (detail1 (byteFields b.val r.data.length 0 0))
          (setBox b { s.ctl.boxes[b.val] with message := r.data } s)
        status := .ok, data := [] } := by
  unfold runBoxPost
  rw [if_neg (by omega), named, boxOf_asWord]
  exact (if_neg (not_not.mpr side)).trans (if_neg (not_not.mpr empty))

end post

variable (noData : r.len = 0) (side : o ≠ postsBox b)
include noData side

/-- An EMPTY box refuses a take and a release. -/
theorem runBoxTake_empty (empty : s.ctl.boxes[b.val].message = []) : runBoxTake o r s = refuse .boxEmpty s := by
  unfold runBoxTake
  rw [if_neg (not_not.mpr noData), named, boxOf_asWord]
  exact (if_neg side).trans (if_pos empty)

theorem runBoxRelease_empty (empty : s.ctl.boxes[b.val].message = []) : runBoxRelease o r s = refuse .boxEmpty s := by
  unfold runBoxRelease
  rw [if_neg (not_not.mpr noData), named, boxOf_asWord]
  exact (if_neg side).trans (if_pos empty)

variable (full : s.ctl.boxes[b.val].message ≠ [])
include full

/-- A take returns the message, and empties the box unless its keep flag is set. -/
theorem runBoxTake_full :
    runBoxTake o r s = { state := if s.ctl.boxes[b.val].keep then s else setBox b { s.ctl.boxes[b.val] with message := [] } s
                         status := .ok, data := s.ctl.boxes[b.val].message } := by
  unfold runBoxTake
  rw [if_neg (not_not.mpr noData), named, boxOf_asWord]
  exact (if_neg side).trans (if_neg full)

theorem runBoxRelease_full :
    runBoxRelease o r s = { state := setBox b { s.ctl.boxes[b.val] with message := [] } s, status := .ok, data := [] } := by
  unfold runBoxRelease
  rw [if_neg (not_not.mpr noData), named, boxOf_asWord]
  exact (if_neg side).trans (if_neg full)

end requests

/-- A message posted into an EMPTY box by a command of its own. -/
theorem single_boxPost (h : s.tables.Sound) {tm : Nat} {o : Origin} {tag : Byte} {b : Fin 2} {data : List Byte} (least : 1 ≤ data.length)
    (most : data.length ≤ 64) (side : o = postsBox b) (empty : s.ctl.boxes[b.val].message = []) :
    let t := single .boxPost tm o tag (asWord b.val) data.length data s
    t.ctl.boxes = s.ctl.boxes.set b.val { s.ctl.boxes[b.val] with message := data }
      ∧ t.ctl.answers = s.ctl.answers ++ [{ code := 0x40, tag := tag, status := .ok, data := [] }]
      ∧ t.event .boxArrived = (s.event .boxArrived).occur (detail1 (byteFields b.val data.length 0 0)) := by
  let x := setBox b { s.ctl.boxes[b.val] with message := data } (s.atTime tm)
  let d := detail1 (byteFields b.val data.length 0 0)
  have sound : x.tables.Sound := h
  have reports : OnlyReported x (raiseEvent .boxArrived d x) := onlyReported_raiseEvent ..
  have run : runKind .boxPost o none ⟨ReqKind.boxPost.code, tag, data.length, asWord b.val, data⟩ (s.atTime tm)
      = { state := raiseEvent .boxArrived d x, status := .ok, data := [] } := runBoxPost_stores rfl least most side empty
  have work := (onlyPlaced_unposted run (by exact (raiseEvent_tables .boxArrived d sound) ▸ sound) rfl).frame
  obtain ⟨rs, ctl⟩ := work.ctl
  refine ⟨?_, ?_, ?_⟩
  · rw [ctl]
    exact reports.boxes
  · have answers := single_answers run rfl
    rw [reports.answers] at answers
    exact answers
  · exact (work.event _).trans ((raiseEvent_event_sound _ _ d sound).trans (if_pos rfl))

/-- Settles O55: each outcome is the request's own, and then the end of the command. -/
theorem mailboxRequests : Obligations.MailboxRequests := by
  intro s tm tag b data poster taker h first second
  have now : (s.atTime tm).tables.Sound := h
  have sides : poster = postsBox b ∧ taker ≠ postsBox b := by
    fin_cases b
    · obtain ⟨rfl, rfl⟩ := first rfl
      decide
    · obtain ⟨rfl, rfl⟩ := second rfl
      decide
  obtain ⟨posts, takes⟩ := sides
  refine ⟨fun least most => ⟨fun empty => ?_, fun full => ?_, ?_⟩, fun full => ⟨?_, ?_⟩, fun empty => ⟨?_, ?_⟩⟩
  · exact ⟨_, rfl, single_boxPost h least most posts empty⟩
  · exact ⟨_, rfl, onlyPlaced_unposted (k := .boxPost) (runBoxPost_full rfl least most posts full) now rfl⟩
  · exact ⟨_, rfl, onlyPlaced_unposted (k := .boxPost) (runBoxPost_denied rfl least most takes) now rfl⟩
  · refine ⟨_, rfl, onlyPlaced_unposted (k := .boxTake) (runBoxTake_full rfl rfl takes full) ?_ rfl⟩
    dsimp only
    split
    · exact now
    · exact now
  · exact ⟨_, rfl, onlyPlaced_unposted (k := .boxRelease) (runBoxRelease_full rfl rfl takes full) now rfl⟩
  · exact ⟨_, rfl, onlyPlaced_unposted (k := .boxTake) (runBoxTake_empty rfl rfl takes empty) now rfl⟩
  · exact ⟨_, rfl, onlyPlaced_unposted (k := .boxRelease) (runBoxRelease_empty rfl rfl takes empty) now rfl⟩

end Sys2Proof.Machine
end

section
/-! PROOFS of the family 09, fourth layer: the control frame queue through departures, the group's fall and head processing, which only
add frames at its end (R143). -/

namespace Sys2Proof.Machine

/-! ### Steps that leave the queue alone -/

theorem Tallied.ctlQueue {s t : State} (h : Tallied s t) : t.ctl.queue = s.ctl.queue := by
  obtain ⟨_, _, rfl⟩ := h
  rfl

/-- Steps that each leave the control frame queue alone leave it alone one after another. -/
theorem ctlQueue_foldl {α : Type} {f : State → α → State} (hf : ∀ s a, (f s a).ctl.queue = s.ctl.queue) (l : List α) (s : State) :
    (l.foldl f s).ctl.queue = s.ctl.queue := by
  induction l generalizing s with
  | nil => rfl
  | cons a l ih => exact (ih (f s a)).trans (hf s a)

section steps

variable (s : State)

theorem ctlQueue_giveUp (p : PairIx) (keep : Bool) : (giveUp p keep s).ctl.queue = s.ctl.queue := by
  obtain ⟨_, -, tallied⟩ := giveUp_shape p keep s
  exact tallied.ctlQueue

theorem ctlQueue_suspendShortcut : (suspendShortcut s).ctl.queue = s.ctl.queue := (onlyReported_touch (.group .active 0x03) s).ctlQueue

theorem ctlQueue_depart (p : PairIx) (left target : PairState) (cause : Cause) (cmd : XcvrCmd) (keep : Bool) :
    (depart p left target cause cmd keep s).ctl.queue = s.ctl.queue := by
  have raised (k : EventKind) (d : Detail) : (raiseEvent k d (departPort p target cause cmd keep s)).ctl.queue = s.ctl.queue :=
    (onlyReported_raiseEvent k d _).ctlQueue.trans (ctlQueue_giveUp s p keep)
  unfold depart
  dsimp only
  split
  · exact (ctlQueue_suspendShortcut _).trans (raised _ _)
  · exact raised _ _

theorem ctlQueue_toDown (p : PairIx) (cause : Cause) : (toDown p cause s).ctl.queue = s.ctl.queue := by
  rw [toDown_eq, ctlQueue_depart]
  exact (onlyReported_touch (.group .active 0x02) (setPairState p .down s)).ctlQueue

theorem ctlQueue_drainCheck (p : PairIx) : (drainCheck p s).ctl.queue = s.ctl.queue := by
  unfold drainCheck
  split
  · exact ctlQueue_depart ..
  · rfl

theorem ctlQueue_clearDistributor : (clearDistributor s).ctl.queue = s.ctl.queue := by
  have tested (x : State) : (if s.dist.fip.isSome then epochTest x else x).ctl.queue = x.ctl.queue := by
    split
    · exact (onlyReported_epochTest x).ctlQueue
    · rfl
  have discarded (fs : List Frag) (x : State) : (fs.foldl discardFrag x).ctl.queue = x.ctl.queue :=
    (tallied_foldl tallied_discardFrag fs x).ctlQueue
  unfold clearDistributor
  dsimp only
  split
  · exact (tallied_discardFrag _ _).ctlQueue.trans ((discarded _ _).trans (tested _))
  · exact (discarded _ _).trans (tested _)

theorem ctlQueue_flushClassifier : (flushClassifier s).ctl.queue = s.ctl.queue := by
  have flushed := ctlQueue_foldl (f := flushQueue) (fun s c => by
    obtain ⟨_, tallied⟩ := flushQueue_shape c s
    exact tallied.ctlQueue) [0, 1, 2, 3] s
  unfold flushClassifier
  dsimp only
  generalize ([0, 1, 2, 3] : List ClassIx).foldl flushQueue s = x at flushed ⊢
  exact flushed

theorem ctlQueue_fallBlocks : (fallBlocks s).ctl.queue = s.ctl.queue := by
  rw [fallBlocks_eq, ctlQueue_foldl (f := fun s p => drainCheck p s) fun x p => ctlQueue_drainCheck x p]
  unfold cleared
  rw [State.updReas_ctl, ctlQueue_flushClassifier, ctlQueue_clearDistributor]
  exact ctlQueue_foldl (fun x p => ctlQueue_giveUp x p false) allPairs s

theorem ctlQueue_groupFall : (groupFall s).ctl.queue = s.ctl.queue := by
  unfold groupFall raiseGroupDown
  dsimp only
  rw [ctlQueue_fallBlocks]
  exact (onlyReported_raiseEvent ..).ctlQueue

theorem ctlQueue_groupRise : (groupRise s).ctl.queue = s.ctl.queue := by
  unfold groupRise
  dsimp only
  exact (onlyReported_raiseEvent ..).ctlQueue

theorem ctlQueue_evaluateGroup : (evaluateGroup s).ctl.queue = s.ctl.queue := by
  have met : (touchGroup 0x02 s).ctl.queue = s.ctl.queue := (onlyReported_touch _ s).ctlQueue
  obtain ⟨same, -⟩ | ⟨falls, -⟩ | ⟨rises, -⟩ := evaluateGroup_cases s
  · rw [same, met]
  · rw [falls, ctlQueue_groupFall, met]
  · rw [rises, ctlQueue_groupRise, met]

end steps

theorem OnlyPlaced.ctlQueue {s t : State} (h : OnlyPlaced s t) : t.ctl.queue = s.ctl.queue := by
  obtain ⟨_, ctl⟩ := h.frame.ctl
  rw [ctl]

/-! ### Head processing -/

/-- The control frame queue keeps its frames and may take more at its end (R143). -/
def QueueGrows (s t : State) : Prop := s.ctl.queue <+: t.ctl.queue

theorem QueueGrows.of_same {s t : State} (h : t.ctl.queue = s.ctl.queue) : QueueGrows s t := by rw [QueueGrows, h]

theorem QueueGrows.trans {s t u : State} (h : QueueGrows s t) (k : QueueGrows t u) : QueueGrows s u := List.IsPrefix.trans h k

section head

variable (s : State)

theorem queueGrows_controlArrive (o : Origin) (bytes : List Byte) : QueueGrows s (controlArrive o bytes s) := by
  unfold controlArrive
  split
  · exact List.prefix_append ..
  · exact .of_same rfl

theorem queueGrows_deliver (bytes : List Byte) (blocks : Nat) : QueueGrows s (deliver bytes blocks s) := by
  have read : QueueGrows s (if longEnough bytes && frameType bytes == controlType then touchGroup 0x0F (touchGroup 0x0E s) else s) := by
    split
    · exact .of_same ((onlyReported_touch _ _).ctlQueue.trans (onlyReported_touch _ s).ctlQueue)
    · exact .of_same rfl
  unfold deliver
  dsimp only
  refine read.trans ?_
  generalize (if longEnough bytes && frameType bytes == controlType then touchGroup 0x0F (touchGroup 0x0E s) else s) = x
  split
  · exact queueGrows_controlArrive x .line bytes
  · exact .of_same rfl

theorem queueGrows_takeComplete (h : Gsn) (es : List Entry) : QueueGrows s (takeComplete h es s) := by
  unfold takeComplete
  dsimp only
  split_ifs
  · exact .of_same rfl
  · exact .of_same rfl
  · exact queueGrows_deliver (s.updReas fun r => r.take h es) _ _

/-- A step of head processing adds a control frame where it delivers one, and otherwise none (R104). -/
theorem queueGrows_headStep {s t : State} (step : headStep s = some t) : QueueGrows s t := by
  unfold headStep at step
  split at step
  · split at step
    · cases step
    · split_ifs at step
      · cases step
        exact .of_same rfl
      · cases step
        exact .of_same rfl
      · cases step
        exact .of_same rfl
      · split at step
        · cases step
          exact .of_same rfl
        · cases step
          exact queueGrows_takeComplete ..
        · split_ifs at step
          cases step
          exact .of_same rfl
  · cases step

theorem queueGrows_headLoop (n : Nat) : QueueGrows s (headLoop n s) := by
  induction n generalizing s with
  | zero => exact .of_same rfl
  | succ n ih =>
    unfold headLoop
    split
    · exact .of_same rfl
    · next step => exact (queueGrows_headStep step).trans (ih _)

theorem queueGrows_declareGap (cause : GapCause) : QueueGrows s (declareGap cause s) := by
  unfold declareGap
  split
  · exact .of_same rfl
  · dsimp only
    refine QueueGrows.trans ?_ (queueGrows_headLoop _ _)
    split
    · exact .of_same rfl
    · exact .of_same rfl

theorem queueGrows_setHold : QueueGrows s (setHold s) := by
  unfold setHold
  split
  · split
    · exact .of_same rfl
    · exact .of_same (onlyReported_touch (.group .active 0x03) s).ctlQueue
  · exact .of_same rfl

theorem queueGrows_testsN (n : Nat) : QueueGrows s (testsN n s) := by
  induction n generalizing s with
  | zero => exact .of_same rfl
  | succ n ih =>
    unfold testsN
    split
    · exact (queueGrows_declareGap s _).trans (ih _)
    · dsimp only
      split
      · exact (queueGrows_setHold s).trans ((queueGrows_declareGap _ _).trans (ih _))
      · exact queueGrows_setHold s

theorem queueGrows_testShortcut : QueueGrows s (testShortcut s) := by
  unfold testShortcut
  split
  · exact queueGrows_testsN ..
  · exact .of_same rfl

/-- A pair restart on sound table memory: the shortcut's test after the departure may deliver control frames (R20, R112, R143). -/
theorem queueGrows_restartPair {s : State} (h : s.tables.Sound) (p : PairIx) : QueueGrows s (restartPair p s) := by
  unfold restartPair
  split
  · exact .of_same rfl
  · have sound := (blockFrame_toDown p .restart s).isSound h
    have evaluated : QueueGrows s (evaluateGroup (toDown p .restart s)) :=
      .of_same ((ctlQueue_evaluateGroup _).trans (ctlQueue_toDown s p .restart))
    exact evaluated.trans ((queueGrows_testShortcut _).trans (.of_same (onlyPlaced_pairChanged sound).ctlQueue))

end head

end Sys2Proof.Machine
end

section
/-! PROOFS of the family 09, fifth layer: what the requests of a control frame keep on sound table memory, the response, and the frame's
execution (R144..R146, R155, R157). Settles O47. -/

namespace Sys2Proof.Machine

variable {s : State}

/-! ### What a request keeps -/

/-- What a request does to the control engine's own records on sound table memory, which it leaves sound: the control frame queue may
take more frames at its end, and the number of the next response stays. -/
structure Requested (s t : State) : Prop where
  sound : t.tables.Sound
  queue : QueueGrows s t
  nextResp : t.ctl.nextResp = s.ctl.nextResp

theorem Requested.refl (h : s.tables.Sound) : Requested s s := ⟨h, .of_same rfl, rfl⟩

theorem Requested.trans {t u : State} (h : Requested s t) (k : Requested t u) : Requested s u :=
  ⟨k.sound, h.queue.trans k.queue, k.nextResp.trans h.nextResp⟩

theorem OnlyReported.requested {t : State} (h : OnlyReported s t) (sound : t.tables.Sound) : Requested s t :=
  ⟨sound, .of_same h.ctlQueue, h.nextResp⟩

/-- Requests that each keep what `Requested` names keep it one after another. -/
theorem requested_foldl {α β : Type} {f : β → α → β} {state : β → State}
    (hf : ∀ b a, (state b).tables.Sound → Requested (state b) (state (f b a))) (l : List α) (b : β) (h : (state b).tables.Sound) :
    Requested (state b) (state (l.foldl f b)) := by
  induction l generalizing b with
  | nil => exact .refl h
  | cons a l ih =>
    have one := hf b a h
    exact one.trans (ih (f b a) one.sound)

/-- A branch of a request's outcome. -/
theorem requested_ite {x y : Outcome} {b : Prop} [Decidable b] (hx : b → Requested s x.state) (hy : ¬b → Requested s y.state) :
    Requested s (if b then x else y).state := by
  split
  · next h => exact hx h
  · next h => exact hy h

section kinds

variable (h : s.tables.Sound) (o : Origin) (r : Request)
include h

theorem requested_raiseEvent (k : EventKind) (d : Detail) : Requested s (raiseEvent k d s) :=
  (onlyReported_raiseEvent k d s).requested (raiseEvent_tables k d h ▸ h)

theorem requested_enableKind (v : Word) (i : Fin 15) : Requested s (enableKind v s i) := by
  have sound : (enableKind v s i).tables.Sound := (enableKind_kinds h v i).1 ▸ h
  refine OnlyReported.requested ?_ sound
  unfold enableKind
  dsimp only
  split
  · exact (onlyReported_updEvents s _).trans (onlyReported_newPending _)
  · exact onlyReported_updEvents s _

/-- A word stored at a place (R151). -/
theorem requested_storePlace (v : Word) (p : Place) : Requested s (storePlace v p s).1 := by
  have shadow (q : TRef) : Requested s (storeShadow q v s) := by
    rw [storeShadow_sound h]
    exact ⟨(h.store q _).records .., .of_same rfl, rfl⟩
  unfold storePlace
  split
  · exact shadow _
  · exact shadow _
  · exact shadow _
  · exact ⟨h.store .gate _, .of_same rfl, rfl⟩
  · exact ⟨h, .of_same rfl, rfl⟩
  · exact ⟨h, .of_same rfl, rfl⟩
  · exact ⟨h.records .., .of_same rfl, rfl⟩
  · exact ⟨h.records .., .of_same rfl, rfl⟩
  · exact ⟨h.records .., .of_same rfl, rfl⟩
  · exact requested_foldl (state := id) (fun x i hx => requested_enableKind hx v i) _ s h
  · exact ⟨h, .of_same rfl, rfl⟩
  · exact .refl h

theorem gateWrite_sound (as : List Nat) : (gateWrite o as s).1 = s := by
  unfold gateWrite
  split
  · rfl
  · simp only [useWord_sound h, ite_self]

theorem gateFlagTest_sound (i : Nat) : (gateFlagTest o i s).1 = s := by
  unfold gateFlagTest
  split
  · rfl
  · exact useWord_sound h

theorem requested_answerVacant (n : Nat) : Requested s (answerVacant o r n s).state := requested_raiseEvent h ..

theorem requested_runRead : Requested s (runRead o r s).state := by
  refine requested_ite (fun _ => .refl h) fun _ => requested_ite (fun _ => requested_answerVacant h o r _) fun _ => ?_
  rw [foldl_readWord_sound h]
  exact .refl h

theorem requested_runWrite : Requested s (runWrite o r s).state := by
  refine requested_ite (fun _ => .refl h) fun _ => requested_ite (fun _ => requested_answerVacant h o r _) fun _ => ?_
  dsimp only
  rw [gateWrite_sound h]
  refine requested_ite (fun _ => .refl h) fun _ => ?_
  exact requested_foldl (state := Outcome.state) (f := writeWord) (fun x a hx => requested_storePlace hx a.2 (placeAt a.1)) _
    { state := s, status := .ok, data := [] } h

theorem requested_runOneWord (n : Nat) (f : NewWord) : Requested s (runOneWord n f o r s).state := by
  refine requested_ite (fun _ => .refl h) fun _ => requested_ite (fun _ => requested_answerVacant h o r _) fun _ => ?_
  dsimp only
  rw [gateWrite_sound h, meetPlace_sound h]
  refine requested_ite (fun _ => .refl h) fun _ => ?_
  split
  · exact .refl h
  · refine requested_ite (fun _ => .refl h) fun _ => ?_
    split
    · exact .refl h
    · exact requested_storePlace h ..

theorem requested_runCommit : Requested s (runCommit o r s).state := by
  have pending : (s.updTables fun t => { t with commitPending := true }).tables.Sound := h.records ..
  refine requested_ite (fun _ => .refl h) fun _ => ?_
  dsimp only
  rw [gateFlagTest_sound h, epochTest_sound pending]
  exact requested_ite (fun _ => .refl h) fun _ => requested_ite (fun _ => .refl h) fun _ => ⟨pending, .of_same rfl, rfl⟩

theorem requested_runDigest : Requested s (runDigest r s).state :=
  requested_ite (fun _ => .refl h) fun _ => requested_ite (fun _ => .refl h) fun _ => requested_ite (fun _ => .refl h) fun _ =>
    ⟨h.records .., .of_same rfl, rfl⟩

theorem requested_runEventNext : Requested s (runEventNext r s).state := by
  refine requested_ite (fun _ => .refl h) fun _ => ?_
  split
  · exact .refl h
  · exact ⟨h, .of_same rfl, rfl⟩

theorem requested_runEventClear : Requested s (runEventClear r s).state :=
  requested_ite (fun _ => .refl h) fun _ => ⟨h, .of_same rfl, rfl⟩

theorem requested_restartPair (p : PairIx) : Requested s (restartPair p s) := by
  have frame : BlockFrame s (restartPair p s) := by
    unfold restartPair
    split
    · exact (Settles.refl s).toBlockFrame
    · exact (blockFrame_toDown p .restart s).trans (settles_pairChanged _).toBlockFrame
  exact ⟨frame.isSound h, queueGrows_restartPair h p, frame.nextResp⟩

theorem requested_runPairRestart : Requested s (runPairRestart o r s).state := by
  unfold runPairRestart
  refine requested_ite (fun _ => .refl h) fun _ => ?_
  split
  · dsimp only
    rw [gateFlagTest_sound h]
    exact requested_ite (fun _ => .refl h) fun _ => requested_restartPair h _
  · exact .refl h

theorem requested_runRestart (k : RestartKind) (i : Nat) (n : Option Nat) : Requested s (runRestart k i o n r s).state := by
  refine requested_ite (fun _ => .refl h) fun _ => ?_
  dsimp only
  rw [gateFlagTest_sound h]
  exact requested_ite (fun _ => .refl h) fun _ => ⟨h, .of_same rfl, rfl⟩

theorem requested_setBox (b : Fin 2) (m : Mailbox) : Requested s (setBox b m s) := ⟨h, .of_same rfl, rfl⟩

theorem requested_runBoxPost : Requested s (runBoxPost o r s).state := by
  refine requested_ite (fun _ => .refl h) fun _ => ?_
  split
  · exact .refl h
  · refine requested_ite (fun _ => .refl h) fun _ => requested_ite (fun _ => .refl h) fun _ => ?_
    exact (requested_setBox h ..).trans (requested_raiseEvent (by exact h) ..)

theorem requested_runBoxTake : Requested s (runBoxTake o r s).state := by
  refine requested_ite (fun _ => .refl h) fun _ => ?_
  split
  · exact .refl h
  · refine requested_ite (fun _ => .refl h) fun _ => requested_ite (fun _ => .refl h) fun _ => ?_
    dsimp only
    split
    · exact .refl h
    · exact requested_setBox h ..

theorem requested_runBoxRelease : Requested s (runBoxRelease o r s).state := by
  refine requested_ite (fun _ => .refl h) fun _ => ?_
  split
  · exact .refl h
  · exact requested_ite (fun _ => .refl h) fun _ => requested_ite (fun _ => .refl h) fun _ => requested_setBox h ..

theorem requested_runKind (k : ReqKind) (n : Option Nat) : Requested s (runKind k o n r s).state := by
  cases k with
  | read => exact requested_runRead h o r
  | write | writePosted => exact requested_runWrite h o r
  | maskWrite | maskWritePosted | swapIf | addSat | addSatPosted => exact requested_runOneWord h o r _ _
  | commit => exact requested_runCommit h o r
  | digest => exact requested_runDigest h r
  | eventNext => exact requested_runEventNext h r
  | eventClear => exact requested_runEventClear h r
  | pairRestart => exact requested_runPairRestart h o r
  | groupRestart | partReset => exact requested_runRestart h o r _ _ n
  | boxPost => exact requested_runBoxPost h o r
  | boxTake => exact requested_runBoxTake h o r
  | boxRelease => exact requested_runBoxRelease h o r

theorem requested_request (k : ReqKind) (n : Option Nat) : Requested s (request k o n r s).1 := by
  have ran := requested_runKind h o r k n
  have ended : Requested (runKind k o n r s).state (postedEnds r (runKind k o n r s)) := by
    unfold postedEnds
    split
    · exact .refl ran.sound
    · exact requested_raiseEvent ran.sound ..
  unfold request
  dsimp only
  split
  · rw [settleOwed_sound ended.sound]
    exact ran.trans ended
  · rw [settleOwed_sound ran.sound]
    exact ran

end kinds

/-- The requests of a control frame executed in order (R145). -/
theorem requested_frameRequests (o : Origin) (n : Option Nat) (rs : List Request) (acc : State × List Record)
    (h : acc.1.tables.Sound) : Requested acc.1 (rs.foldl (frameRequest o n) acc).1 := by
  refine requested_foldl (state := Prod.fst) (f := frameRequest o n) (fun acc r hx => ?_) rs acc h
  unfold frameRequest
  split
  · exact .refl hx
  · exact requested_request hx o r _ n

/-! ### The response -/

section response

variable (h : s.tables.Sound)
include h

/-- An internal frame offered with the group UP, on sound table memory (R65). -/
theorem admitInternal_up (up : s.groupUp = true) (bytes : List Byte) (resp : Option Nat) :
    admitInternal bytes resp s = if s.internalRoom bytes.length
      then ((s.setQueue 3 (s.queue 3 ++ [{ cut := 0, uncut := bytes, ended := true, resp := resp }])).bump (.admitted 3), true)
      else (s.bump (.queueFull 3), false) := by
  unfold admitInternal admitInternalWith
  rw [if_pos up, touch_sound h]

/-- A LINE response is admitted where there is room (R146). -/
theorem handOn_admitted (up : s.groupUp = true) {bytes : List Byte} (room : s.internalRoom bytes.length = true) (id : Nat) :
    handOn .line bytes id s
      = (s.setQueue 3 (s.queue 3 ++ [{ cut := 0, uncut := bytes, ended := true, resp := some id }])).bump (.admitted 3) := by
  unfold handOn
  rw [admitInternal_up h up, if_pos room]
  rfl

/-- A LINE response without room is lost (R155). -/
theorem handOn_full (up : s.groupUp = true) {bytes : List Byte} (room : s.internalRoom bytes.length = false) (id : Nat) :
    handOn .line bytes id s = responseLeft id (s.bump (.queueFull 3)) := by
  unfold handOn
  rw [admitInternal_up h up, if_neg (by simp [room])]
  rfl

omit h in
/-- A LINE response with the group DOWN is lost (R155). -/
theorem handOn_down (down : s.groupUp = false) (bytes : List Byte) (id : Nat) :
    handOn .line bytes id s = responseLeft id (s.bump .groupDownDrops) := by
  unfold handOn admitInternal admitInternalWith
  rw [if_neg (by simp [down])]
  rfl

/-- What handing a response on leaves alone (R146). -/
theorem handOn_keeps (o : Origin) (bytes : List Byte) (id : Nat) :
    (handOn o bytes id s).ctl.queue = s.ctl.queue ∧ (handOn o bytes id s).ctl.nextResp = s.ctl.nextResp
      ∧ (handOn o bytes id s).tables = s.tables ∧ (handOn o bytes id s).events = s.events
      ∧ (handOn o bytes id s).counter .malformedFrames = s.counter .malformedFrames := by
  cases o with
  | farm => exact ⟨rfl, rfl, rfl, rfl, rfl⟩
  | line =>
    cases up : s.groupUp with
    | false =>
      rw [handOn_down up]
      exact ⟨rfl, rfl, rfl, rfl, State.bump_counter_ne _ _ _ (by decide)⟩
    | true =>
      cases room : s.internalRoom bytes.length with
      | false =>
        rw [handOn_full h up room]
        exact ⟨rfl, rfl, rfl, rfl, State.bump_counter_ne _ _ _ (by decide)⟩
      | true =>
        rw [handOn_admitted h up room]
        exact ⟨rfl, rfl, rfl, rfl, State.bump_counter_ne _ _ _ (by decide)⟩

/-- The response built and handed on, and the frame dropped from the queue, on sound table memory (R145). -/
theorem respond_sound (f : CtlFrame) (st : Status) (rs : List Record) :
    respond f st rs s
      = (handOn f.origin (ownFrame (sourceOf f.bytes) s.station (responseBody st rs)) s.ctl.nextResp
          (s.updCtl fun c => { c with nextResp := c.nextResp + 1 })).updCtl fun c => { c with queue := c.queue.tail } := by
  unfold respond
  rw [touchGroup_sound h, touchGroup_sound h]

/-- The state once the frame has left the queue and response `id` has been numbered (R145). -/
def State.dropFrame (s : State) (id : Nat) : State := s.updCtl fun c => { c with queue := c.queue.tail, nextResp := id + 1 }

section cases

variable {f : CtlFrame} {st : Status} {rs : List Record} {id : Nat} {bytes : List Byte} (number : s.ctl.nextResp = id)
  (built : bytes = ownFrame (sourceOf f.bytes) s.station (responseBody st rs))
include number built

/-- A FARM response stands in the farm response slot (R146). -/
theorem respond_farm (origin : f.origin = .farm) :
    respond f st rs s = (s.dropFrame id).updCtl fun c =>
      { c with respSlot := some { bytes := bytes, resp := id }, farmOrder := c.farmOrder ++ [.response] } := by
  subst number built
  rw [respond_sound h, origin]
  rfl

variable (origin : f.origin = .line)
include origin

theorem respond_admitted (up : s.groupUp = true) (room : s.internalRoom bytes.length = true) :
    respond f st rs s = ((s.dropFrame id).setQueue 3 ((s.dropFrame id).queue 3
      ++ [{ cut := 0, uncut := bytes, ended := true, resp := some id }])).bump (.admitted 3) := by
  subst number built
  rw [respond_sound h, origin, handOn_admitted (by exact h) (by exact up) (by exact room)]
  rfl

theorem respond_full (up : s.groupUp = true) (room : s.internalRoom bytes.length = false) :
    respond f st rs s = (responseLeft id (s.dropFrame id)).bump (.queueFull 3) := by
  subst number built
  rw [respond_sound h, origin, handOn_full (by exact h) (by exact up) (by exact room)]
  rfl

omit built in
theorem respond_down (down : s.groupUp = false) :
    respond f st rs s = (responseLeft id (s.dropFrame id)).bump .groupDownDrops := by
  subst number
  rw [respond_sound h, origin, handOn_down (by exact down)]
  rfl

end cases

/-- What a response does to the control engine, whatever its origin (R145, R146). -/
theorem respond_keeps (f : CtlFrame) (st : Status) (rs : List Record) :
    (respond f st rs s).ctl.queue = s.ctl.queue.tail ∧ (respond f st rs s).ctl.nextResp = s.ctl.nextResp + 1
      ∧ (respond f st rs s).tables = s.tables ∧ (respond f st rs s).events = s.events
      ∧ (respond f st rs s).counter .malformedFrames = s.counter .malformedFrames
      ∧ (f.origin = .farm → (respond f st rs s).ctl.respSlot
          = some { bytes := ownFrame (sourceOf f.bytes) s.station (responseBody st rs), resp := s.ctl.nextResp }) := by
  obtain ⟨queue, number, tables, events, malformed⟩ := handOn_keeps (s := s.updCtl fun c => { c with nextResp := c.nextResp + 1 })
    h f.origin (ownFrame (sourceOf f.bytes) s.station (responseBody st rs)) s.ctl.nextResp
  refine ⟨?_, ?_, ?_, ?_, ?_, fun origin => ?_⟩
  · rw [respond_sound h]
    exact congrArg List.tail queue
  · rw [respond_sound h]
    exact number
  · rw [respond_sound h]
    exact tables
  · rw [respond_sound h]
    exact events
  · rw [respond_sound h]
    exact malformed
  · rw [respond_farm h rfl rfl origin]
    rfl

theorem sound_respond (f : CtlFrame) (st : Status) (rs : List Record) : (respond f st rs s).tables.Sound := by
  obtain ⟨-, -, tables, -⟩ := respond_keeps h f st rs
  exact tables ▸ h

end response

/-! ### The execution of a control frame -/

/-- A malformed frame is counted and answered so (R144, R157). -/
theorem executeFrame_malformed {f : CtlFrame} (malformed : parseControl f.bytes = none) :
    executeFrame f s = respond f .malformed [] (s.bump .malformedFrames) := by
  unfold executeFrame
  simp only [malformed]

/-- The requests of a well-formed frame executed, and their records (R145). -/
theorem executeFrame_parsed {f : CtlFrame} {rs : List Request} (parsed : parseControl f.bytes = some rs) :
    executeFrame f s = respond f .ok (rs.foldl (frameRequest f.origin (some s.ctl.nextResp)) (s, [])).2
      (rs.foldl (frameRequest f.origin (some s.ctl.nextResp)) (s, [])).1 := by
  unfold executeFrame
  simp only [parsed]

/-- A control frame is answered once what it asks for has been done (R145). -/
theorem executeFrame_responds (h : s.tables.Sound) (f : CtlFrame) :
    ∃ x st rs, Requested s x ∧ executeFrame f s = respond f st rs x := by
  cases parsed : parseControl f.bytes with
  | none => exact ⟨s.bump .malformedFrames, _, _, ⟨h, .of_same rfl, rfl⟩, executeFrame_malformed parsed⟩
  | some rs => exact ⟨_, _, _, requested_frameRequests f.origin _ rs (s, []) h, executeFrame_parsed parsed⟩

/-- What the end of a command keeps of the control engine. -/
theorem finish_keeps (h : s.tables.Sound) :
    (finish s).ctl.queue = s.ctl.queue ∧ (finish s).ctl.nextResp = s.ctl.nextResp ∧ (finish s).ctl.respSlot = s.ctl.respSlot
      ∧ (finish s).tables = s.tables ∧ (finish s).events = s.events
      ∧ (finish s).counter .malformedFrames = s.counter .malformedFrames := by
  have work := (onlyPlaced_finish h).frame
  obtain ⟨_, ctl⟩ := work.ctl
  rw [ctl]
  exact ⟨rfl, rfl, rfl, work.tables, work.events, work.counters _ (by decide)⟩

theorem exec_controlFrameExecute {f : CtlFrame} (next : s.nextFrame = some f) (tm : Nat) :
    exec (.controlFrameExecute tm) s = .next (finish (executeFrame f (s.atTime tm))) := by
  have same : (s.atTime tm).nextFrame = some f := next
  change execControlFrameExecute tm s = _
  unfold execControlFrameExecute
  simp only [same]

theorem nextFrame_queue {f : CtlFrame} (next : s.nextFrame = some f) : ∃ rest, s.ctl.queue = f :: rest := by
  unfold State.nextFrame at next
  split at next
  · cases next
  · next g rest queue =>
    split at next
    · cases next
    · cases next
      exact ⟨rest, queue⟩

/-- A control frame executed, to the end of the command (R144..R146, R157). -/
theorem finish_executeFrame (h : s.tables.Sound) {f : CtlFrame} {rest : List CtlFrame} (queue : s.ctl.queue = f :: rest) :
    let t := finish (executeFrame f s)
    (∃ new, t.ctl.queue = s.ctl.queue.tail ++ new) ∧ t.ctl.nextResp = s.ctl.nextResp + 1
      ∧ (f.origin = .farm → ∃ b, t.ctl.respSlot = some { bytes := b, resp := s.ctl.nextResp }) := by
  obtain ⟨x, st, rs, asked, run⟩ := executeFrame_responds h f
  obtain ⟨dropped, number, -, -, -, slot⟩ := respond_keeps asked.sound f st rs
  obtain ⟨queueEnd, numberEnd, slotEnd, -⟩ := finish_keeps (sound_respond asked.sound f st rs)
  obtain ⟨new, grown⟩ := asked.queue
  rw [run]
  refine ⟨⟨new, ?_⟩, ?_, fun origin => ?_⟩
  · rw [queueEnd, dropped, ← grown, queue]
    rfl
  · rw [numberEnd, number, asked.nextResp]
  · rw [slotEnd, slot origin, asked.nextResp]
    exact ⟨_, rfl⟩

/-- A malformed control frame, to the end of the command (R144, R146, R157). -/
theorem finish_malformed (h : s.tables.Sound) {f : CtlFrame} (malformed : parseControl f.bytes = none) :
    let t := finish (executeFrame f s)
    t.ctl.queue = s.ctl.queue.tail ∧ t.counter .malformedFrames = satInc32 (s.counter .malformedFrames) ∧ t.tables = s.tables
      ∧ t.events = s.events
      ∧ (f.origin = .farm → t.ctl.respSlot = some
          { bytes := ownFrame (sourceOf f.bytes) s.station (responseBody .malformed []), resp := s.ctl.nextResp }) := by
  have counted : (s.bump .malformedFrames).tables.Sound := h
  obtain ⟨dropped, -, tables, events, counter, slot⟩ := respond_keeps counted f .malformed []
  obtain ⟨queueEnd, -, slotEnd, tablesEnd, eventsEnd, counterEnd⟩ :=
    finish_keeps (sound_respond counted f .malformed [])
  rw [executeFrame_malformed malformed]
  exact ⟨queueEnd.trans dropped, (counterEnd.trans counter).trans (State.bump_counter_same ..), tablesEnd.trans tables,
    eventsEnd.trans events, fun origin => slotEnd.trans (slot origin)⟩

/-- Settles O47: the frame's requests keep the control engine's records, its response is built from theirs, and then comes the end of
the command. -/
theorem controlFrameExecuted : Obligations.ControlFrameExecuted := by
  intro s tm f h next
  have now : (s.atTime tm).tables.Sound := h
  have run := exec_controlFrameExecute next tm
  refine ⟨?_, fun rs done bytes u parsed hdone built hu => ?_⟩
  · obtain ⟨rest, queue⟩ := nextFrame_queue next
    obtain ⟨dropped, number, slot⟩ := finish_executeFrame (s := s.atTime tm) now queue
    exact ⟨_, run, dropped, number, slot, finish_malformed (s := s.atTime tm) now⟩
  · have asked : Requested (s.atTime tm) done.1 := hdone ▸ requested_frameRequests f.origin _ rs (s.atTime tm, []) now
    have responds : executeFrame f (s.atTime tm) = respond f .ok done.2 done.1 := hdone ▸ executeFrame_parsed parsed
    have work := onlyPlaced_finish (sound_respond asked.sound f .ok done.2)
    have dropped : u = done.1.dropFrame s.ctl.nextResp := hu
    rw [responds] at run
    rw [dropped]
    refine ⟨fun origin => ⟨_, run, ?_⟩, fun origin up room => ⟨_, run, ?_⟩, fun origin up room => ⟨_, run, ?_⟩,
      fun origin down => ⟨_, run, ?_⟩⟩
    · exact respond_farm asked.sound asked.nextResp built origin ▸ work
    · exact respond_admitted asked.sound asked.nextResp built origin up room ▸ work
    · exact respond_full asked.sound asked.nextResp built origin up room ▸ work
    · exact respond_down asked.sound asked.nextResp origin down ▸ work

end Sys2Proof.Machine
end
